-- ==== Sys2Proof/Word.lean ====
section
/-! DEFINITION. The word types of the 6420 and the per-head quadruple. -/

namespace Sys2Proof

/-- One byte of a host-memory structure, a record or a message field. -/
abbrev Byte := BitVec 8
/-- A 32-bit register value (R169). -/
abbrev Word := BitVec 32
/-- A host address (00, Host memory). -/
abbrev Addr := BitVec 64
/-- A Time Base value in microseconds, 48 bits (R183). -/
abbrev Time := BitVec 48
/-- A revolution number, 32 bits, wrapping (R14). -/
abbrev Rev := BitVec 32
/-- An exposure class, 0 to 3 (00, Terms). -/
abbrev ExpClass := BitVec 2

/-- The four heads, each served by the port of its number (00, Names). -/
inductive Head where
  | h0 | h1 | h2 | h3
  deriving DecidableEq, Repr

/-- All heads in ascending head number. -/
def Head.all : List Head := [.h0, .h1, .h2, .h3]

/-- The head's number. -/
def Head.num : Head → Nat
  | .h0 => 0
  | .h1 => 1
  | .h2 => 2
  | .h3 => 3

/-- One thing per head. -/
structure PerHead (α : Type) where
  h0 : α
  h1 : α
  h2 : α
  h3 : α
  deriving DecidableEq, Repr

/-- The thing of one head. -/
def PerHead.get {α : Type} (p : PerHead α) : Head → α
  | .h0 => p.h0
  | .h1 => p.h1
  | .h2 => p.h2
  | .h3 => p.h3

/-- The quadruple with one head's thing replaced. -/
def PerHead.set {α : Type} (p : PerHead α) (h : Head) (x : α) : PerHead α :=
  match h with
  | .h0 => { p with h0 := x }
  | .h1 => { p with h1 := x }
  | .h2 => { p with h2 := x }
  | .h3 => { p with h3 := x }

/-- The same thing for every head. -/
def PerHead.all {α : Type} (x : α) : PerHead α := ⟨x, x, x, x⟩

/-- Each head's thing changed by one function. -/
def PerHead.map {α β : Type} (f : α → β) (p : PerHead α) : PerHead β :=
  ⟨f p.h0, f p.h1, f p.h2, f p.h3⟩

/-- Each head's thing made from the head. -/
def PerHead.of {α : Type} (f : Head → α) : PerHead α := ⟨f .h0, f .h1, f .h2, f .h3⟩

/-- A set of heads (00, head mask). -/
abbrev HeadSet := PerHead Bool

/-- The heads of a set in ascending head number. -/
def PerHead.members (m : HeadSet) : List Head := Head.all.filter m.get

end Sys2Proof
end

