-- ==== Sys2Proof/Syntax.lean ====
section
/-! DEFINITION. The commands of the 6420: one constructor of Instr for each row of the table of operations and events. -/

namespace Sys2Proof

/-- The taken levels of W0 to W3 and F0 to F7 as the inputs stand when a reset ends (R113). -/
structure Levels where
  w : BitVec 4
  f : BitVec 8
  deriving DecidableEq, Repr

/-- The two encoder phases (R1). -/
inductive Phase where
  | encA | encB
  deriving DecidableEq, Repr

/-- A filtered input line: a wait line W0 to W3 or a fixture line F0 to F7 (R113). -/
inductive Line where
  | wait (n : Fin 4)
  | fixture (n : Fin 8)
  deriving DecidableEq, Repr

/-- The two monitor outputs (R61). -/
inductive Mon where
  | mon0 | mon1
  deriving DecidableEq, Repr

/-- How a host-memory read ended: with bytes, or with a read error (R129, R133). -/
inductive ReadResult where
  | data (bytes : List Byte)
  | error
  deriving DecidableEq, Repr

/-- The fields of a SAMPLE message (03, head link), each of the width of its range. -/
structure Sample where
  seq : BitVec 8
  raw : BitVec 20
  intensity : BitVec 12
  quality : BitVec 8
  saturated : Bool
  noPeak : Bool
  deriving DecidableEq, Repr

/-- The producers that can wait for an entry of the Staging Buffer (R153). -/
inductive Producer where
  | port (h : Head)
  | referenceCheck
  | revisit
  | orderEngine
  deriving DecidableEq, Repr

/-- Whose host-memory access ended with an error (R167). -/
inductive BusSource where
  | resultWriter
  | orderEngine
  | statusPage
  deriving DecidableEq, Repr

/-- The commands, in the order of spec/opcode_table.json. -/
inductive Instr where
  | start
  | halt
  | abort
  | resume
  | stop
  | softReset (levels : Levels)
  | nudge (value : Word)
  | noteRawWrite (value : Word)
  | noteEnWrite (value : Word)
  | registerWrite (offset : BitVec 12) (enables : BitVec 4) (value : Word)
  | coldReset (levels : Levels)
  | countStep (phase : Phase) (index : Bool)
  | illegalTransition
  | homingTimerExpiry
  | indexWatchExpiry
  | seriesComplete (h : Head)
  | readyReceived (h : Head)
  | sampleReceived (h : Head) (m : Sample)
  | alertReceived (h : Head) (code : Byte)
  | frameError (h : Head)
  | linkLoss (h : Head)
  | wakeTimerExpiry (h : Head)
  | responseTimerExpiry (h : Head)
  | lightJudgedLow
  | lightJudgedGood
  | monPulseEnd (m : Mon)
  | filterLimit (h : Head)
  | referenceDue (h : Head)
  | referenceOverdue (h : Head)
  | passageComplete (h : Head)
  | takenLevelChange (line : Line)
  | settleTimerExpiry
  | fixtureTimerExpiry
  | linkRead (r : ReadResult)
  | blockStatusRead (r : ReadResult)
  | headerRead (r : ReadResult)
  | zoneTableRead (r : ReadResult)
  | correctionTableRead (r : ReadResult)
  | loadingEnd
  | lightGraceExpiry
  | lightWaitDeparture
  | drainComplete
  | completionWritten
  | terminalStatusWritten
  | entryGrant (p : Producer)
  | outputStall
  | segmentEntryRead (bytes : List Byte)
  | segmentTakeWritten
  | recordWritten
  | fillUpdateWritten
  | fullWritten
  | busWrite (source : BusSource)
  | cellRecordRead (r : ReadResult)
  | unitRunning
  | statusPageWritten
  | stoppedEntryComplete
  | linkActivity (h : Head)
  deriving DecidableEq, Repr

end Sys2Proof
end

