-- ==== Sys2Proof/Decode.lean ====
section
/-! DEFINITION. The decoder over the table's words: no row of spec/opcode_table.json gives bits, so no word spells a command. -/

namespace Sys2Proof

/-- The command that a word of `nbits` bits spells by the bits of the table. Every row's "fields" is empty
and none has "fixed" (spec/opcode_table.json), so none is spelt. -/
def decodeTableWord (_nbits _w : Nat) : Option Instr := none

end Sys2Proof
end

