-- ==== Sys2Proof/Config.lean ====
section
/-! DEFINITION. What an implementation fixes and the free values: constants with no body are values the spec leaves open; the capacities are the spec's. -/

namespace Sys2Proof

/-- The revision field of IDENT, bits 15 to 0 (10, register table): the spec gives no value. Free (log 7). -/
opaque Config.revision : BitVec 16

/-- The free choices where the spec gives no order ("in either order"; R85, R142, R151, R153): the
n-th choice taken is `Config.freeChoice n`. Free (log 6). -/
opaque Config.freeChoice : Nat → Nat

/-- Staged records at which a sample record is refused (R152). -/
def Config.sampleRoom : Nat := 1016
/-- Entries of the Staging Buffer (R151). -/
def Config.bufferRoom : Nat := 1024
/-- Entries of a revisit list (R84). -/
def Config.revisitRoom : Nat := 128
/-- Entries of an in-flight list (R48). -/
def Config.inFlightRoom : Nat := 8
/-- Entries of the Segment Table (R160). -/
def Config.segmentEntries : Nat := 64
/-- Indices an order's segment list holds (R165). -/
def Config.segmentListRoom : Nat := 32
/-- Dropped points a pending gap counts (R155). -/
def Config.gapRoom : Nat := 65535
/-- Step restarts an order may make (R141). -/
def Config.restartRoom : Nat := 2

end Sys2Proof
end

