-- ==== Sys2Proof/Machine/State.lean ====
section
/-! DEFINITION. The state of the 6420 as plain data, block by block, and its value after reset. -/

namespace Sys2Proof.Machine

/-! ## Timers -/

/-- A timer of the part: stopped, or running since a Time Base value with a period in microseconds. Its
expiry is a command of the table (log 3). -/
inductive Timer where
  | stopped
  | running (start : Time) (period : Nat)
  deriving DecidableEq, Repr

/-! ## Angle Tracker (01) -/

/-- Tracker states (01, state table). -/
inductive TrackerState where
  | idle | seeking | measuring | tracking | lost
  deriving DecidableEq, Repr

/-- Direction sense (R4). -/
inductive Sense where
  | forward | reverse
  deriving DecidableEq, Repr

/-- The tracker's configuration from the Cell Record (R3); the period is in ms. -/
structure TrackerConfig where
  cpr : Nat
  origin : Nat
  sense : Sense
  maxPeriod : Nat
  deriving DecidableEq, Repr

/-- The Angle Tracker (01, R1 to R17). `index` is the level of ENC_I at the position the table stands on. -/
structure Tracker where
  state : TrackerState
  rawCount : Nat
  travel : Option Int
  config : Option TrackerConfig
  revolution : Rev
  homingTimer : Timer
  indexWatch : Timer
  encA : Bool
  encB : Bool
  index : Bool
  deriving DecidableEq, Repr

/-! ## Passes and trigger points (02) -/

/-- Pass kinds (02, section 2.4). -/
inductive PassKind where
  | normal | revisit | reference
  deriving DecidableEq, Repr

/-- A pass: its kind and its pass index, or round for REVISIT. -/
structure PassId where
  kind : PassKind
  index : Nat
  deriving DecidableEq, Repr

/-- Pass states of a record (02, section 2.4). -/
inductive PassState where
  | notArmed | waitingStart | inPass | done
  deriving DecidableEq, Repr

/-- A pass record (02, section 2.4). `withheld` is set for SUSPENDED. -/
structure PassRecord where
  state : PassState
  pass : PassId
  armed : Nat
  position : Option Int
  reach : Nat
  zone : Option Nat
  nextTrigger : Option Nat
  withheld : Bool
  deriving DecidableEq, Repr

/-- One zone of a zone table (02, section 2.1). -/
structure Zone where
  length : Nat
  pitch : Nat
  mask : HeadSet
  burst : Nat
  floor : Byte
  expClass : ExpClass
  revisitClass : ExpClass
  revisit : Bool
  interleave : Bool
  deriving DecidableEq, Repr

/-- A zone table copy (R18). -/
structure ZoneTable where
  start : Nat
  full : Bool
  zones : List Zone
  deriving DecidableEq, Repr

/-- One head's part of the Trigger Generator: its two pass records, whether its series is open (R31), whether
the pass that a NOT_ARMED scan record names had ended when the record was disarmed (R155), and the counts of
the running reference passage (R30). -/
structure HeadPasses where
  scan : PassRecord
  ref : PassRecord
  seriesOpen : Bool
  scanEnded : Bool
  refIssued : Nat
  refSkipped : Nat
  deriving DecidableEq, Repr

/-- The Trigger Generator (02, R18 to R39). -/
structure TriggerGen where
  zones : Option ZoneTable
  heads : PerHead HeadPasses
  deriving DecidableEq, Repr

/-! ## Records (04, 09, 11) -/

/-- Reject causes (R64). -/
inductive RejectCause where
  | none | lowQuality | saturated | noPeak | noReply
  deriving DecidableEq, Repr

/-- Record formats (08, header table; 11.2). -/
inductive RecordFormat where
  | raw | compact | standard | extended
  deriving DecidableEq, Repr

/-- Order kinds (08, header table; 11.2). -/
inductive OrderKind where
  | scan | calibrateReference | settings | mark
  deriving DecidableEq, Repr

/-- What a STANDARD sample carries besides the common items (R78). -/
structure StandardItems where
  zone : Nat
  passIndex : Nat
  step : Nat
  distance : Int
  revolution : Rev
  deriving DecidableEq, Repr

/-- The part of a sample record that its format decides (R76 to R78). -/
inductive SampleBody where
  | raw (code : BitVec 20)
  | compact (offset : Int) (clipped : Bool)
  | standard (items : StandardItems)
  | extended (items : StandardItems) (code : BitVec 20) (intensity : BitVec 12) (timeOffset : Nat)
  deriving DecidableEq, Repr

/-- A sample record (R75). REJECTED is set exactly when the cause is not none (R186). -/
structure SampleRecord where
  head : Head
  point : Nat
  quality : Byte
  cause : RejectCause
  revisit : Bool
  unsettled : Bool
  body : SampleBody
  deriving DecidableEq, Repr

/-- Reasons of a revisit candidate, a set (R84). -/
structure Reasons where
  quality : Bool
  gap : Bool
  busy : Bool
  suspended : Bool
  headLost : Bool
  deriving DecidableEq, Repr

/-- Reasons of a GAP record (11.5). -/
inductive GapReason where
  | gap | suspended | headLost | unresolved
  deriving DecidableEq, Repr

/-- A GAP record (R155, R156, R94). -/
structure GapRecord where
  head : Head
  reason : GapReason
  step : Nat
  zone : Nat
  firstPass : PassId
  lastPass : PassId
  causes : Reasons
  attempts : Nat
  first : Nat
  last : Nat
  count : Nat
  deriving DecidableEq, Repr

/-- Verdicts of a REFERENCE record (R106). -/
inductive Verdict where
  | ok | overLimit | sparse | noNominal | calibrated | notApplied
  deriving DecidableEq, Repr

/-- A REFERENCE record (R106); a step index of none is written 0xFF (R186). -/
structure ReferenceRecord where
  head : Head
  verdict : Verdict
  step : Option Nat
  triggers : Nat
  good : Nat
  mean : Int
  nominal : Int
  drift : Int
  revolution : Rev
  time : Time
  deriving DecidableEq, Repr

/-- Terminal statuses of an order (R128). -/
inductive Terminal where
  | done | failed | aborted
  deriving DecidableEq, Repr

/-- End reasons (11.2). -/
inductive EndReason where
  | complete | validation | readError | tableCheck | headsLost | headFaultAction | settleTimeout
  | fixtureTimeout | fixtureChanged | driftLimit | referenceOverdue | referenceSparse | outputStall
  | lightLost | encoderFault | abortCommand
  deriving DecidableEq, Repr

/-- An end reason with its detail code (R142, 11.2). -/
structure EndSlot where
  reason : EndReason
  detail : Nat
  deriving DecidableEq, Repr

/-- Settle state of a step (R119). -/
inductive SettleState where
  | settled | unsettled
  deriving DecidableEq, Repr

/-- The flags of an order header (11.2). -/
structure OrderFlags where
  keepRejected : Bool
  continueOnFail : Bool
  checkFixture : Bool
  unsettledOk : Bool
  referenceChecks : Bool
  closeAtEnd : Bool
  deriving DecidableEq, Repr

/-- An ORDER-begin record (R134). -/
structure OrderBeginRecord where
  kind : OrderKind
  tag : Word
  mask : HeadSet
  format : RecordFormat
  stepCount : Nat
  revolutions : Nat
  revisitLimit : Nat
  flags : OrderFlags
  time : Time
  revolution : Rev
  deriving DecidableEq, Repr

/-- An ORDER-end record (R134). -/
structure OrderEndRecord where
  tag : Word
  status : Terminal
  reason : EndReason
  detail : Nat
  time : Time
  revolution : Rev
  deriving DecidableEq, Repr

/-- A STEP-begin record, with RESTART for a restarted step (R137, R141). -/
structure StepBeginRecord where
  tag : Word
  step : Nat
  position : Int
  settle : SettleState
  settleTime : Nat
  restart : Bool
  time : Time
  revolution : Rev
  deriving DecidableEq, Repr

/-- A STEP-end record (R139). -/
structure StepEndRecord where
  tag : Word
  step : Nat
  time : Time
  revolution : Rev
  unresolved : Nat
  restarts : Nat
  deriving DecidableEq, Repr

/-- A record of the result stream (R186). -/
inductive Record where
  | sample (r : SampleRecord)
  | orderBegin (r : OrderBeginRecord)
  | orderEnd (r : OrderEndRecord)
  | stepBegin (r : StepBeginRecord)
  | stepEnd (r : StepEndRecord)
  | gap (r : GapRecord)
  | reference (r : ReferenceRecord)
  deriving DecidableEq, Repr

/-! ## Head Ports and Light Monitor (03) -/

/-- Head states (03). -/
inductive HeadState where
  | off | waking | ready | fault | forcedOff
  deriving DecidableEq, Repr

/-- Causes of a PORT fault record (03, R45). -/
inductive PortCause where
  | wakeTimeout | linkOrder | linkFrame | linkState | linkLost
  deriving DecidableEq, Repr

/-- A port's fault record (03, R45). -/
inductive FaultRecord where
  | none
  | head (code : Byte)
  | port (cause : PortCause)
  deriving DecidableEq, Repr

/-- Fault actions of a head configuration record (R68). -/
inductive FaultAction where
  | continueOn | suspendPass | failOrder
  deriving DecidableEq, Repr

/-- The exposure codes for classes 0 to 3 (R47). -/
structure ExposureCodes where
  c0 : Byte
  c1 : Byte
  c2 : Byte
  c3 : Byte
  deriving DecidableEq, Repr

/-- A head configuration record (R47). `action` is none for a code outside the table, which only a record
of an absent head can hold (R184). -/
structure HeadConfig where
  present : Bool
  action : Option FaultAction
  blank : Nat
  limit : Nat
  mount : Nat
  codes : ExposureCodes
  timeout : Byte
  deriving DecidableEq, Repr

/-- A message the part sends on a head link (03, head link). -/
inductive LinkMessage where
  | wake (codes : ExposureCodes) (timeout : Byte)
  | trigger (seq : BitVec 8) (expClass : ExpClass)
  | sleep
  deriving DecidableEq, Repr

/-- One exposure of a burst group as retired: a reply, or NO_REPLY, with its reply time (R49, R50, R51). -/
inductive Exposure where
  | reply (raw : BitVec 20) (intensity : BitVec 12) (quality : Byte) (saturated noPeak : Bool) (time : Time)
  | noReply (time : Time)
  deriving DecidableEq, Repr

/-- An entry of the in-flight list (R49). -/
structure InFlight where
  seq : BitVec 8
  point : Nat
  zone : Option Nat
  pass : PassId
  step : Option Nat
  revolution : Rev
  expClass : ExpClass
  floor : Byte
  ordinal : Nat
  burst : Nat
  issueTime : Time
  abandoned : Bool
  timer : Timer
  result : Option Exposure
  deriving DecidableEq, Repr

/-- A pending gap (R155). -/
structure PendingGap where
  first : Nat
  firstPass : PassId
  last : Nat
  lastPass : PassId
  step : Nat
  count : Nat
  deriving DecidableEq, Repr

/-- A head port (03, R40 to R62; 09, R155, R156). `sent` is the trace of messages sent, oldest first. -/
structure Port where
  state : HeadState
  faultRecord : FaultRecord
  wakeTimer : Timer
  wakePending : Bool
  seqCounter : BitVec 8
  inFlight : List InFlight
  config : Option HeadConfig
  timeoutInForce : Byte
  linkWatch : Bool
  gap : Option PendingGap
  gapWaits : Bool
  heldSuspended : Option GapRecord
  heldHeadLost : Option GapRecord
  sent : List LinkMessage
  deriving DecidableEq, Repr

/-- Supply judgements (R57). -/
inductive Judgement where
  | unknown | low | good
  deriving DecidableEq, Repr

/-- Recovery modes (R57, R59). -/
inductive Recovery where
  | auto | latched
  deriving DecidableEq, Repr

/-- The Light Monitor (R57 to R60). -/
structure Light where
  judgement : Judgement
  present : Bool
  mode : Recovery
  deriving DecidableEq, Repr

/-- Signals a monitor output can show (R61). -/
inductive MonSignal where
  | triggerIssued | outcomeGood | outcomeBad | inPass
  deriving DecidableEq, Repr

/-- A monitor selection: NONE, or a head and a signal (R61). -/
inductive MonSelection where
  | none
  | signal (head : Head) (sig : MonSignal)
  deriving DecidableEq, Repr

/-- A monitor output: its selection and whether a pulse is high (R61). -/
structure MonOutput where
  selection : MonSelection
  pulse : Bool
  deriving DecidableEq, Repr

/-! ## Qualifier (04) -/

/-- A head's correction table: identity, or the 257 points (R71, R73). -/
inductive CorrectionTable where
  | identity
  | points (t : List Int)
  deriving DecidableEq, Repr

/-- One head's part of the Qualifier (04, state table). -/
structure HeadQual where
  table : CorrectionTable
  classInUse : Option ExpClass
  blank : Nat
  filter : Nat
  deriving DecidableEq, Repr

/-- The Qualifier (04, R63 to R83). -/
structure Qualifier where
  heads : PerHead HeadQual
  settle : SettleState
  deriving DecidableEq, Repr

/-! ## Revisit Unit (05) -/

/-- An entry of a revisit list (R84). -/
structure Entry where
  head : Head
  zone : Nat
  first : Nat
  last : Nat
  reasons : Reasons
  attempts : Nat
  deriving DecidableEq, Repr

/-- List phases (05, R85). -/
inductive ListPhase where
  | idle | acquiring | round | closing
  deriving DecidableEq, Repr

/-- The Revisit Unit (05, R84 to R99). -/
structure Revisit where
  current : List Entry
  next : List Entry
  round : Nat
  phase : ListPhase
  awaited : HeadSet
  held : Option GapRecord
  unresolvedStaged : Nat
  deriving DecidableEq, Repr

/-! ## Reference Check Unit (06) -/

/-- Drift actions (R107). -/
inductive DriftAction where
  | warn | fail
  deriving DecidableEq, Repr

/-- The reference configuration (R100). -/
structure RefConfig where
  start : Nat
  length : Nat
  pitch : Nat
  floor : Byte
  interval : Nat
  driftLimit : Nat
  driftAction : DriftAction
  deriving DecidableEq, Repr

/-- Modes of the Reference Check Unit (R101). -/
inductive RefMode where
  | off | checking | calibrating
  deriving DecidableEq, Repr

/-- Passage states (06, state table). -/
inductive PassageState where
  | idle | opened | held
  deriving DecidableEq, Repr

/-- A tally: triggers, good outcomes, exact sum of their values before drift (R103). -/
structure Tally where
  triggers : Nat
  good : Nat
  sum : Int
  deriving DecidableEq, Repr

/-- One head's part of the Reference Check Unit (06, state table). `endTaken`: the passage end has been
taken (R104). -/
structure HeadRef where
  nominal : Int
  nominalValid : Bool
  drift : Int
  due : Nat
  passage : PassageState
  tally : Tally
  endTaken : Bool
  held : Option ReferenceRecord
  calDone : Nat
  calTally : Tally
  deriving DecidableEq, Repr

/-- The Reference Check Unit (06, R100 to R112). -/
structure RefCheck where
  config : Option RefConfig
  mode : RefMode
  heads : PerHead HeadRef
  deriving DecidableEq, Repr

/-! ## Span and Fixture Interface (07) -/

/-- The interface's configuration (R114). Bit n of `polarity` is set for ACTIVE_LOW on Wn. -/
structure SpanConfig where
  settleLine : Fin 4
  polarity : BitVec 4
  settleLimit : Nat
  fixtureMask : BitVec 8
  fixtureCompare : BitVec 8
  fixtureWait : Nat
  deriving DecidableEq, Repr

/-- Handshake phases (07.2). -/
inductive Handshake where
  | idle | requesting | settling
  deriving DecidableEq, Repr

/-- Fixture phases (07, state table). -/
inductive FixturePhase where
  | off | matching | watching | tripped
  deriving DecidableEq, Repr

/-- The Span and Fixture Interface (07, R113 to R126). -/
structure Span where
  w : BitVec 4
  f : BitVec 8
  config : Option SpanConfig
  handshake : Handshake
  stepReq : Bool
  settleTimer : Timer
  requestTime : Time
  fixture : FixturePhase
  fixtureTimer : Timer
  capture : BitVec 8
  deriving DecidableEq, Repr

/-! ## Order Engine (08) -/

/-- Engine states (08.3). -/
inductive EngineState where
  | idle | fetching | validating | loading | arming | stepMove | acquiring | revisiting | stepClose
  | lightWait | closing
  deriving DecidableEq, Repr

/-- Where CLOSING stands (R145): waiting for the ORDER-begin record to be taken (stage 1), for the drain
(2), for the ORDER-end record to be taken (3), for the records to be written (4), for the CLOSE_AT_END
close (5), for the completion and the terminal status to be written (6). -/
inductive ClosingStage where
  | orderBegin | drain | orderEnd | records | segment | completion | terminal
  deriving DecidableEq, Repr

/-- Held reasons (08, state table). -/
inductive HeldReason where
  | staleOrder | readError | orderFailed | orderAborted
  deriving DecidableEq, Repr

/-- The header of an Order Block (08.1, 11.2). `kind` and `format` are none for a code outside their
tables (R184). `span` is the 256-byte span area. -/
structure OrderHeader where
  kind : Option OrderKind
  format : Option RecordFormat
  mask : HeadSet
  tag : Word
  flags : OrderFlags
  stepCount : Nat
  revolutions : Nat
  revisitLimit : Nat
  replaceMask : HeadSet
  compactBase : Int
  zoneAddr : Addr
  correctionAddr : PerHead Addr
  span : List Byte
  deriving DecidableEq, Repr

/-- The active copy: the header, and the tables read for the order in VALIDATING (R127, R18, R71). -/
structure ActiveOrder where
  header : OrderHeader
  zones : Option ZoneTable
  tables : PerHead CorrectionTable
  deriving DecidableEq, Repr

/-- The Order Engine's host-memory access in progress. `link` carries the block or anchor that holds the
link; `status` that holder and the block named. -/
inductive OrderAccess where
  | none
  | link (holder : Addr)
  | status (holder block : Addr)
  | header
  | zoneTable
  | correction (h : Head)
  | completion
  | terminal
  deriving DecidableEq, Repr

/-- The counts of an order's completion (08.1). -/
structure Counts where
  issued : Nat
  accepted : Nat
  rejected : Nat
  dropped : Nat
  abandoned : Nat
  skipped : Nat
  created : Nat
  resolved : Nat
  unresolved : Nat
  lost : Nat
  stepsCompleted : Nat
  stepRestarts : Nat
  deriving DecidableEq, Repr

/-- The flags of an order's completion that the Order Engine keeps (08.1); SEGMENT_LIST_OVERFLOW is the
Result Writer's (R165). -/
structure CompletionFlags where
  unresolved : Bool
  restarted : Bool
  unsettled : Bool
  driftWarned : Bool
  deriving DecidableEq, Repr

/-- The Order Engine (08, R127 to R150). `early` marks an order ended before LOADING (R133); `interrupting`
an entry to LIGHT_WAIT that interrupts the step (R140); `abortPending` an ABORT that waits for the end of the read
in progress (R133, R144; log 60); `beginTaken` that the ORDER-begin record has been
taken (R143); `rewoken` the heads a SETTINGS order waits for (R148). -/
structure OrderEngine where
  engine : EngineState
  stage : ClosingStage
  early : Bool
  chain : Option Addr
  park : Option Addr
  heldPoint : Option Addr
  heldReason : Option HeldReason
  recheck : Bool
  doing : OrderAccess
  abortPending : Bool
  active : Option ActiveOrder
  stepIndex : Nat
  restarts : Nat
  stepRestarts : Nat
  grace : Nat
  excluded : HeadSet
  endSlot : Option EndSlot
  abortMark : Bool
  counts : Counts
  flags : CompletionFlags
  marker : Option Record
  beginTaken : Bool
  interrupting : Bool
  settle : SettleState
  settleTime : Nat
  stepStart : Time
  rewoken : HeadSet
  startTime : Time
  startRevolution : Rev
  lightGrace : Option Nat
  activeTag : Word
  deriving DecidableEq, Repr

/-! ## The host bus (R166) -/

/-- One write into host memory. -/
structure HostWrite where
  addr : Addr
  bytes : List Byte
  deriving DecidableEq, Repr

/-- Kinds of host-memory access, by the command that ends each. -/
inductive BusKind where
  | cellRecord | link | blockStatus | header | zoneTable | correctionTable | segmentEntry
  | take | record | fillUpdate | full | loading | completion | terminal | statusPage
  deriving DecidableEq, Repr

/-- An event of the part's host bus (R166): a read or a group of writes begun, an access ended, an access
failed, or an access let go by its issuer at a reset or a stop (R179). -/
inductive BusEvent where
  | read (kind : BusKind) (addr : Addr) (length : Nat)
  | write (kind : BusKind) (writes : List HostWrite)
  | ended (kind : BusKind)
  | failed (kind : BusKind)
  | released (kinds : List BusKind)
  deriving DecidableEq, Repr

/-! ## Staging Buffer and Result Writer (09) -/

/-- A staged record with the sequence tag of its order (R151, R162). -/
structure Staged where
  record : Record
  tag : Word
  deriving DecidableEq, Repr

/-- The Staging Buffer (R151 to R158). Its count is the number of staged records; its waiting producers are
the owners of the held records. -/
structure Staging where
  staged : List Staged
  highWater : Nat
  dropFlag : Bool
  stallCount : Nat
  stallLimit : Option Nat
  discarded : Nat
  deriving DecidableEq, Repr

/-- Writer phases (09.4). -/
inductive WriterPhase where
  | idle | taking | starved | writing | closingSegment | stoppedByFault
  deriving DecidableEq, Repr

/-- Close reasons (R164). -/
inductive CloseReason where
  | length | orderEnd | stop | fault
  deriving DecidableEq, Repr

/-- A segment being filled (09.4). -/
structure Segment where
  index : Nat
  address : Addr
  length : Nat
  fill : Nat
  count : Nat
  firstTag : Word
  deriving DecidableEq, Repr

/-- The Result Writer's host-memory access in progress. -/
inductive WriterAccess where
  | none
  | entry
  | take
  | record
  | fillUpdate
  | full (reason : CloseReason)
  deriving DecidableEq, Repr

/-- The Result Writer (R159 to R168). During a take, `entry` is the entry being read and `left` the number
of entries not yet read, `entry` included; `target` is the segment whose take writes are in progress. `rest`
are the accesses of the group in progress that follow the first, each issued only after the one before it has
ended (R166, R159). -/
structure Writer where
  phase : WriterPhase
  cursor : Nat
  filling : Option Segment
  recheck : Bool
  segments : List Nat
  overflow : Bool
  doing : WriterAccess
  entry : Nat
  left : Nat
  target : Option Segment
  rest : List BusEvent
  deriving DecidableEq, Repr

/-! ## Exchange Engine and unit control (10) -/

/-- Unit states (10.2). -/
inductive UnitState where
  | stopped | starting | running | parked | held | halting | faulted
  deriving DecidableEq, Repr

/-- Fault causes of the unit (10.1, USTAT). -/
inductive FaultCause where
  | cellInvalid | homeTimeout | homeMismatch | encoderSlip | encoderLost | busWrite
  deriving DecidableEq, Repr

/-- Results shown by UCMD (10.1). -/
inductive CommandResult where
  | none | accepted | refusedState
  deriving DecidableEq, Repr

/-- The Exchange Engine (10.1, 10.4 to 10.6). `bus` is the trace of accesses, oldest first; `stray` the
accesses still on the bus whose issuer has let go of them. -/
structure Exchange where
  xbaseL : Word
  xbaseH : Word
  ucmdCode : Nat
  ucmdResult : CommandResult
  noteRaw : BitVec 13
  noteEn : BitVec 13
  time : Time
  pageBusy : Bool
  pageQueued : Bool
  bus : List BusEvent
  stray : List BusKind
  deriving DecidableEq, Repr

/-- Unit control (10.2). `stopping`: an entry to STOPPED is in progress (R177). `fault`: an encoder fault to
be entered when the order, or the read in progress, has ended (R13). `startWakes`: the present heads whose
wake of START has not ended (R174). -/
structure UnitControl where
  unit : UnitState
  cause : Option FaultCause
  stopping : Bool
  fault : Option FaultCause
  cellReading : Bool
  startWakes : HeadSet
  deriving DecidableEq, Repr

/-! ## The whole part -/

/-- The state of the 6420 and the queue of commands waiting for it. `free` counts the free choices taken
(log 6). -/
structure State where
  tracker : Tracker
  tg : TriggerGen
  ports : PerHead Port
  light : Light
  mon0 : MonOutput
  mon1 : MonOutput
  qu : Qualifier
  ru : Revisit
  rc : RefCheck
  sf : Span
  oe : OrderEngine
  sb : Staging
  rw : Writer
  xe : Exchange
  uc : UnitControl
  free : Nat
  pending : List Instr
  deriving DecidableEq, Repr

/-- Faults of the model. No command of this block ends in one: the part's own faults are states (R178, R45,
R142, R167). Raised by nothing, so neither safe nor unsafe. -/
inductive Fault where
  /-- Raised by no command; it stands because the interface asks for a type of faults. -/
  | unused
  deriving DecidableEq, Repr

/-- Refusals of the model. -/
inductive Refusal where
  /-- Raised by the dispatch arm of a command that has no meaning yet; safe. Every command has one. -/
  | notModelled (mnemonic : String)
  deriving DecidableEq, Repr

/-! ## Reset values -/

/-- The tracker after a reset (R17); the encoder inputs are low (log 8). -/
def Tracker.reset : Tracker :=
  { state := .idle, rawCount := 0, travel := none, config := none, revolution := 0, homingTimer := .stopped,
    indexWatch := .stopped, encA := false, encB := false, index := false }

/-- A pass record after a reset or a disarming, of the given pass (R38, R39). -/
def PassRecord.cleared (pass : PassId) : PassRecord :=
  { state := .notArmed, pass := pass, armed := 1, position := none, reach := 0, zone := none,
    nextTrigger := none, withheld := false }

/-- One head's pass records after a reset (R39). -/
def HeadPasses.reset : HeadPasses :=
  { scan := .cleared ⟨.normal, 0⟩, ref := .cleared ⟨.reference, 0⟩, seriesOpen := false,
    scanEnded := false, refIssued := 0, refSkipped := 0 }

/-- The Trigger Generator after a reset (R39). -/
def TriggerGen.reset : TriggerGen := { zones := none, heads := .all HeadPasses.reset }

/-- A head port after a cold reset (R62); link watch and timeout in force by log 10 and log 11. -/
def Port.reset : Port :=
  { state := .off, faultRecord := .none, wakeTimer := .stopped, wakePending := false, seqCounter := 0,
    inFlight := [], config := none, timeoutInForce := 0, linkWatch := true, gap := none, gapWaits := false,
    heldSuspended := none, heldHeadLost := none, sent := [] }

/-- The Light Monitor after a reset (R62). -/
def Light.reset : Light := { judgement := .unknown, present := false, mode := .auto }

/-- A monitor output after a reset (R62). -/
def MonOutput.reset : MonOutput := { selection := .none, pulse := false }

/-- The Qualifier after a reset (R83). -/
def Qualifier.reset : Qualifier :=
  { heads := .all { table := .identity, classInUse := none, blank := 0, filter := 0 }, settle := .settled }

/-- The Revisit Unit after a reset (R99); the count of UNRESOLVED records staged is the model's choice
(log 38). -/
def Revisit.reset : Revisit :=
  { current := [], next := [], round := 0, phase := .idle, awaited := .all false, held := none,
    unresolvedStaged := 0 }

/-- A cleared tally (R112). -/
def Tally.zero : Tally := { triggers := 0, good := 0, sum := 0 }

/-- One head's reference state after a cold reset (R112). -/
def HeadRef.reset : HeadRef :=
  { nominal := 0, nominalValid := false, drift := 0, due := 0, passage := .idle, tally := .zero,
    endTaken := false, held := none, calDone := 0, calTally := .zero }

/-- The Reference Check Unit after a cold reset (R112). -/
def RefCheck.reset : RefCheck := { config := none, mode := .off, heads := .all HeadRef.reset }

/-- The Span and Fixture Interface after a reset at which the inputs stand at `levels` (R113, R126). -/
def Span.reset (levels : Levels) : Span :=
  { w := levels.w, f := levels.f, config := none, handshake := .idle, stepReq := false,
    settleTimer := .stopped, requestTime := 0, fixture := .off, fixtureTimer := .stopped, capture := 0 }

/-- Counts all 0 (R134, R150). -/
def Counts.zero : Counts :=
  { issued := 0, accepted := 0, rejected := 0, dropped := 0, abandoned := 0, skipped := 0, created := 0,
    resolved := 0, unresolved := 0, lost := 0, stepsCompleted := 0, stepRestarts := 0 }

/-- Completion flags all clear (R134). -/
def CompletionFlags.clear : CompletionFlags :=
  { unresolved := false, restarted := false, unsettled := false, driftWarned := false }

/-- The Order Engine after a reset (R150). -/
def OrderEngine.reset : OrderEngine :=
  { engine := .idle, stage := .orderBegin, early := false, chain := none, park := none, heldPoint := none,
    heldReason := none, recheck := false, doing := .none, abortPending := false, active := none,
    stepIndex := 0, restarts := 0, stepRestarts := 0, grace := 0, excluded := .all false, endSlot := none,
    abortMark := false, counts := .zero, flags := .clear, marker := none, beginTaken := false,
    interrupting := false, settle := .settled, settleTime := 0, stepStart := 0, rewoken := .all false,
    startTime := 0, startRevolution := 0, lightGrace := none, activeTag := 0 }

/-- The Staging Buffer after a reset (R158). -/
def Staging.reset : Staging :=
  { staged := [], highWater := 0, dropFlag := false, stallCount := 0, stallLimit := none, discarded := 0 }

/-- The Result Writer after a reset (R168). -/
def Writer.reset : Writer :=
  { phase := .idle, cursor := 0, filling := none, recheck := false, segments := [], overflow := false,
    doing := .none, entry := 0, left := 0, target := none, rest := [] }

/-- The Exchange Engine after a cold reset (R179): NOTE_RAW holds POWER_ON, bit 12, alone. -/
def Exchange.reset : Exchange :=
  { xbaseL := 0, xbaseH := 0, ucmdCode := 0, ucmdResult := .none, noteRaw := 0x1000, noteEn := 0, time := 0,
    pageBusy := false, pageQueued := false, bus := [], stray := [] }

/-- Unit control after a reset: STOPPED with the entry complete, cause none (R179). -/
def UnitControl.reset : UnitControl :=
  { unit := .stopped, cause := none, stopping := false, fault := none, cellReading := false,
    startWakes := .all false }

/-- The part right after a cold reset, with every input line low (log 9) and nothing waiting. -/
def State.reset : State :=
  { tracker := .reset, tg := .reset, ports := .all Port.reset, light := .reset, mon0 := .reset,
    mon1 := .reset, qu := .reset, ru := .reset, rc := .reset, sf := .reset ⟨0, 0⟩, oe := .reset, sb := .reset,
    rw := .reset, xe := .reset, uc := .reset, free := 0, pending := [] }

end Sys2Proof.Machine
end

