-- ==== Sys2Proof/Machine/Flags.lean ====
section
/-! DEFINITION. Notices, the interrupt level and the readable registers (10: R169, R172, R180, R181). -/

namespace Sys2Proof.Machine

/-- The notices, in the order of the notice table (10.4). -/
inductive Notice where
  | orderEnd | orderFail | segFull | segStarved | stageHalf | parked | held | unitFault | headFault
  | lightLow | drift | outputLoss | powerOn
  deriving DecidableEq, Repr

/-- The bit of NOTE_RAW and NOTE_EN that a notice has (10.1). -/
def Notice.bit : Notice → Nat
  | .orderEnd => 0
  | .orderFail => 1
  | .segFull => 2
  | .segStarved => 3
  | .stageHalf => 4
  | .parked => 5
  | .held => 6
  | .unitFault => 7
  | .headFault => 8
  | .lightLow => 9
  | .drift => 10
  | .outputLoss => 11
  | .powerOn => 12

/-- The mask of one notice. -/
def Notice.mask (n : Notice) : BitVec 13 := 1#13 <<< n.bit

/-- A notice is set in NOTE_RAW. -/
def State.notice (s : State) (n : Notice) : Bool := s.xe.noteRaw.getLsbD n.bit

/-- A notice is set; a set taken while the bit is set changes nothing (R180). -/
def setNotice (n : Notice) (s : State) : State :=
  { s with xe := { s.xe with noteRaw := s.xe.noteRaw ||| n.mask } }

/-- Notice bits are cleared (R173, R180). -/
def clearNotices (m : BitVec 13) (s : State) : State :=
  { s with xe := { s.xe with noteRaw := s.xe.noteRaw &&& ~~~m } }

/-- The level of the PCIe interrupt: asserted while a bit is set in both NOTE_RAW and NOTE_EN (R181). -/
def State.interrupt (s : State) : Bool := s.xe.noteRaw &&& s.xe.noteEn != 0

/-! ## USTAT and register reads -/

/-- Unit state codes (10.1). -/
def UnitState.code : UnitState → Nat
  | .stopped => 0
  | .starting => 1
  | .running => 2
  | .parked => 3
  | .held => 4
  | .halting => 5
  | .faulted => 6

/-- Fault cause codes (10.1). -/
def FaultCause.code : FaultCause → Nat
  | .cellInvalid => 1
  | .homeTimeout => 2
  | .homeMismatch => 3
  | .encoderSlip => 4
  | .encoderLost => 5
  | .busWrite => 6

/-- Held reason codes (10.1). -/
def HeldReason.code : HeldReason → Nat
  | .staleOrder => 8
  | .readError => 9
  | .orderFailed => 10
  | .orderAborted => 11

/-- The cause that USTAT and the Status Page show: the fault cause in FAULTED and STOPPED, the held reason
in HELD, none otherwise (R172). -/
def State.causeShown (s : State) : Nat :=
  match s.uc.unit with
  | .faulted | .stopped => (s.uc.cause.map FaultCause.code).getD 0
  | .held => (s.oe.heldReason.map HeldReason.code).getD 0
  | .starting | .running | .parked | .halting => 0

/-- The READY mask (R172). -/
def State.readyMask (s : State) : Nat :=
  ((Head.all.filter fun h => (s.ports.get h).state == .ready).map fun h => 2 ^ h.num).sum

/-- USTAT as it stands (R172, 10.1). -/
def State.ustat (s : State) : Word :=
  BitVec.ofNat 32 (s.uc.unit.code + 2 ^ 4 * s.causeShown + 2 ^ 8 * s.readyMask
    + 2 ^ 12 * s.light.present.toNat + 2 ^ 16 * (s.sb.staged.length / 64))

/-- Result codes of UCMD (10.1). -/
def CommandResult.code : CommandResult → Nat
  | .none => 0
  | .accepted => 1
  | .refusedState => 2

/-- What a read of the register at an offset returns, without side effect (R169; 10.1). The offsets past
the window read as 0. -/
def State.readRegister (s : State) (offset : Nat) : Word :=
  match offset / 4 with
  | 0 => BitVec.ofNat 32 (0x6420 * 2 ^ 16 + Config.revision.toNat)
  | 1 => s.xe.xbaseL
  | 2 => s.xe.xbaseH
  | 3 => BitVec.ofNat 32 (s.xe.ucmdCode + 2 ^ 8 * s.xe.ucmdResult.code)
  | 4 => s.ustat
  | 6 => s.xe.noteRaw.setWidth 32
  | 7 => s.xe.noteEn.setWidth 32
  | _ => 0

/-- A byte of the register window: byte `offset % 4` of the register that holds it, the lowest first (R169;
log 27). -/
def State.readByte (s : State) (offset : Nat) : Byte :=
  BitVec.ofNat 8 ((s.readRegister offset).toNat / 2 ^ (8 * (offset % 4)))

/-- A read of `size` bytes from an offset returns the bytes of the registers addressed (R169). -/
def State.readBytes (s : State) (offset size : Nat) : List Byte :=
  (List.range size).map fun i => s.readByte (offset + i)

/-- The level of a monitor output: IN_PASS shows the head's pass records, a pulse signal its pulse, and NONE
is low (R61). -/
def State.monLevel (s : State) (m : MonOutput) : Bool :=
  match m.selection with
  | .none => false
  | .signal h .inPass =>
    (s.tg.heads.get h).scan.state == .inPass || (s.tg.heads.get h).ref.state == .inPass
  | .signal _ _ => m.pulse

end Sys2Proof.Machine
end

