-- ==== Sys2Proof/Machine/Formats.lean ====
section
/-! DEFINITION. The byte layouts the part writes (11): records, the completion, the Status Page and Segment Table entries, little-endian. -/

namespace Sys2Proof.Machine

/-! ## Numbers as bytes -/

/-- The `n` bytes of a number, least significant first (11). -/
def leBytes : Nat → Nat → List Byte
  | 0, _ => []
  | n + 1, v => BitVec.ofNat 8 v :: leBytes n (v / 256)

/-- A signed value as an `8 n`-bit two's complement number (11). -/
def twos (n : Nat) (v : Int) : Nat := (v % (2 : Int) ^ (8 * n)).toNat

/-- A head mask as bits 3 to 0 (11). -/
def maskBits (m : HeadSet) : Nat := m.h0.toNat + 2 * m.h1.toNat + 4 * m.h2.toNat + 8 * m.h3.toNat

/-! ## Codes -/

/-- Reject cause codes (11.5). -/
def RejectCause.code : RejectCause → Nat
  | .none => 0
  | .lowQuality => 1
  | .saturated => 2
  | .noPeak => 3
  | .noReply => 4

/-- Order kind codes (11.2). -/
def OrderKind.code : OrderKind → Nat
  | .scan => 0
  | .calibrateReference => 1
  | .settings => 2
  | .mark => 3

/-- Record format codes (11.2). -/
def RecordFormat.code : RecordFormat → Nat
  | .raw => 0
  | .compact => 1
  | .standard => 2
  | .extended => 3

/-- Terminal status codes (11.2). -/
def Terminal.code : Terminal → Nat
  | .done => 3
  | .failed => 4
  | .aborted => 5

/-- End reason codes (11.2). -/
def EndReason.code : EndReason → Nat
  | .complete => 0
  | .validation => 1
  | .readError => 2
  | .tableCheck => 3
  | .headsLost => 4
  | .headFaultAction => 5
  | .settleTimeout => 6
  | .fixtureTimeout => 7
  | .fixtureChanged => 8
  | .driftLimit => 9
  | .referenceOverdue => 10
  | .referenceSparse => 11
  | .outputStall => 12
  | .lightLost => 13
  | .encoderFault => 14
  | .abortCommand => 15

/-- The terminal status an end reason maps to (R142). -/
def EndReason.terminal : EndReason → Terminal
  | .complete => .done
  | .abortCommand => .aborted
  | .validation | .readError | .tableCheck | .headsLost | .headFaultAction | .settleTimeout | .fixtureTimeout
  | .fixtureChanged | .driftLimit | .referenceOverdue | .referenceSparse | .outputStall | .lightLost
  | .encoderFault => .failed

/-- GAP reason codes (11.5). -/
def GapReason.code : GapReason → Nat
  | .gap => 1
  | .suspended => 2
  | .headLost => 3
  | .unresolved => 4

/-- Verdict codes (11.5). -/
def Verdict.code : Verdict → Nat
  | .ok => 1
  | .overLimit => 2
  | .sparse => 3
  | .noNominal => 4
  | .calibrated => 5
  | .notApplied => 6

/-- Close reason codes (11.1). -/
def CloseReason.code : CloseReason → Nat
  | .length => 1
  | .orderEnd => 2
  | .stop => 3
  | .fault => 4

/-- Head state codes (11.1). -/
def HeadState.code : HeadState → Nat
  | .off => 0
  | .waking => 1
  | .ready => 2
  | .fault => 3
  | .forcedOff => 4

/-- The two bytes of a fault record (11.1). -/
def FaultRecord.bytes : FaultRecord → List Byte
  | .none => [0, 0]
  | .head code => [1, code]
  | .port .wakeTimeout => [2, 1]
  | .port .linkOrder => [2, 2]
  | .port .linkFrame => [2, 3]
  | .port .linkState => [2, 4]
  | .port .linkLost => [2, 5]

/-- Causes of an UNRESOLVED GAP record (11.5). -/
def Reasons.bits (r : Reasons) : Nat :=
  r.quality.toNat + 2 * r.gap.toNat + 4 * r.busy.toNat + 8 * r.suspended.toNat + 16 * r.headLost.toNat

/-- The flags of an order (11.2). -/
def OrderFlags.bits (f : OrderFlags) : Nat :=
  f.keepRejected.toNat + 2 * f.continueOnFail.toNat + 4 * f.checkFixture.toNat + 8 * f.unsettledOk.toNat
    + 16 * f.referenceChecks.toNat + 32 * f.closeAtEnd.toNat

/-- A pass byte of a GAP record: kind in bits 1 and 0, index in bits 7 to 4 (11.5). -/
def PassId.byte (p : PassId) : Byte :=
  BitVec.ofNat 8 ((match p.kind with
    | .normal => 1
    | .revisit => 2
    | .reference => 0) + 16 * p.index)

/-! ## Records -/

/-- The type code of a record (R186). -/
def Record.typeCode : Record → Nat
  | .sample r => match r.body with
    | .raw _ => 1
    | .compact _ _ => 2
    | .standard _ => 3
    | .extended _ _ _ _ => 4
  | .orderBegin _ => 8
  | .orderEnd _ => 9
  | .stepBegin _ => 10
  | .stepEnd _ => 11
  | .gap _ => 12
  | .reference _ => 13

/-- The length of a record in bytes (R186). -/
def Record.length : Record → Nat
  | .sample r => match r.body with
    | .raw _ => 8
    | .compact _ _ => 8
    | .standard _ => 16
    | .extended _ _ _ _ => 24
  | .orderBegin _ => 24
  | .orderEnd _ => 24
  | .stepBegin _ => 32
  | .stepEnd _ => 24
  | .gap _ => 24
  | .reference _ => 40

/-- A record is a sample record (R152). -/
def Record.isSample : Record → Bool
  | .sample _ => true
  | .orderBegin _ | .orderEnd _ | .stepBegin _ | .stepEnd _ | .gap _ | .reference _ => false

/-- The zone, pass index and step index bits of STANDARD and EXTENDED (11.5). -/
def StandardItems.bits (i : StandardItems) : Nat :=
  2 ^ 43 * (i.zone % 32) + 2 ^ 48 * (i.passIndex % 16) + 2 ^ 52 * (i.step % 64)

/-- The bits 62 to 43 of a sample's first word (11.5). -/
def SampleBody.bits : SampleBody → Nat
  | .raw code => 2 ^ 43 * code.toNat
  | .compact offset clipped => 2 ^ 43 * clipped.toNat + 2 ^ 44 * twos 2 offset
  | .standard i => i.bits
  | .extended i _ _ _ => i.bits

/-- The first 8-byte word of a sample record (11.5). -/
def SampleRecord.word (r : SampleRecord) : Nat :=
  (Record.sample r).typeCode + 2 ^ 4 * r.head.num + 2 ^ 6 * r.revisit.toNat + 2 ^ 7 * r.unsettled.toNat
    + 2 ^ 8 * r.cause.code + 2 ^ 11 * r.quality.toNat + 2 ^ 19 * (r.point % 2 ^ 24) + r.body.bits

/-- Bytes 8 to 15 of STANDARD and EXTENDED (11.5). -/
def StandardItems.bytes (i : StandardItems) : List Byte :=
  leBytes 4 (twos 4 i.distance) ++ leBytes 4 i.revolution.toNat

/-- The bytes of a sample record after its first word (11.5). -/
def SampleBody.bytes : SampleBody → List Byte
  | .raw _ => []
  | .compact _ _ => []
  | .standard i => i.bytes
  | .extended i code intensity timeOffset =>
    i.bytes ++ leBytes 4 (code.toNat + 2 ^ 20 * intensity.toNat) ++ leBytes 4 timeOffset

/-- The bytes of a record (11.5); spare bytes and bits are 0 (R184). A revisit limit above 7 is written modulo 8
(log 44). -/
def Record.bytes : Record → List Byte
  | .sample r => leBytes 8 r.word ++ r.body.bytes
  | .orderBegin r =>
    leBytes 1 (8 + 16 * maskBits r.mask)
      ++ leBytes 1 (r.kind.code + 4 * r.format.code + 16 * (r.revisitLimit % 8))
      ++ leBytes 1 r.stepCount ++ leBytes 1 r.revolutions ++ leBytes 4 r.tag.toNat ++ leBytes 2 r.flags.bits
      ++ leBytes 6 r.time.toNat ++ leBytes 4 r.revolution.toNat ++ leBytes 4 0
  | .orderEnd r =>
    leBytes 1 9 ++ leBytes 1 r.status.code ++ leBytes 1 r.reason.code ++ leBytes 1 r.detail
      ++ leBytes 4 r.tag.toNat ++ leBytes 6 r.time.toNat ++ leBytes 2 0 ++ leBytes 4 r.revolution.toNat
      ++ leBytes 4 0
  | .stepBegin r =>
    leBytes 1 10 ++ leBytes 1 r.step
      ++ leBytes 1 ((r.settle == .unsettled).toNat + 2 * r.restart.toNat) ++ leBytes 1 0
      ++ leBytes 4 r.tag.toNat ++ leBytes 4 (twos 4 r.position) ++ leBytes 4 r.settleTime
      ++ leBytes 6 r.time.toNat ++ leBytes 2 0 ++ leBytes 4 r.revolution.toNat ++ leBytes 4 0
  | .stepEnd r =>
    leBytes 1 11 ++ leBytes 1 r.step ++ leBytes 1 r.restarts ++ leBytes 1 0 ++ leBytes 4 r.tag.toNat
      ++ leBytes 6 r.time.toNat ++ leBytes 2 r.unresolved ++ leBytes 4 r.revolution.toNat ++ leBytes 4 0
  | .gap r =>
    leBytes 1 (12 + 16 * r.head.num) ++ leBytes 1 r.reason.code ++ leBytes 1 r.step ++ leBytes 1 r.zone
      ++ [r.firstPass.byte, r.lastPass.byte] ++ leBytes 1 r.causes.bits ++ leBytes 1 r.attempts
      ++ leBytes 4 r.first ++ leBytes 4 r.last ++ leBytes 4 r.count ++ leBytes 4 0
  | .reference r =>
    leBytes 1 (13 + 16 * r.head.num) ++ leBytes 1 r.verdict.code ++ leBytes 1 (r.step.getD 0xFF)
      ++ leBytes 1 0 ++ leBytes 4 r.triggers ++ leBytes 4 r.good ++ leBytes 4 (twos 4 r.mean)
      ++ leBytes 4 (twos 4 r.nominal) ++ leBytes 4 (twos 4 r.drift) ++ leBytes 4 r.revolution.toNat
      ++ leBytes 6 r.time.toNat ++ leBytes 6 0

/-! ## The completion of an Order Block (11.2) -/

/-- Bytes 0x150 to 0x17F of an Order Block: end slot, flags, counts (R146). A count above 4,294,967,295 is written
modulo 2^32 (log 37). -/
def completionFront (slot : EndSlot) (flags : CompletionFlags) (overflow : Bool) (c : Counts)
    (capture : BitVec 8) (segmentCount : Nat) : List Byte :=
  leBytes 1 slot.reason.code ++ leBytes 1 slot.detail
    ++ leBytes 1 (flags.unresolved.toNat + 2 * flags.restarted.toNat + 4 * flags.unsettled.toNat
      + 8 * overflow.toNat + 16 * flags.driftWarned.toNat)
    ++ leBytes 1 c.stepsCompleted ++ leBytes 1 c.stepRestarts ++ [capture] ++ leBytes 1 segmentCount
    ++ leBytes 1 0
    ++ leBytes 4 c.issued ++ leBytes 4 c.accepted ++ leBytes 4 c.rejected ++ leBytes 4 c.dropped
    ++ leBytes 4 c.abandoned ++ leBytes 4 c.skipped
    ++ leBytes 4 c.created ++ leBytes 4 c.resolved ++ leBytes 4 c.unresolved ++ leBytes 4 c.lost

/-- Bytes 0x198 to 0x1FF of an Order Block: the segment list, 0 past its count (log 50), and unused bytes as 0
(R146, R184). -/
def completionBack (segments : List Nat) : List Byte :=
  (List.range 32).map (fun i => BitVec.ofNat 8 (segments.getD i 0)) ++ List.replicate 72 0

/-- The writes of the start fields at LOADING and then of IN_PROGRESS (R134, R128). The order of the two fields, a
write each, is the model's choice (log 58). -/
def loadingWrites (block : Addr) (start : Time) (revolution : Rev) : List HostWrite :=
  [⟨block + 0x180, leBytes 8 start.toNat⟩, ⟨block + 0x190, leBytes 4 revolution.toNat⟩, ⟨block + 8, [2]⟩]

/-- The completion writes of stage 6: all completion fields but the start fields (R146, 11.2). Their order, and
that they are three writes, is the model's choice (log 58). -/
def completionWrites (block : Addr) (slot : EndSlot) (flags : CompletionFlags) (overflow : Bool) (c : Counts)
    (capture : BitVec 8) (segments : List Nat) (endTime : Time) (endRevolution : Rev) : List HostWrite :=
  [⟨block + 0x150, completionFront slot flags overflow c capture segments.length⟩,
   ⟨block + 0x188, leBytes 8 endTime.toNat⟩,
   ⟨block + 0x194, leBytes 4 endRevolution.toNat ++ completionBack segments⟩]

/-- The completion of an order ended before LOADING, written whole: every count and flag 0, an empty segment
list, both timestamps the time of the write, both revolution numbers the one held, capture low (R133); that it is
one write is the model's choice (log 58). -/
def earlyCompletionWrites (block : Addr) (slot : EndSlot) (time : Time) (revolution : Rev) : List HostWrite :=
  [⟨block + 0x150, completionFront slot .clear false .zero 0 0 ++ leBytes 8 time.toNat ++ leBytes 8 time.toNat
      ++ leBytes 4 revolution.toNat ++ leBytes 4 revolution.toNat ++ completionBack []⟩]

/-- The terminal status write (R128). -/
def terminalWrite (block : Addr) (t : Terminal) : HostWrite := ⟨block + 8, leBytes 1 t.code⟩

/-! ## Segment Table entries (11.1) -/

/-- The address of Segment Table entry `n` (11.1). -/
def entryAddr (base : Addr) (n : Nat) : Addr := base + 0x1000 + BitVec.ofNat 64 (32 * n)

/-- The writes of fill, record count and first sequence tag (R163). That each is a write of its own, in this order,
is the model's choice (log 59). -/
def fillWrites (base : Addr) (g : Segment) : List HostWrite :=
  let e := entryAddr base g.index
  [⟨e + 0x14, leBytes 4 g.fill⟩, ⟨e + 0x04, leBytes 4 g.count⟩, ⟨e + 0x18, leBytes 4 g.firstTag.toNat⟩]

/-- The writes of a take, ending with FILLING (R160). The order and the number of those before FILLING are the
model's choice (log 59). -/
def takeWrites (base : Addr) (g : Segment) : List HostWrite :=
  let e := entryAddr base g.index
  fillWrites base { g with fill := 0, count := 0, firstTag := 0 } ++ [⟨e + 1, [0]⟩, ⟨e, [2]⟩]

/-- The writes of a close, ending with FULL (R164). The order and the number of those before FULL are the model's
choice (log 59). -/
def closeWrites (base : Addr) (g : Segment) (reason : CloseReason) : List HostWrite :=
  let e := entryAddr base g.index
  fillWrites base g ++ [⟨e + 1, leBytes 1 reason.code⟩, ⟨e, [3]⟩]

/-- The writes that take and close at once an entry offered with an unusable address or length: fill, count and
first sequence tag 0, close reason FAULT, FILLING and FULL (R160, R163, R164; the tag's value: log 49; the order
and the number of the writes before FILLING: log 59). -/
def faultCloseWrites (base : Addr) (n : Nat) : List HostWrite :=
  let e := entryAddr base n
  fillWrites base { index := n, address := 0, length := 0, fill := 0, count := 0, firstTag := 0 }
    ++ [⟨e + 1, leBytes 1 CloseReason.fault.code⟩, ⟨e, [2]⟩, ⟨e, [3]⟩]

/-! ## The Status Page (10.5, 11.1) -/

/-- Bytes 0x08 to 0xFF of the Status Page as the fields stand; unused bytes are 0 (R182, R184). -/
def State.pageFields (s : State) : List Byte :=
  let four (f : Head → List Byte) : List Byte := f .h0 ++ f .h1 ++ f .h2 ++ f .h3
  leBytes 1 s.uc.unit.code ++ leBytes 1 s.causeShown ++ leBytes 1 s.light.present.toNat
    ++ leBytes 1 (maskBits (s.rc.heads.map (·.nominalValid))) ++ leBytes 1 s.rw.cursor ++ [s.sf.capture]
    ++ leBytes 2 s.sb.highWater
    ++ leBytes 8 (s.oe.chain.getD 0).toNat ++ leBytes 4 s.oe.activeTag.toNat
    ++ leBytes 4 s.tracker.revolution.toNat ++ leBytes 2 s.sb.discarded ++ leBytes 2 0
    ++ four (fun h => leBytes 1 (s.ports.get h).state.code)
    ++ four (fun h => (s.ports.get h).faultRecord.bytes)
    ++ four (fun h => leBytes 4 (twos 4 (s.rc.heads.get h).nominal))
    ++ four (fun h => leBytes 4 (twos 4 (s.rc.heads.get h).drift))
    ++ List.replicate 176 0

/-- The Exchange Area base (R169). -/
def State.xbase (s : State) : Addr := s.xe.xbaseH ++ s.xe.xbaseL

/-- The writes of one Status Page sequence: the timestamp as 0, the other fields as they stand, then the
Time Base value, or 1 when that value is 0 (R182). That the other fields are one write is the model's choice
(log 58). -/
def State.pageWrites (s : State) : List HostWrite :=
  let a := s.xbase + 0x800
  [⟨a, leBytes 8 0⟩, ⟨a + 8, s.pageFields⟩, ⟨a, leBytes 8 (if s.xe.time = 0 then 1 else s.xe.time.toNat)⟩]

end Sys2Proof.Machine
end

