-- ==== Sys2Proof/Machine/Geometry.lean ====
section
/-! DEFINITION. Window geometry and trigger points (02: R19, R21 to R24, R33, R34) and the zone table checks (R20, R21). -/

namespace Sys2Proof.Machine

/-- The window-relative offset of angle `a` in a window that starts at `start` (00, Angles). -/
def windowOffset (cpr start a : Nat) : Nat := (a + (cpr - start % cpr)) % cpr

/-- The blade angle of a window-relative offset (R19). -/
def angleOf (cpr start offset : Nat) : Nat := (start + offset) % cpr

/-- The seen angle of a head with the given mount offset (R22). -/
def seenAngle (cpr mount blade : Nat) : Nat := windowOffset cpr mount blade

/-- The sum of the zone lengths (R19). -/
def zonesLength : List Zone → Nat
  | [] => 0
  | z :: zs => z.length + zonesLength zs

/-- The window length L of a zone table (R19). -/
def ZoneTable.length (t : ZoneTable) : Nat := zonesLength t.zones

/-- The zone that contains a window-relative offset, counted from `k` (R19). -/
def zoneIndexFrom : List Zone → Nat → Nat → Option Nat
  | [], _, _ => none
  | z :: zs, k, offset => if offset < z.length then some k else zoneIndexFrom zs (k + 1) (offset - z.length)

/-- The zone that contains a window-relative offset (R19). -/
def ZoneTable.zoneAt (t : ZoneTable) (offset : Nat) : Option Nat := zoneIndexFrom t.zones 0 offset

/-- The phase of a zone on a normal pass of the given index (R23). -/
def Zone.phase (z : Zone) (passIndex : Nat) : Nat :=
  if z.interleave && passIndex % 2 == 1 then z.pitch / 2 else 0

/-- The least of `first, first + pitch, first + 2 pitch, …` that is at least `offset`. -/
def nextInRun (first pitch offset : Nat) : Nat :=
  if offset ≤ first then first else first + (offset - first + pitch - 1) / pitch * pitch

/-- The numbers `first, first + pitch, …` below `limit`. -/
def runOfPoints (first pitch limit : Nat) : List Nat :=
  if first < limit then (List.range ((limit - 1 - first) / pitch + 1)).map (fun k => first + k * pitch) else []

/-- Head `h`'s first trigger point at or after `offset` on a normal pass, in zones that begin at `base`
(R23, R24). -/
def firstNormalFrom (h : Head) (passIndex : Nat) : List Zone → Nat → Nat → Option Nat
  | [], _, _ => none
  | z :: zs, base, offset =>
    let p := nextInRun (base + z.phase passIndex) z.pitch offset
    if z.mask.get h && decide (p < base + z.length) then some p
    else firstNormalFrom h passIndex zs (base + z.length) offset

/-- Head `h`'s trigger points on a normal pass, as window-relative offsets with their zones, in ascending
order (R23, R24). -/
def normalPoints (h : Head) (passIndex : Nat) : List Zone → Nat → Nat → List (Nat × Nat)
  | [], _, _ => []
  | z :: zs, k, base =>
    (if z.mask.get h then (runOfPoints (base + z.phase passIndex) z.pitch (base + z.length)).map (·, k) else [])
      ++ normalPoints h passIndex zs (k + 1) (base + z.length)

/-- The pitch of a zone of the table. -/
def ZoneTable.pitchOf (t : ZoneTable) (zone : Nat) : Nat := ((t.zones[zone]?).map (·.pitch)).getD 1

/-- Head `h`'s first revisit point at or after `offset` in the entries of a list (R33). -/
def firstRevisitFrom (cpr : Nat) (t : ZoneTable) (h : Head) : List Entry → Nat → Option Nat
  | [], _ => none
  | e :: es, offset =>
    let p := nextInRun (windowOffset cpr t.start e.first) (t.pitchOf e.zone) offset
    if e.head = h ∧ p ≤ windowOffset cpr t.start e.last then some p else firstRevisitFrom cpr t h es offset

/-- Head `h`'s revisit points, as window-relative offsets with their zones (R33). -/
def revisitPoints (cpr : Nat) (t : ZoneTable) (h : Head) : List Entry → List (Nat × Nat)
  | [] => []
  | e :: es =>
    (if e.head = h then
      (runOfPoints (windowOffset cpr t.start e.first) (t.pitchOf e.zone)
        (windowOffset cpr t.start e.last + 1)).map (·, e.zone)
     else [])
      ++ revisitPoints cpr t h es

/-- The first point at or after `offset` of a scan pass of head `h` (R23, R24, R33). -/
def firstScanPoint (cpr : Nat) (t : ZoneTable) (current : List Entry) (h : Head) (pass : PassId) (offset : Nat) :
    Option Nat :=
  match pass.kind with
  | .normal => firstNormalFrom h pass.index t.zones 0 offset
  | .revisit => firstRevisitFrom cpr t h current offset
  | .reference => none

/-- All points of a scan pass of head `h` (R23, R24, R33). -/
def scanPoints (cpr : Nat) (t : ZoneTable) (current : List Entry) (h : Head) (pass : PassId) : List (Nat × Nat) :=
  match pass.kind with
  | .normal => normalPoints h pass.index t.zones 0 0
  | .revisit => revisitPoints cpr t h current
  | .reference => []

/-- The first reference point at or after `offset` (R34). -/
def firstReferencePoint (c : RefConfig) (offset : Nat) : Option Nat :=
  if nextInRun 0 c.pitch offset < c.length then some (nextInRun 0 c.pitch offset) else none

/-- The number of grid points an entry covers (R84). -/
def entryPoints (cpr : Nat) (t : ZoneTable) (e : Entry) : Nat :=
  (windowOffset cpr t.start e.last - windowOffset cpr t.start e.first) / t.pitchOf e.zone + 1

/-! ## Checks of a zone table -/

/-- Check ZONE_GEOMETRY passes (R20). -/
def ZoneTable.geometryOk (cpr : Nat) (t : ZoneTable) : Bool :=
  decide (t.start < cpr) && t.zones.all (fun z => decide (1 ≤ z.length ∧ z.length ≤ cpr))
    && decide (t.length ≤ cpr) && (t.full == decide (t.length = cpr))

/-- The scan window and the reference window share an angle (R21). -/
def windowsOverlap (cpr : Nat) (t : ZoneTable) (c : RefConfig) : Bool :=
  decide (windowOffset cpr t.start c.start < t.length) || decide (windowOffset cpr c.start t.start < c.length)

/-- The first zone table check that fails, by its number in R133, or none (R20, R21). `count` is the
header's zone count. -/
def zoneTableCheck (cpr count : Nat) (t : ZoneTable) (mask : HeadSet) (referenceChecks : Bool)
    (ref : Option RefConfig) : Option Nat :=
  if count = 0 ∨ 32 < count then some 8
  else if !t.geometryOk cpr then some 9
  else if t.zones.any (fun z => z.pitch == 0 || decide (z.length < z.pitch)) then some 10
  else if t.zones.any (fun z => z.burst == 0 || decide (8 < z.burst)) then some 11
  else if t.zones.any (fun z => Head.all.any (fun h => z.mask.get h && !mask.get h)) then some 12
  else if referenceChecks && (match ref with
      | some c => windowsOverlap cpr t c
      | none => false) then some 13
  else none

end Sys2Proof.Machine
end

