-- ==== Sys2Proof/Machine/Operands.lean ====
section
/-! DEFINITION. The operands that come as bytes: the layouts of chapter 11 read into the part's own types, little-endian. -/

namespace Sys2Proof.Machine

/-! ## Bytes -/

/-- Byte `i` of a structure as read. A read whose bytes end before `i` reads as 0 there (log 24). -/
def byteAt (bs : List Byte) (i : Nat) : Byte := bs.getD i 0

/-- The little-endian number of the `n` bytes from offset `i` (11: all multi-byte fields are
little-endian). -/
def leNat (bs : List Byte) (i : Nat) : Nat → Nat
  | 0 => 0
  | n + 1 => (byteAt bs i).toNat + 256 * leNat bs (i + 1) n

/-- A 32-bit number as two's complement (11: signed fields). -/
def signed32 (n : Nat) : Int := if n < 0x80000000 then (n : Int) else (n : Int) - 0x100000000

/-- A signed 4-byte field at offset `i`. -/
def leInt32 (bs : List Byte) (i : Nat) : Int := signed32 (leNat bs i 4)

/-- Bit `n` of the byte at offset `i`. -/
def bitAt (bs : List Byte) (i n : Nat) : Bool := (byteAt bs i).getLsbD n

/-- The head mask of the byte at offset `i`: bit h for head h; bits 7 to 4 are unused (R184). -/
def headMaskAt (bs : List Byte) (i : Nat) : HeadSet := .of fun h => bitAt bs i h.num

/-! ## Host-written structures -/

/-- Fault action codes (11.1). -/
def faultActionOf : Nat → Option FaultAction
  | 0 => some .continueOn
  | 1 => some .suspendPass
  | 2 => some .failOrder
  | _ => none

/-- A head configuration record at offset `o` (11.1). -/
def readHeadConfig (bs : List Byte) (o : Nat) : HeadConfig :=
  { present := bitAt bs o 0
    action := faultActionOf (byteAt bs (o + 1)).toNat
    blank := (byteAt bs (o + 2)).toNat
    limit := (byteAt bs (o + 3)).toNat
    mount := leNat bs (o + 4) 4
    codes := ⟨byteAt bs (o + 8), byteAt bs (o + 9), byteAt bs (o + 10), byteAt bs (o + 11)⟩
    timeout := byteAt bs (o + 12) }

/-- A monitor selection byte: bits 2 to 0 the signal, bits 5 and 4 the head; none for a signal code above 4
(11.1, R173). -/
def monSelectionOf (b : Byte) : Option MonSelection :=
  let head : Head :=
    match b.toNat / 16 % 4 with
    | 0 => .h0
    | 1 => .h1
    | 2 => .h2
    | _ => .h3
  match b.toNat % 8 with
  | 0 => some .none
  | 1 => some (.signal head .triggerIssued)
  | 2 => some (.signal head .outcomeGood)
  | 3 => some (.signal head .outcomeBad)
  | 4 => some (.signal head .inPass)
  | _ => none

/-- The Cell Record as read (11.1). A field whose value has no code is none. -/
structure CellRecord where
  cpr : Nat
  origin : Nat
  maxPeriod : Nat
  sense : Option Sense
  recovery : Option Recovery
  lightGrace : Nat
  stallLimit : Nat
  mon0 : Option MonSelection
  mon1 : Option MonSelection
  refStart : Nat
  refLength : Nat
  refPitch : Nat
  refFloor : Byte
  interval : Nat
  driftLimit : Nat
  driftAction : Option DriftAction
  span : SpanConfig
  heads : PerHead HeadConfig
  deriving DecidableEq, Repr

/-- The Cell Record's fields from its 1,024 bytes (11.1). -/
def readCellRecord (bs : List Byte) : CellRecord :=
  { cpr := leNat bs 0x00 4
    origin := leNat bs 0x04 4
    maxPeriod := leNat bs 0x08 2
    sense := match (byteAt bs 0x0A).toNat with
      | 0 => some .forward
      | 1 => some .reverse
      | _ => none
    recovery := match (byteAt bs 0x0B).toNat with
      | 0 => some .auto
      | 1 => some .latched
      | _ => none
    lightGrace := (byteAt bs 0x0C).toNat
    stallLimit := (byteAt bs 0x0D).toNat
    mon0 := monSelectionOf (byteAt bs 0x0E)
    mon1 := monSelectionOf (byteAt bs 0x0F)
    refStart := leNat bs 0x10 4
    refLength := leNat bs 0x14 4
    refPitch := leNat bs 0x18 2
    refFloor := byteAt bs 0x1A
    interval := (byteAt bs 0x1B).toNat
    driftLimit := leNat bs 0x1C 2
    driftAction := match (byteAt bs 0x1E).toNat with
      | 0 => some .warn
      | 1 => some .fail
      | _ => none
    span :=
      { settleLine := Fin.ofNat 4 (byteAt bs 0x1F).toNat
        polarity := (byteAt bs 0x20).setWidth 4
        settleLimit := (byteAt bs 0x21).toNat
        fixtureMask := byteAt bs 0x22
        fixtureCompare := byteAt bs 0x23
        fixtureWait := (byteAt bs 0x24).toNat }
    heads := .of fun h => readHeadConfig bs (0x100 + 64 * h.num) }

/-- A head configuration record has its fields in the ranges of R47, mount offset apart. -/
def HeadConfig.inRange (c : HeadConfig) : Bool :=
  c.timeout != 0 && decide (c.blank ≤ 15) && c.action.isSome

/-- The checks of START on the Cell Record (R173; R3, R47, R100, R157). -/
def CellRecord.valid (c : CellRecord) : Bool :=
  decide (1024 ≤ c.cpr ∧ c.cpr ≤ 16777216) && decide (c.origin < c.cpr) && c.sense.isSome
    && decide (1 ≤ c.maxPeriod)
    && Head.all.all (fun h =>
      !(c.heads.get h).present || ((c.heads.get h).inRange && decide ((c.heads.get h).mount < c.cpr)))
    && Head.all.any (fun h => (c.heads.get h).present)
    && decide (c.refStart < c.cpr) && decide (1 ≤ c.refLength ∧ c.refLength < c.cpr)
    && decide (1 ≤ c.refPitch ∧ c.refPitch ≤ c.refLength) && decide (1 ≤ c.interval)
    && c.driftAction.isSome && decide (1 ≤ c.stallLimit)
    && decide (1 ≤ c.lightGrace ∧ c.lightGrace ≤ 15) && c.recovery.isSome && c.mon0.isSome && c.mon1.isSome

/-- Order kind codes (11.2). -/
def orderKindOf : Nat → Option OrderKind
  | 0 => some .scan
  | 1 => some .calibrateReference
  | 2 => some .settings
  | 3 => some .mark
  | _ => none

/-- Record format codes (11.2). -/
def recordFormatOf : Nat → Option RecordFormat
  | 0 => some .raw
  | 1 => some .compact
  | 2 => some .standard
  | 3 => some .extended
  | _ => none

/-- Bytes of an Order Block's header (11.2: offsets 0x000 to 0x14F). -/
def headerLength : Nat := 0x150

/-- The header of an Order Block (11.2), link and status apart: the link is read by itself (R127) and the
status by R129. -/
def readOrderHeader (bs : List Byte) : OrderHeader :=
  { kind := orderKindOf (byteAt bs 0x009).toNat
    format := recordFormatOf (byteAt bs 0x00A).toNat
    mask := headMaskAt bs 0x00B
    tag := BitVec.ofNat 32 (leNat bs 0x00C 4)
    flags :=
      { keepRejected := bitAt bs 0x010 0
        continueOnFail := bitAt bs 0x010 1
        checkFixture := bitAt bs 0x010 2
        unsettledOk := bitAt bs 0x010 3
        referenceChecks := bitAt bs 0x010 4
        closeAtEnd := bitAt bs 0x010 5 }
    stepCount := (byteAt bs 0x012).toNat
    revolutions := (byteAt bs 0x013).toNat
    revisitLimit := (byteAt bs 0x014).toNat
    replaceMask := headMaskAt bs 0x015
    compactBase := leInt32 bs 0x018
    zoneAddr := BitVec.ofNat 64 (leNat bs 0x020 8)
    correctionAddr := .of fun h => BitVec.ofNat 64 (leNat bs (0x028 + 8 * h.num) 8)
    span := (bs.drop 0x050).take 256 }

/-- The nominal span position of a step (08.1, 11.2). -/
def OrderHeader.position (hd : OrderHeader) (step : Nat) : Int := leInt32 hd.span (4 * step)

/-- The replacement record of a head in a SETTINGS order (R148, 11.2). -/
def OrderHeader.replacement (hd : OrderHeader) (h : Head) : HeadConfig := readHeadConfig hd.span (64 * h.num)

/-- Zone entry `k` of a zone table (11.2). -/
def readZone (bs : List Byte) (k : Nat) : Zone :=
  let o := 8 + 16 * k
  { length := leNat bs o 4
    pitch := leNat bs (o + 4) 2
    mask := headMaskAt bs (o + 6)
    burst := (byteAt bs (o + 7)).toNat
    floor := byteAt bs (o + 8)
    expClass := (byteAt bs (o + 9)).setWidth 2
    revisitClass := ((byteAt bs (o + 9)) >>> 4).setWidth 2
    revisit := bitAt bs (o + 10) 0
    interleave := bitAt bs (o + 10) 1 }

/-- The zone count of a zone table's header (11.2). -/
def zoneCount (bs : List Byte) : Nat := (byteAt bs 0).toNat

/-- A zone table (11.2): no entry is read when the zone count is out of range (R18). -/
def readZoneTable (bs : List Byte) : ZoneTable :=
  { start := leNat bs 4 4
    full := bitAt bs 1 0
    zones := if 1 ≤ zoneCount bs ∧ zoneCount bs ≤ 32 then (List.range (zoneCount bs)).map (readZone bs) else [] }

/-- The signed 4-byte points that follow one another in `bs` (11.2). -/
def readPoints : Nat → List Byte → List Int
  | 0, _ => []
  | n + 1, bs => leInt32 bs 0 :: readPoints n (bs.drop 4)

/-- The 257 points of a correction table (11.2). -/
def correctionPoints (bs : List Byte) : List Int := readPoints 257 (bs.drop 8)

/-- The check of one correction table for head `h` (R71): head identity, check sum, range of the points. -/
def correctionTableValid (bs : List Byte) (h : Head) : Bool :=
  let t := correctionPoints bs
  (byteAt bs 0).toNat == h.num && t.sum % 0x100000000 == (leNat bs 4 4 : Int)
    && t.all (fun p => decide (-536870912 ≤ p ∧ p ≤ 536870911))

/-- The fields of a Segment Table entry that the Result Writer reads (R159, 11.1). -/
structure SegmentEntry where
  state : Nat
  address : Addr
  length : Nat
  deriving DecidableEq, Repr

/-- What the reads of one Segment Table entry brought: its state byte, and after it, of an OFFERED entry, the
12 bytes of its address and length at 0x08 (R159, 11.1). -/
def readSegmentEntry (bs : List Byte) : SegmentEntry :=
  { state := (byteAt bs 0).toNat
    address := BitVec.ofNat 64 (leNat bs 1 8)
    length := leNat bs 9 4 }

/-- State code OFFERED (11.1). -/
def SegmentEntry.offered (e : SegmentEntry) : Bool := e.state == 1

/-- An offered entry is usable: address a multiple of 8 and not 0, length 4,096 to 1,048,576 and a multiple
of 4,096 (R160, R185). -/
def SegmentEntry.usable (e : SegmentEntry) : Bool :=
  e.address != 0 && e.address.toNat % 8 == 0 && decide (4096 ≤ e.length ∧ e.length ≤ 1048576)
    && e.length % 4096 == 0

/-- An address is a multiple of `n` (R185). -/
def aligned (a : Addr) (n : Nat) : Bool := a.toNat % n == 0

end Sys2Proof.Machine
end

