-- ==== Sys2Proof/Machine/Ops.lean ====
section
/-! DEFINITION. The operations every block shares: updates of one head's part, free choices, host-bus accesses, the Status Page request, monitor pulses and the reading of the active order. -/

namespace Sys2Proof.Machine

/-! ## Updates of one part -/

/-- One head's port changed. -/
def State.onPort (s : State) (h : Head) (f : Port → Port) : State :=
  { s with ports := s.ports.set h (f (s.ports.get h)) }

/-- One head's part of the Trigger Generator changed. -/
def State.onPasses (s : State) (h : Head) (f : HeadPasses → HeadPasses) : State :=
  { s with tg := { s.tg with heads := s.tg.heads.set h (f (s.tg.heads.get h)) } }

/-- One head's scan record changed. -/
def State.onScan (s : State) (h : Head) (f : PassRecord → PassRecord) : State :=
  s.onPasses h fun p => { p with scan := f p.scan }

/-- One head's reference record changed. -/
def State.onRef (s : State) (h : Head) (f : PassRecord → PassRecord) : State :=
  s.onPasses h fun p => { p with ref := f p.ref }

/-- One head's part of the Qualifier changed. -/
def State.onQual (s : State) (h : Head) (f : HeadQual → HeadQual) : State :=
  { s with qu := { s.qu with heads := s.qu.heads.set h (f (s.qu.heads.get h)) } }

/-- One head's part of the Reference Check Unit changed. -/
def State.onHeadRef (s : State) (h : Head) (f : HeadRef → HeadRef) : State :=
  { s with rc := { s.rc with heads := s.rc.heads.set h (f (s.rc.heads.get h)) } }

/-- The order's counts changed. -/
def State.onCounts (s : State) (f : Counts → Counts) : State :=
  { s with oe := { s.oe with counts := f s.oe.counts } }

/-- The scan record of a head. -/
def State.scan (s : State) (h : Head) : PassRecord := (s.tg.heads.get h).scan

/-- The reference record of a head. -/
def State.ref (s : State) (h : Head) : PassRecord := (s.tg.heads.get h).ref

/-- The same operation for every head, in ascending head number. -/
def forHeads (f : Head → State → State) (s : State) : State := f .h3 (f .h2 (f .h1 (f .h0 s)))

/-! ## Free choices (log 6) -/

/-- A choice among `n` possibilities that the spec leaves open; none is made among fewer than two. -/
def State.choice (s : State) (n : Nat) : Nat := if n ≤ 1 then 0 else Config.freeChoice s.free % n

/-- The state after such a choice. -/
def State.chosen (s : State) (n : Nat) : State := if n ≤ 1 then s else { s with free := s.free + 1 }

/-- The things of a list one after another, each next one chosen freely among those left. The first argument
is the length of the list. -/
def inFreeOrder {α : Type} (f : α → State → State) : Nat → List α → State → State
  | 0, _, s => s
  | n + 1, xs, s =>
    match xs[s.choice xs.length]? with
    | none => s
    | some x => inFreeOrder f n (xs.eraseIdx (s.choice xs.length)) (f x (s.chosen xs.length))

/-- An operation for each of several heads at one event, in an order that the spec leaves open (R151). -/
def forFree (hs : List Head) (f : Head → State → State) (s : State) : State := inFreeOrder f hs.length hs s

/-- An operation for every head at one event, in an order that the spec leaves open among the heads for which
the order can be seen; the others come first (R151; log 6). -/
def forHeadsFree (p : Head → Bool) (f : Head → State → State) (s : State) : State :=
  forFree (Head.all.filter p) f ((Head.all.filter fun h => !p h).foldl (fun s h => f h s) s)

/-! ## The active order -/

/-- Counts per revolution as the tracker holds them (R3). -/
def State.cpr (s : State) : Nat := (s.tracker.config.map (·.cpr)).getD 1

/-- The mount offset of a head (R22). -/
def State.mount (s : State) (h : Head) : Nat := ((s.ports.get h).config.map (·.mount)).getD 0

/-- The kind of the active order. -/
def State.orderKind (s : State) : Option OrderKind := s.oe.active.bind (·.header.kind)

/-- The head mask of the active order. -/
def State.mask (s : State) : HeadSet := ((s.oe.active.map (·.header.mask)).getD (.all false))

/-- Revolutions per step of the active order, R (08.1). -/
def State.revolutions (s : State) : Nat := ((s.oe.active.map (·.header.revolutions)).getD 0)

/-- A head of the order's mask that is not excluded (R135). -/
def State.inOrder (s : State) (h : Head) : Bool := s.mask.get h && !s.oe.excluded.get h

/-- The heads of the order's mask that are not excluded. -/
def State.workingHeads (s : State) : List Head := Head.all.filter s.inOrder

/-- The order is in a state from LOADING to LIGHT_WAIT (R13, R142, R157). -/
def EngineState.running : EngineState → Bool
  | .loading | .arming | .stepMove | .acquiring | .revisiting | .stepClose | .lightWait => true
  | .idle | .fetching | .validating | .closing => false

/-- The step index that a pass of the active order carries: none outside a SCAN order (R28). -/
def State.stepOfPass (s : State) : Option Nat :=
  if s.orderKind = some .scan then some s.oe.stepIndex else none

/-- A pass is the final normal pass of the step, pass index R−1 (05.1). -/
def State.finalPass (s : State) (pass : PassId) : Bool :=
  pass.kind == .normal && pass.index + 1 == s.revolutions

/-- The zone of an index in the installed zone table. -/
def State.zone (s : State) (zone : Nat) : Option Zone := s.tg.zones.bind (·.zones[zone]?)

/-- A failed point of this pass and zone is a revisit candidate: the final normal pass in a zone with
REVISIT set, or a revisit pass (R29, R35, R36, R54, R81). -/
def State.yieldsCandidate (s : State) (pass : PassId) (zone : Nat) : Bool :=
  pass.kind == .revisit || (s.finalPass pass && ((s.zone zone).map (·.revisit)).getD false)

/-! ## Host-bus accesses (R166; log 5, log 19) -/

/-- An event joins the trace of the host bus. -/
def logBus (e : BusEvent) (s : State) : State := { s with xe := { s.xe with bus := s.xe.bus ++ [e] } }

/-- A read begins. -/
def beginRead (kind : BusKind) (addr : Addr) (length : Nat) (s : State) : State :=
  logBus (.read kind addr length) s

/-- A group of writes begins. -/
def beginWrite (kind : BusKind) (writes : List HostWrite) (s : State) : State := logBus (.write kind writes) s

/-- The kind of the Order Engine's access in progress. -/
def OrderAccess.kind : OrderAccess → List BusKind
  | .none => []
  | .link _ => [.link]
  | .status _ _ => [.blockStatus]
  | .header => [.header]
  | .zoneTable => [.zoneTable]
  | .correction _ => [.correctionTable]
  | .completion => [.completion]
  | .terminal => [.terminal]

/-- The kind of the Result Writer's access in progress. -/
def WriterAccess.kind : WriterAccess → Option BusKind
  | .none => Option.none
  | .entry => some .segmentEntry
  | .take => some .take
  | .record => some .record
  | .fillUpdate => some .fillUpdate
  | .full _ => some .full

/-- Further accesses of a group, each issued when the one before it has ended (R166). -/
def issuedAfter (kind : BusKind) (es : List BusEvent) : List BusEvent := es.flatMap fun e => [.ended kind, e]

/-- The Result Writer begins a group of accesses: the first is issued, the others follow it (R166, R159). -/
def beginGroup (group : List BusEvent) (s : State) : State :=
  match group with
  | [] => s
  | e :: rest => logBus e { s with rw := { s.rw with rest := rest } }

/-- The writes of a group, one access each. -/
def writeGroup (kind : BusKind) (writes : List HostWrite) : List BusEvent := writes.map fun w => .write kind [w]

/-- The Result Writer's group in progress has ended with its last access: those that follow the first are
issued one after another, and the last one has ended (R166; log 5). -/
def endGroup (kind : BusKind) (s : State) : State :=
  logBus (.ended kind)
    { s with
      rw := { s.rw with rest := [] }
      xe := { s.xe with bus := s.xe.bus ++ issuedAfter kind s.rw.rest } }

/-- The Result Writer's group in progress is broken off; how many of the accesses that follow the first had
been issued by then, the spec leaves open (log 5, log 6). -/
def breakGroup (kind : BusKind) (s : State) : State :=
  let n := s.rw.rest.length + 1
  let t : State :=
    { s with
      rw := { s.rw with doing := .none, rest := [] }
      xe := { s.xe with bus := s.xe.bus ++ issuedAfter kind (s.rw.rest.take (s.choice n)) } }
  t.chosen n

/-- Accesses on the bus whose issuer lets go of them stay there without a receiver (R175, R177, R179). -/
def letGo (kinds : List BusKind) (s : State) : State :=
  if kinds = [] then s
  else logBus (.released kinds) { s with xe := { s.xe with stray := s.xe.stray ++ kinds } }

/-- The Order Engine lets go of its access. -/
def letGoOrder (s : State) : State :=
  letGo s.oe.doing.kind { s with oe := { s.oe with doing := .none } }

/-- The Result Writer lets go of its access. -/
def letGoWriter (s : State) : State :=
  match s.rw.doing.kind with
  | none => s
  | some k => letGo [k] (breakGroup k s)

/-- The read of the Cell Record is let go of. -/
def letGoCell (s : State) : State :=
  letGo (if s.uc.cellReading then [.cellRecord] else []) { s with uc := { s.uc with cellReading := false } }

/-- The end of an access of this kind belongs to one whose issuer has let go of it: accesses end in the
order of their issue, so it is the one that ends first. -/
def State.isStray (s : State) (kind : BusKind) : Bool := s.xe.stray.contains kind

/-- Such an access ends, and nothing else comes about (R179). -/
def endStray (kind : BusKind) (s : State) : State :=
  logBus (.ended kind) { s with xe := { s.xe with stray := s.xe.stray.erase kind } }

/-! ## The Status Page (R182; log 25) -/

/-- A write sequence of the Status Page begins, with the fields as they stand. -/
def beginPage (s : State) : State :=
  beginWrite .statusPage s.pageWrites { s with xe := { s.xe with pageBusy := true, pageQueued := false } }

/-- A write of the Status Page is asked for: not while FAULTED with BUS_WRITE; kept until the sequence in
progress has ended; begun otherwise (R182, R178). -/
def requestPage (s : State) : State :=
  if s.uc.unit = .faulted ∧ s.uc.cause = some .busWrite then s
  else if s.xe.pageBusy then { s with xe := { s.xe with pageQueued := true } }
  else beginPage s

/-- The unit enters another of its states, and the Status Page is written (R182). -/
def enterUnit (u : UnitState) (s : State) : State := requestPage { s with uc := { s.uc with unit := u } }

/-! ## Monitor outputs (R61) -/

/-- A pulse on an output that selects this head and signal; it goes on if the output is high already. -/
def MonOutput.pulsed (m : MonOutput) (h : Head) (sig : MonSignal) : MonOutput :=
  if m.selection = .signal h sig then { m with pulse := true } else m

/-- A pulse-type event of a head. -/
def pulse (h : Head) (sig : MonSignal) (s : State) : State :=
  { s with mon0 := s.mon0.pulsed h sig, mon1 := s.mon1.pulsed h sig }

end Sys2Proof.Machine
end

