-- ==== Sys2Proof/Machine/Revisit.lean ====
section
/-! DEFINITION. The revisit lists (05): a candidate taken into the next list, resolutions, and the list phases that other blocks drive. -/

namespace Sys2Proof.Machine

/-! ## Reason sets -/

/-- The union of two reason sets (R86). -/
def Reasons.union (a b : Reasons) : Reasons :=
  { quality := a.quality || b.quality, gap := a.gap || b.gap, busy := a.busy || b.busy,
    suspended := a.suspended || b.suspended, headLost := a.headLost || b.headLost }

/-- No reason. -/
def Reasons.none : Reasons :=
  { quality := false, gap := false, busy := false, suspended := false, headLost := false }

/-! ## A candidate into a list (R86) -/

/-- The window-relative offset of an entry's first point. -/
def Entry.low (cpr : Nat) (t : ZoneTable) (e : Entry) : Nat := windowOffset cpr t.start e.first

/-- The window-relative offset of an entry's last point. -/
def Entry.high (cpr : Nat) (t : ZoneTable) (e : Entry) : Nat := windowOffset cpr t.start e.last

/-- An entry is for this head and zone. -/
def Entry.isFor (e : Entry) (h : Head) (zone : Nat) : Bool := e.head == h && e.zone == zone

/-- A candidate's reasons and attempts join an entry's. -/
def Entry.joined (e : Entry) (reasons : Reasons) (attempts : Nat) : Entry :=
  { e with reasons := e.reasons.union reasons, attempts := max e.attempts attempts }

/-- An entry stands before a head's offset in the order of R84. -/
def Entry.before (cpr : Nat) (t : ZoneTable) (h : Head) (offset : Nat) (e : Entry) : Bool :=
  decide (e.head.num < h.num) || (e.head == h && decide (e.low cpr t < offset))

/-- What became of a candidate: it joined entries, it created one, or it was lost. -/
inductive CandidateFate where
  | joined (l : List Entry)
  | created (l : List Entry)
  | lost
  deriving DecidableEq, Repr

/-- One candidate taken into a list, by the five steps of R86 in their order. -/
def mergeCandidate (cpr : Nat) (t : ZoneTable) (h : Head) (zone point : Nat) (reasons : Reasons) (attempts : Nat)
    (l : List Entry) : CandidateFate :=
  let o := windowOffset cpr t.start point
  let pitch := t.pitchOf zone
  let covers (e : Entry) : Bool := e.isFor h zone && decide (e.low cpr t ≤ o ∧ o ≤ e.high cpr t)
  let below (e : Entry) : Bool := e.isFor h zone && e.high cpr t + pitch == o
  let above (e : Entry) : Bool := e.isFor h zone && e.low cpr t == o + pitch
  if l.any covers then .joined (l.map fun e => if covers e then e.joined reasons attempts else e)
  else
    match l.find? below, l.find? above with
    | some _, some u =>
      .joined ((l.filter fun e => !above e).map fun e =>
        if below e then
          { (e.joined reasons attempts).joined u.reasons u.attempts with last := u.last }
        else e)
    | some _, none =>
      .joined (l.map fun e => if below e then { e.joined reasons attempts with last := point } else e)
    | none, some _ =>
      .joined (l.map fun e => if above e then { e.joined reasons attempts with first := point } else e)
    | none, none =>
      if l.length < Config.revisitRoom then
        .created (l.filter (Entry.before cpr t h o)
          ++ { head := h, zone := zone, first := point, last := point, reasons := reasons, attempts := attempts }
          :: l.filter fun e => !Entry.before cpr t h o e)
      else .lost

/-- The attempts a candidate is given: 0 in ACQUIRING, the round counter in ROUND and CLOSING (R85). -/
def Revisit.attempts (u : Revisit) : Nat :=
  match u.phase with
  | .acquiring | .idle => 0
  | .round | .closing => u.round

/-- The fate of a candidate in the state as it stands. -/
def State.candidateFate (s : State) (t : ZoneTable) (h : Head) (zone point : Nat) (reasons : Reasons) :
    CandidateFate :=
  mergeCandidate s.cpr t h zone point reasons s.ru.attempts s.ru.next

/-- A fate takes effect on the next list, the order's counts and OUTPUT_LOSS (R86, R87). -/
def applyFate (f : CandidateFate) (s : State) : State :=
  match f with
  | .joined l => { s with ru := { s.ru with next := l } }
  | .created l =>
    { s with ru := { s.ru with next := l } }.onCounts fun c => { c with created := c.created + 1 }
  | .lost => setNotice .outputLoss (s.onCounts fun c => { c with lost := c.lost + 1 })

/-- A candidate is handed to the Revisit Unit: discarded in IDLE, taken into the next list otherwise (R85). -/
def candidate (h : Head) (zone point : Nat) (reasons : Reasons) (s : State) : State :=
  match s.ru.phase, s.tg.zones with
  | .idle, _ => s
  | _, none => s
  | _, some t => applyFate (s.candidateFate t h zone point reasons) s

/-- Candidates of one head handed one by one with the same reasons, as points with their zones (R85). -/
def candidates (h : Head) (reasons : Reasons) : List (Nat × Nat) → State → State
  | [], s => s
  | (point, zone) :: rest, s => candidates h reasons rest (candidate h zone point reasons s)

/-- A resolution: it is counted and changes neither list (R88). -/
def resolution (s : State) : State := s.onCounts fun c => { c with resolved := c.resolved + 1 }

/-! ## The list phases -/

/-- The lists are emptied, the awaited heads and any held record discarded, the round counter set to 0, and
the phase entered (R89, R97, R98). -/
def emptyLists (phase : ListPhase) (s : State) : State :=
  { s with ru := { s.ru with
      current := [], next := [], round := 0, phase := phase, awaited := .all false, held := none } }

/-- ACQUIRING starts for a step: R89. -/
def listsAcquiring (s : State) : State :=
  { s with ru := { current := [], next := [], round := 0, phase := .acquiring, awaited := .all false,
                   held := none, unresolvedStaged := 0 } }

/-- A head leaves the awaited heads (R93). -/
def unawait (h : Head) (s : State) : State :=
  { s with ru := { s.ru with awaited := s.ru.awaited.set h false } }

end Sys2Proof.Machine
end

