-- ==== Sys2Proof/Machine/Writer.lean ====
section
/-! DEFINITION. The Result Writer's own operations (09.4, 09.5): takes, record writes, closes, and the Staging Buffer's taking of a record that wakes it. -/

namespace Sys2Proof.Machine

/-! ## Takes (R160, R161) -/

/-- The read of Segment Table entry `n` begins, with `left` entries not yet read in this take, `n` included: its
state, and then, of an OFFERED entry, its address and length (R159). -/
def readEntry (n left : Nat) (s : State) : State :=
  beginGroup [.read .segmentEntry (entryAddr s.xbase n) 1, .read .segmentEntry (entryAddr s.xbase n + 8) 12]
    { s with rw := { s.rw with doing := .entry, entry := n, left := left } }

/-- A take begins at the cursor. -/
def beginTake (s : State) : State :=
  readEntry s.rw.cursor Config.segmentEntries { s with rw := { s.rw with phase := .taking, recheck := false } }

/-- A recheck in STARVED: a take from the cursor during which the phase stays STARVED (R161). -/
def beginRecheck (s : State) : State :=
  readEntry s.rw.cursor Config.segmentEntries { s with rw := { s.rw with recheck := false } }

/-- The take has found no usable OFFERED entry: STARVED, with SEG_STARVED at the entry to it, and one further
recheck when one is pending (R160, R161). A recheck that found unusable OFFERED entries alone ends here too
(log 54). -/
def takeFailed (s : State) : State :=
  let t := (if s.rw.phase = .starved then s else setNotice .segStarved s)
  let t : State := { t with rw := { t.rw with phase := .starved, doing := .none } }
  if t.rw.recheck then beginRecheck t else t

/-- The search of a take goes on after entry `n`, or has read all 64 entries (R160). -/
def nextEntry (s : State) : State :=
  if s.rw.left ≤ 1 then takeFailed s
  else readEntry ((s.rw.entry + 1) % Config.segmentEntries) (s.rw.left - 1) s

/-- A nudge or an index arrival reaches the Result Writer: a recheck when STARVED with none in progress, a
recheck kept pending during a take or recheck, nothing otherwise (R161, R170). -/
def starvedRecheck (s : State) : State :=
  match s.rw.phase with
  | .starved => if s.rw.doing = .none then beginRecheck s else { s with rw := { s.rw with recheck := true } }
  | .taking => { s with rw := { s.rw with recheck := true } }
  | .idle | .writing | .closingSegment | .stoppedByFault => s

/-! ## Writing and closing (R162, R164) -/

/-- The close of the FILLING segment begins (R164; the writes before FULL: log 59). -/
def beginClose (reason : CloseReason) (g : Segment) (s : State) : State :=
  beginGroup (writeGroup .full (closeWrites s.xbase g reason))
    { s with rw := { s.rw with phase := .closingSegment, doing := .full reason } }

/-- The write of a record into the FILLING segment begins at its fill (R162). -/
def beginRecord (r : Record) (g : Segment) (s : State) : State :=
  beginGroup (writeGroup .record [⟨g.address + BitVec.ofNat 64 g.fill, r.bytes⟩])
    { s with rw := { s.rw with phase := .writing, doing := .record } }

/-- The Result Writer, with no access in progress, goes on with the oldest staged record: a take when it has
no FILLING segment, the record's write when it fits, a close for LENGTH when it does not; IDLE when the
buffer is empty (R160, R162). -/
def writerNext (s : State) : State :=
  match s.sb.staged with
  | [] => { s with rw := { s.rw with phase := .idle, doing := .none } }
  | x :: _ =>
    match s.rw.filling with
    | none => beginTake s
    | some g => if g.fill + x.record.length ≤ g.length then beginRecord x.record g s else beginClose .length g s

/-- The segment list of the order after a record written into segment `n` (R165). -/
def listSegment (n : Nat) (w : Writer) : Writer :=
  if w.segments.getLast? = some n then w
  else if w.segments.length < Config.segmentListRoom then { w with segments := w.segments ++ [n] }
  else { w with overflow := true }

/-- The FILLING segment after a record of `length` bytes, of the order with this tag (R162). -/
def Segment.advanced (g : Segment) (length : Nat) (tag : Word) : Segment :=
  { g with fill := g.fill + length, count := g.count + 1, firstTag := if g.count = 0 then tag else g.firstTag }

/-! ## The Staging Buffer (R151, R152, R154) -/

/-- The buffer has room for a record: 1,016 staged records stop a sample record, 1,024 any other (R152). -/
def State.hasRoom (s : State) (r : Record) : Bool :=
  if r.isSample then decide (s.sb.staged.length < Config.sampleRoom)
  else decide (s.sb.staged.length < Config.bufferRoom)

/-- A record joins the tail of the buffer with its order's tag, and the high-water mark follows. -/
def Staging.append (b : Staging) (r : Record) (tag : Word) : Staging :=
  { b with staged := b.staged ++ [⟨r, tag⟩], highWater := max b.highWater (b.staged.length + 1) }

/-- A taken record wakes an IDLE writer (R162). -/
def wakeWriter (s : State) : State := if s.rw.phase = .idle then writerNext s else s

/-- A record joins the buffer: the only operation that adds to it. STAGE_HALF is set when the count rises to
512 (R154). -/
def joinRecord (r : Record) (s : State) : State :=
  wakeWriter
    ((if s.sb.staged.length = 511 then setNotice .stageHalf else id)
      { s with sb := s.sb.append r s.oe.activeTag })

/-- The Staging Buffer takes a record for which it has room (R152). -/
def takeRecord (r : Record) (s : State) : State := if s.hasRoom r then joinRecord r s else s

/-- The oldest record is removed. -/
def removeOldest (s : State) : State := { s with sb := { s.sb with staged := s.sb.staged.drop 1 } }

end Sys2Proof.Machine
end

