-- ==== Sys2Proof/Machine/Gaps.lean ====
section
/-! DEFINITION. Pending gaps and the GAP records a port keeps (09.2: R155, R156). -/

namespace Sys2Proof.Machine

/-- The GAP record of a pending gap, with reason GAP (R155); its causes and attempts are 0 (log 45). -/
def PendingGap.record (h : Head) (g : PendingGap) : GapRecord :=
  { head := h, reason := .gap, step := g.step, zone := 0, firstPass := g.firstPass, lastPass := g.lastPass,
    causes := .none, attempts := 0, first := g.first, last := g.last, count := g.count }

/-- A dropped point opens a pending gap or extends it; a gap of 65,535 points stays as it is (R155). -/
def extendGap (point : Nat) (pass : PassId) (step : Nat) : Option PendingGap → PendingGap
  | none => { first := point, firstPass := pass, last := point, lastPass := pass, step := step, count := 1 }
  | some g =>
    if g.count < Config.gapRoom then { g with last := point, lastPass := pass, count := g.count + 1 } else g

/-- A dropped outcome of a head is taken into its pending gap (R79, R155). -/
def dropPoint (h : Head) (point : Nat) (pass : PassId) (step : Nat) (s : State) : State :=
  s.onPort h fun p => { p with gap := some (extendGap point pass step p.gap) }

/-- The head's pending gap has been taken: the record joins the buffer and no gap is pending. -/
def takeGap (h : Head) (g : PendingGap) (s : State) : State :=
  takeRecord (.gap (g.record h)) (s.onPort h fun p => { p with gap := none, gapWaits := false })

/-- The head's pending gap is offered to the Staging Buffer, when there is one: taken, or waiting; a gap that
waits already goes on waiting (R155). -/
def offerGap (h : Head) (s : State) : State :=
  match (s.ports.get h).gap with
  | none => s
  | some g =>
    if (s.ports.get h).gapWaits then s
    else if s.hasRoom (.gap (g.record h)) then takeGap h g s
    else s.onPort h fun p => { p with gapWaits := true }

/-- A later record of the same reason folds into a held one (R156). -/
def GapRecord.merged (held r : GapRecord) : GapRecord :=
  { held with last := r.last, lastPass := r.lastPass, count := held.count + r.count }

/-- A record of R37 refused by the buffer is kept as the port's held record for its reason, or merged into
the one it holds (R156). -/
def Port.hold (p : Port) (r : GapRecord) : Port :=
  match r.reason with
  | .suspended => { p with heldSuspended := some ((p.heldSuspended.map (·.merged r)).getD r) }
  | .headLost => { p with heldHeadLost := some ((p.heldHeadLost.map (·.merged r)).getD r) }
  | .gap | .unresolved => p

/-- The port holds a record for the reason of this one. -/
def Port.holds (p : Port) (r : GapRecord) : Bool :=
  match r.reason with
  | .suspended => p.heldSuspended.isSome
  | .headLost => p.heldHeadLost.isSome
  | .gap | .unresolved => false

/-- A GAP record of R37 is offered: taken, or held by the port (R156). -/
def offerPortRecord (h : Head) (r : GapRecord) (s : State) : State :=
  if s.hasRoom (.gap r) && !(s.ports.get h).holds r then takeRecord (.gap r) s
  else s.onPort h fun p => p.hold r

/-- A port waits with a record (R153, R156). -/
def Port.waits (p : Port) : Bool :=
  (p.gapWaits && p.gap.isSome) || p.heldSuspended.isSome || p.heldHeadLost.isSome

/-- A freed entry is granted to a port: the pending gap when it waits, then the held SUSPENDED record, then
the held HEAD_LOST record (R156). -/
def grantPort (h : Head) (s : State) : State :=
  let p := s.ports.get h
  match (if p.gapWaits then p.gap else none), p.heldSuspended, p.heldHeadLost with
  | some g, _, _ => takeGap h g s
  | none, some r, _ => takeRecord (.gap r) (s.onPort h fun p => { p with heldSuspended := none })
  | none, none, some r => takeRecord (.gap r) (s.onPort h fun p => { p with heldHeadLost := none })
  | none, none, none => s

end Sys2Proof.Machine
end

