-- ==== Sys2Proof/Machine/Ports.lean ====
section
/-! DEFINITION. Head ports (03): sending, wakes, the in-flight list, abandonment and the exits from READY, with the disarming of pass records (R38) that they bring. -/

namespace Sys2Proof.Machine

/-! ## Sending and waking (R40, R41, R43) -/

/-- The port sends messages on its link, after those sent before. -/
def Port.send (p : Port) (ms : List LinkMessage) : Port := { p with sent := p.sent ++ ms }

/-- Period of the wake timer: 100 ms (R44). -/
def wakePeriod : Nat := 100000

/-- WAKE is sent with the configuration held: the sequence counter goes to 0, the wake timer starts, the
timeout becomes the one in force, and the head is WAKING (R41, R43, R47). A port without a configuration
record has none to send. -/
def Port.sendWake (p : Port) (now : Time) : Port :=
  match p.config with
  | none => p
  | some c =>
    { p.send [.wake c.codes c.timeout] with
      state := .waking, seqCounter := 0, wakeTimer := .running now wakePeriod, wakePending := false,
      timeoutInForce := c.timeout }

/-- SLEEP and OFF, at the entry to STOPPED and at a soft reset: sent to a head that is not OFF, the wake timer
stopped, wake pending clear, the list emptied, and the port's gap and GAP records discarded (R46, R62, R156). -/
def Port.asleep (p : Port) : Port :=
  { (if p.state = .off then p else p.send [.sleep]) with
    state := .off, wakeTimer := .stopped, wakePending := false, inFlight := [], gap := none, gapWaits := false,
    heldSuspended := none, heldHeadLost := none }

/-! ## The in-flight list -/

/-- The entries of a list that stand for their groups: the group's first exposure (R49). -/
def groupsOf (l : List InFlight) : List InFlight := l.filter fun e => e.ordinal == 1

/-- A scan-pass entry without the abandoned mark (R53). -/
def InFlight.openScan (e : InFlight) : Bool := !e.abandoned && e.pass.kind != .reference

/-- The list is drained of scan triggers (R53). -/
def Port.drained (p : Port) : Bool := !p.inFlight.any InFlight.openScan

/-- The list holds a REFERENCE entry (R104). -/
def Port.hasReference (p : Port) : Bool := p.inFlight.any fun e => e.pass.kind == .reference

/-- Entries that meet a test bear the abandoned mark. -/
def Port.marked (p : Port) (test : InFlight → Bool) : Port :=
  { p with inFlight := p.inFlight.map fun e => if test e then { e with abandoned := true } else e }

/-- The order's abandoned count advances (R54, R55), while an order is active. -/
def countAbandoned (n : Nat) (s : State) : State :=
  if s.oe.active.isSome then s.onCounts fun c => { c with abandoned := c.abandoned + n } else s

/-- At an ABORT: every scan-pass entry of the port is marked, and each group so marked counted abandoned
(R55). -/
def abandonScan (h : Head) (s : State) : State :=
  countAbandoned (groupsOf ((s.ports.get h).inFlight.filter InFlight.openScan)).length
    (s.onPort h fun p => p.marked InFlight.openScan)

/-! ## Disarming (R38) -/

/-- A record set NOT_ARMED, its position, reach, zone, next trigger and withheld cleared (R38). -/
def PassRecord.disarmed (r : PassRecord) : PassRecord :=
  { r with state := .notArmed, position := none, reach := 0, zone := none, nextTrigger := none,
           withheld := false }

/-- The pass that a head's scan record names has ended: the record is DONE, or was when it was disarmed (R30,
R155). -/
def HeadPasses.passOver (p : HeadPasses) : Bool :=
  match p.scan.state with
  | .done => true
  | .notArmed => p.scanEnded
  | .waitingStart | .inPass => false

/-- A head's scan record is disarmed, and its series is open no longer; no completion is reported (R38). -/
def disarmScanOnly (h : Head) (s : State) : State :=
  s.onPasses h fun p => { p with scan := p.scan.disarmed, seriesOpen := false, scanEnded := p.passOver }

/-- A head's scan record is disarmed, at which its pending gap is offered (R38, R155). -/
def disarmScan (h : Head) (s : State) : State := offerGap h (disarmScanOnly h s)

/-- A head's reference record is disarmed, at which the port marks its REFERENCE entries abandoned, counting
them in no order (R38, R55). -/
def disarmRef (h : Head) (s : State) : State :=
  (s.onRef h PassRecord.disarmed).onPort h fun p => p.marked fun e => e.pass.kind == .reference

/-- A head has a pending gap that does not wait yet. -/
def State.gapPending (s : State) (h : Head) : Bool := (s.ports.get h).gap.isSome && !(s.ports.get h).gapWaits

/-- The heads with a pending gap that does not wait yet. -/
def State.gapHeads (s : State) : List Head := Head.all.filter s.gapPending

/-- The pending gaps of all heads are offered at one event, in either order (R151). -/
def offerGaps (s : State) : State := forFree s.gapHeads offerGap s

/-- The scan records of every head are disarmed, and their pending gaps offered (R38, R155). -/
def disarmScans (s : State) : State := offerGaps (forHeads disarmScanOnly s)

/-! ## Passages that end without a verdict (R34, R104) -/

/-- The part of a head's reference state that a passage uses goes back to IDLE, its tally discarded. -/
def HeadRef.passageIdle (r : HeadRef) : HeadRef :=
  { r with passage := .idle, tally := .zero, endTaken := false }

/-- An open passage ends without a verdict: no record, no change of drift or due count (R104); its reference
record is disarmed (R34). -/
def endPassage (h : Head) (s : State) : State :=
  if (s.rc.heads.get h).passage = .opened then disarmRef h (s.onHeadRef h HeadRef.passageIdle) else s

/-! ## Exits from READY (R54) -/

/-- A scan pass of a head has ended: its record names another pass, or the pass it names has ended (R30,
R155). -/
def State.passEnded (s : State) (h : Head) (pass : PassId) : Bool :=
  (s.tg.heads.get h).passOver || (s.scan h).pass != pass

/-- Scan-pass groups have left a head's list: the pending gap is offered when the last of a pass that has
ended is among them (R155, R53). -/
def groupsRemoved (h : Head) (gs : List InFlight) (s : State) : State :=
  if gs.any fun g => g.openScan && s.passEnded h g.pass
      && !((s.ports.get h).inFlight.any fun e => e.openScan && e.pass == g.pass) then offerGap h s
  else s

/-- The points of the groups that become HEAD_LOST candidates when the head enters FAULT, in issue order
(R54). -/
def State.lostPoints (s : State) (gs : List InFlight) : List (Nat × Nat) :=
  (gs.filter fun g => s.yieldsCandidate g.pass (g.zone.getD 0)).map fun g => (g.point, g.zone.getD 0)

/-- The reason HEAD_LOST alone. -/
def Reasons.ofHeadLost : Reasons := { Reasons.none with headLost := true }

/-- The list is emptied at an exit from READY: the unmarked scan groups are counted abandoned, at an exit to
FAULT their points are handed as candidates, and an open passage ends without a verdict (R54). -/
def leaveReady (h : Head) (toFault : Bool) (s : State) : State :=
  let gs := groupsOf ((s.ports.get h).inFlight.filter InFlight.openScan)
  let t := countAbandoned gs.length (s.onPort h fun p => { p with inFlight := [] })
  let t := if toFault then candidates h .ofHeadLost (t.lostPoints gs) t else t
  endPassage h (groupsRemoved h gs t)

/-- A wake of START has its result, READY, FAULT or FORCED_OFF: unit control waits for it no longer (R174). -/
def endWake (h : Head) (s : State) : State :=
  { s with uc := { s.uc with startWakes := s.uc.startWakes.set h false } }

/-- The head leaves READY or WAKING for FORCED_OFF: SLEEP sent, wake pending set, the wake timer stopped
(R58). -/
def forceOff (h : Head) (s : State) : State :=
  let off (p : Port) : Port :=
    { p.send [.sleep] with state := .forcedOff, wakePending := true, wakeTimer := .stopped }
  match (s.ports.get h).state with
  | .ready => (leaveReady h false s).onPort h off
  | .waking => endWake h (s.onPort h off)
  | .off | .fault | .forcedOff => s

/-- A wake of a head is taken, by its state and the light condition (R43). -/
def wakeHead (h : Head) (s : State) : State :=
  if s.light.present then
    match (s.ports.get h).state with
    | .off | .fault | .forcedOff => s.onPort h fun p => { p with state := .forcedOff, wakePending := true }
    | .waking | .ready => s
  else
    match (s.ports.get h).state with
    | .off | .fault | .waking => s.onPort h fun p => p.sendWake s.xe.time
    | .ready => (leaveReady h false s).onPort h fun p => p.sendWake s.xe.time
    | .forcedOff => s

/-- At the clear of the light condition a FORCED_OFF head with wake pending is sent WAKE (R60). -/
def wakePended (h : Head) (s : State) : State :=
  if (s.ports.get h).state = .forcedOff ∧ (s.ports.get h).wakePending = true then
    s.onPort h fun p => p.sendWake s.xe.time
  else s

/-! ## Retirement (R50, R51, R52) -/

/-- The oldest entry not yet retired. -/
def oldestOpen (l : List InFlight) : Option InFlight := l.find? fun e => e.result.isNone

/-- The oldest entry not yet retired takes its result, and its response timer is cancelled. -/
def retireOldest (x : Exposure) : List InFlight → List InFlight
  | [] => []
  | e :: es =>
    if e.result.isNone then { e with result := some x, timer := .stopped } :: es else e :: retireOldest x es

/-- Exposures free in a list of a port (R48). -/
def Port.freeEntries (p : Port) : Nat := Config.inFlightRoom - p.inFlight.length

end Sys2Proof.Machine
end

