-- ==== Sys2Proof/Machine/Passes.lean ====
section
/-! DEFINITION. The Trigger Generator's passes (02.4 to 02.8): arming, pass start, motion, points due, pass end, zone entries and withheld points. -/

namespace Sys2Proof.Machine

/-! ## Arming (R25, R33, R34) -/

/-- A record armed for a pass: WAITING_START, nothing withheld; that it has no position, reach, zone or next
trigger while it waits is the model's choice (log 51). -/
def PassRecord.armedFor (pass : PassId) (passes : Nat) : PassRecord :=
  { state := .waitingStart, pass := pass, armed := passes, position := none, reach := 0, zone := none,
    nextTrigger := none, withheld := false }

/-- A head's scan record is armed and its series opens. -/
def armScan (pass : PassId) (passes : Nat) (h : Head) (s : State) : State :=
  s.onPasses h fun p => { p with scan := .armedFor pass passes, seriesOpen := true, scanEnded := false }

/-- A head's scan record is armed for the R normal passes of a step (R25). -/
def armNormal (h : Head) (s : State) : State := armScan ⟨.normal, 0⟩ s.revolutions h s

/-- A head's scan record is armed for the revisit pass of a round (R33). -/
def armRevisit (round : Nat) (h : Head) (s : State) : State := armScan ⟨.revisit, round⟩ 1 h s

/-- A reference passage is armed in a record that is NOT_ARMED or DONE; otherwise the passage armed stands
(R34). -/
def armReference (h : Head) (s : State) : State :=
  match (s.ref h).state with
  | .notArmed | .done =>
    s.onPasses h fun p => { p with ref := .armedFor ⟨.reference, 0⟩ 1, refIssued := 0, refSkipped := 0 }
  | .waitingStart | .inPass => s

/-! ## Withheld points (R35 to R37) -/

/-- The points of a head's scan pass from the offset of an angle on, with their zones; none for no angle. -/
def State.pointsFrom (s : State) (t : ZoneTable) (h : Head) (pass : PassId) : Option Nat → List (Nat × Nat)
  | none => []
  | some a =>
    (scanPoints s.cpr t s.ru.current h pass).filter fun p => decide (windowOffset s.cpr t.start a ≤ p.1)

/-- All points of a head's scan pass, with their zones. -/
def State.allPoints (s : State) (t : ZoneTable) (h : Head) (pass : PassId) : List (Nat × Nat) :=
  scanPoints s.cpr t s.ru.current h pass

/-- The points that a suspension withholds and their pass (R35): none when the pass is withheld already. -/
def State.suspendedPoints (s : State) (t : ZoneTable) (h : Head) : List (Nat × Nat) :=
  let r := s.scan h
  match r.state with
  | .inPass => s.pointsFrom t h r.pass r.nextTrigger
  | .waitingStart => if r.withheld then [] else s.allPoints t h r.pass
  | .notArmed | .done => []

/-- The pass whose points an exclusion withholds (R36). -/
def PassRecord.lostPass (r : PassRecord) : PassId :=
  match r.pass.kind with
  | .normal => ⟨.normal, r.armed - 1⟩
  | .revisit | .reference => r.pass

/-- The points that an exclusion withholds (R36). -/
def State.excludedPoints (s : State) (t : ZoneTable) (h : Head) : List (Nat × Nat) :=
  let r := s.scan h
  match r.state with
  | .notArmed | .done => []
  | .inPass =>
    if r.pass = r.lostPass then s.pointsFrom t h r.pass r.nextTrigger else s.allPoints t h r.lostPass
  | .waitingStart => s.allPoints t h r.lostPass

/-- Points as offsets turned into blade angles (R19). -/
def State.bladePoints (s : State) (t : ZoneTable) (ps : List (Nat × Nat)) : List (Nat × Nat) :=
  ps.map fun p => (angleOf s.cpr t.start p.1, p.2)

/-- The GAP record for withheld points of one pass (R37, R156), if there is a point; its causes and attempts
are 0 (log 45). -/
def withheldRecord (h : Head) (reason : GapReason) (step : Nat) (pass : PassId) (ps : List (Nat × Nat)) :
    Option GapRecord :=
  match ps.head?, ps.getLast? with
  | some a, some b =>
    some { head := h, reason := reason, step := step, zone := 0, firstPass := pass, lastPass := pass,
           causes := .none, attempts := 0, first := a.1, last := b.1, count := ps.length }
  | _, _ => none

/-- Withheld points of one pass are handed over: candidates in ascending offset, then the head's pending gap
and the GAP record that covers every withheld point (R35, R36, R37). -/
def handWithheld (h : Head) (reason : GapReason) (reasons : Reasons) (pass : PassId) (ps : List (Nat × Nat))
    (s : State) : State :=
  let t := candidates h reasons (ps.filter fun p => s.yieldsCandidate pass p.2) s
  match withheldRecord h reason s.oe.stepIndex pass ps with
  | none => t
  | some r => offerPortRecord h r (offerGap h t)

/-- The reason SUSPENDED alone. -/
def Reasons.ofSuspended : Reasons := { Reasons.none with suspended := true }

/-- A head's scan record is suspended as it stands (R35). -/
def suspendScan (h : Head) (s : State) : State :=
  match s.tg.zones with
  | none => s
  | some t =>
    match (s.scan h).state with
    | .inPass | .waitingStart =>
      handWithheld h .suspended .ofSuspended (s.scan h).pass (s.bladePoints t (s.suspendedPoints t h))
        (s.onScan h fun r => { r with withheld := true, nextTrigger := none })
    | .notArmed | .done => s

/-- The Trigger Generator's part of an exclusion: the withheld points are handed over and the scan record is
set NOT_ARMED, its pending gap offered before any GAP record (R36, R155). -/
def excludeScan (h : Head) (s : State) : State :=
  match s.tg.zones with
  | none => disarmScan h s
  | some t =>
    handWithheld h .headLost .ofHeadLost (s.scan h).lostPass (s.bladePoints t (s.excludedPoints t h))
      (disarmScan h s)

/-! ## Zone entries (R32, R66) -/

/-- The class a zone uses on a pass (R32). -/
def Zone.classOn (z : Zone) (pass : PassId) : ExpClass :=
  match pass.kind with
  | .normal | .reference => z.expClass
  | .revisit => z.revisitClass

/-- The Qualifier takes a zone entry: `left` is the class of the zone left, or none at a pass start (R66). -/
def zoneEntry (h : Head) (left : Option ExpClass) (new : ExpClass) (s : State) : State :=
  let blank := ((s.ports.get h).config.map (·.blank)).getD 0
  s.onQual h fun q =>
    let compared := match left with
      | some c => some c
      | none => q.classInUse
    { q with
      blank := match compared with
        | some c => if c = new then q.blank else blank
        | none => q.blank
      classInUse := some new }

/-- The record's zone becomes zone `k`, with its zone entry (R32). -/
def enterZone (t : ZoneTable) (h : Head) (k : Nat) (s : State) : State :=
  let r := s.scan h
  if r.zone = some k then s
  else
    match t.zones[k]? with
    | none => s
    | some z =>
      zoneEntry h ((r.zone.bind (t.zones[·]?)).map (·.classOn r.pass)) (z.classOn r.pass)
        (s.onScan h fun r => { r with zone := some k })

/-! ## Issuing a trigger (R28, R29, R48) -/

/-- What the Trigger Generator hands the port for a due point (R28). -/
structure Request where
  point : Nat
  zone : Option Nat
  pass : PassId
  step : Option Nat
  revolution : Rev
  expClass : ExpClass
  floor : Byte
  burst : Nat
  deriving DecidableEq, Repr

/-- One entry of a burst group as it is appended at its issue (R48, R49). -/
def Request.entry (r : Request) (seq : BitVec 8) (ordinal : Nat) (now : Time) (timeout : Byte) : InFlight :=
  { seq := seq, point := r.point, zone := r.zone, pass := r.pass, step := r.step, revolution := r.revolution,
    expClass := r.expClass, floor := r.floor, ordinal := ordinal, burst := r.burst, issueTime := now,
    abandoned := false, timer := .running now (10 * timeout.toNat), result := none }

/-- The port sends a burst: the messages back to back, an entry for each, the sequence counter advanced
(R48). -/
def Port.issue (p : Port) (r : Request) (now : Time) : Port :=
  { p.send ((List.range r.burst).map fun k => .trigger (p.seqCounter + BitVec.ofNat 8 k) r.expClass) with
    seqCounter := p.seqCounter + BitVec.ofNat 8 r.burst
    inFlight := p.inFlight ++ (List.range r.burst).map fun k =>
      r.entry (p.seqCounter + BitVec.ofNat 8 k) (k + 1) now p.timeoutInForce }

/-- The port can issue: READY, with room for the whole burst (R48). -/
def Port.canIssue (p : Port) (burst : Nat) : Bool := p.state == .ready && decide (burst ≤ p.freeEntries)

/-- The reason BUSY alone. -/
def Reasons.ofBusy : Reasons := { Reasons.none with busy := true }

/-- A due scan point: issued and counted, or skipped, counted, and handed as a candidate where it is one
(R28, R29). -/
def scanPointDue (h : Head) (zone : Nat) (r : Request) (s : State) : State :=
  if (s.ports.get h).canIssue r.burst then
    pulse h .triggerIssued
      ((s.onPort h fun p => p.issue r s.xe.time).onCounts fun c => { c with issued := c.issued + 1 })
  else
    let t := s.onCounts fun c => { c with skipped := c.skipped + 1 }
    if s.yieldsCandidate r.pass zone then candidate h zone r.point .ofBusy t else t

/-- A due reference point: issued or skipped, and reported to the Reference Check Unit (R28, R29). -/
def refPointDue (h : Head) (r : Request) (s : State) : State :=
  if (s.ports.get h).canIssue r.burst then
    pulse h .triggerIssued
      ((s.onPort h fun p => p.issue r s.xe.time).onPasses h fun p => { p with refIssued := p.refIssued + 1 })
  else s.onPasses h fun p => { p with refSkipped := p.refSkipped + 1 }

/-! ## One angle arrival at a head's scan record (R26, R27, R30) -/

/-- The first point of a pass at or after an offset, as a blade angle. -/
def State.scanPointAt (s : State) (t : ZoneTable) (h : Head) (pass : PassId) (offset : Nat) : Option Nat :=
  (firstScanPoint s.cpr t s.ru.current h pass offset).map (angleOf s.cpr t.start)

/-- The pass awaited starts: position 0, reach 0, the first point next; nothing is next in a withheld pass
(R26, R35). -/
def startScan (t : ZoneTable) (h : Head) (s : State) : State :=
  let next := s.scanPointAt t h (s.scan h).pass 0
  s.onScan h fun r =>
    { r with state := .inPass, position := some 0, reach := 0, zone := none,
             nextTrigger := if r.withheld then none else next }

/-- What a scan-direction arrival does to a record in pass that stands at a position within the window: the
zone of reach, then the point due there (R27, R32). -/
def actInScan (t : ZoneTable) (h : Head) (position : Nat) (rev : Rev) (s : State) : State :=
  let s := match t.zoneAt (s.scan h).reach with
    | some k => enterZone t h k s
    | none => s
  let r := s.scan h
  if r.nextTrigger = some (angleOf s.cpr t.start position) then
    let next := s.scanPointAt t h r.pass (position + 1)
    let s := s.onScan h fun r => { r with nextTrigger := next }
    match t.zoneAt position with
    | none => s
    | some k =>
      match t.zones[k]? with
      | none => s
      | some z =>
        scanPointDue h k
          { point := angleOf s.cpr t.start position, zone := some k, pass := r.pass, step := s.stepOfPass,
            revolution := rev, expClass := z.classOn r.pass, floor := z.floor, burst := z.burst } s
  else s

/-- A record DONE: kind, index and reach kept, the rest cleared (R30). -/
def PassRecord.finished (r : PassRecord) : PassRecord :=
  { r with state := .done, position := none, zone := none, nextTrigger := none, withheld := false }

/-- A record that waits for the next pass of its series (R30); that it has no position, reach, zone or next
trigger while it waits is the model's choice (log 51). -/
def PassRecord.next (r : PassRecord) : PassRecord :=
  { r with state := .waitingStart, pass := ⟨r.pass.kind, r.pass.index + 1⟩, position := none, reach := 0,
           zone := none, nextTrigger := none, withheld := false }

/-- The scan pass ends at the window end: the pending gap is offered, then the record waits for its next
pass, which the same arrival starts in a FULL window, or is DONE (R30). -/
def endScan (t : ZoneTable) (h : Head) (rev : Rev) (s : State) : State :=
  let s := offerGap h s
  let r := s.scan h
  if r.pass.kind = .normal ∧ r.pass.index + 1 < r.armed then
    let s := s.onScan h PassRecord.next
    if t.full then actInScan t h 0 rev (startScan t h s) else s
  else s.onScan h PassRecord.finished

/-- A scan-direction arrival at a head's scan record; `offset` is the head's window-relative offset. -/
def scanForward (t : ZoneTable) (h : Head) (offset : Nat) (rev : Rev) (s : State) : State :=
  let r := s.scan h
  match r.state with
  | .notArmed | .done => s
  | .waitingStart => if offset = 0 then actInScan t h 0 rev (startScan t h s) else s
  | .inPass =>
    let p : Int := r.position.getD 0 + 1
    let s := s.onScan h fun r => { r with position := some p, reach := max r.reach p.toNat }
    if p = (t.length : Int) then endScan t h rev s
    else if 0 ≤ p then actInScan t h p.toNat rev s
    else s

/-! ## One angle arrival at a head's reference record (R34) -/

/-- The first reference point at or after an offset, as a blade angle. -/
def State.refPointAt (s : State) (c : RefConfig) (offset : Nat) : Option Nat :=
  (firstReferencePoint c offset).map (angleOf s.cpr c.start)

/-- What a scan-direction arrival does to a passage at a position within the reference window. -/
def actInRef (c : RefConfig) (h : Head) (position : Nat) (rev : Rev) (s : State) : State :=
  if (s.ref h).nextTrigger = some (angleOf s.cpr c.start position) then
    let next := s.refPointAt c (position + 1)
    refPointDue h
      { point := angleOf s.cpr c.start position, zone := none, pass := (s.ref h).pass, step := s.stepOfPass,
        revolution := rev, expClass := 0, floor := c.floor, burst := 1 }
      (s.onRef h fun r => { r with nextTrigger := next })
  else s

/-- The passage starts (R34). -/
def startRef (c : RefConfig) (h : Head) (s : State) : State :=
  let next := s.refPointAt c 0
  s.onRef h fun r => { r with state := .inPass, position := some 0, reach := 0, nextTrigger := next }

/-- The passage ends: the record is DONE, and the Reference Check Unit takes the passage end with the points
issued and skipped (R30, R103). A pending gap is offered at the end of a pass of the scan record only (R155). -/
def endRef (h : Head) (s : State) : State :=
  let n := (s.tg.heads.get h).refIssued + (s.tg.heads.get h).refSkipped
  (s.onRef h PassRecord.finished).onHeadRef h fun r =>
    if r.passage = .opened then { r with endTaken := true, tally := { r.tally with triggers := n } } else r

/-- A scan-direction arrival at a head's reference record; `offset` is the head's offset from the reference
window start. -/
def refForward (c : RefConfig) (h : Head) (offset : Nat) (rev : Rev) (s : State) : State :=
  let r := s.ref h
  match r.state with
  | .notArmed | .done => s
  | .waitingStart => if offset = 0 then actInRef c h 0 rev (startRef c h s) else s
  | .inPass =>
    let p : Int := r.position.getD 0 + 1
    let s := s.onRef h fun r => { r with position := some p, reach := max r.reach p.toNat }
    if p = (c.length : Int) then endRef h s
    else if 0 ≤ p then actInRef c h p.toNat rev s
    else s

/-! ## One angle arrival (R5, R22, R27) -/

/-- A backward arrival at a record: one position less in pass, nothing else (R27). -/
def PassRecord.backward (r : PassRecord) : PassRecord :=
  match r.state with
  | .inPass => { r with position := some (r.position.getD 0 - 1) }
  | .notArmed | .waitingStart | .done => r

/-- A scan-direction arrival at the two records of a head, the scan record first (R22; log 56). -/
def headForward (blade : Nat) (rev : Rev) (h : Head) (s : State) : State :=
  let seen := seenAngle s.cpr (s.mount h) blade
  let s := match s.tg.zones with
    | some t => scanForward t h (windowOffset s.cpr t.start seen) rev s
    | none => s
  match s.rc.config with
  | some c => refForward c h (windowOffset s.cpr c.start seen) rev s
  | none => s

/-- A record acts at this arrival besides moving: a pass starts or ends, or a point falls due. -/
def PassRecord.acts (r : PassRecord) (cpr start length offset : Nat) : Bool :=
  match r.state with
  | .notArmed | .done => false
  | .waitingStart => offset == 0
  | .inPass =>
    let p : Int := r.position.getD 0 + 1
    p == (length : Int) || (decide (0 ≤ p) && r.nextTrigger == some (angleOf cpr start p.toNat))

/-- One of a head's records acts at a scan-direction arrival. -/
def State.headActs (s : State) (blade : Nat) (h : Head) : Bool :=
  let seen := seenAngle s.cpr (s.mount h) blade
  (match s.tg.zones with
    | some t => (s.scan h).acts s.cpr t.start t.length (windowOffset s.cpr t.start seen)
    | none => false)
  || match s.rc.config with
    | some c => (s.ref h).acts s.cpr c.start c.length (windowOffset s.cpr c.start seen)
    | none => false

/-- The Trigger Generator takes an angle arrival. Several heads whose records act at one scan-direction
arrival act in an order that the spec leaves open (log 6). -/
def angleArrival (forward : Bool) (blade : Nat) (rev : Rev) (s : State) : State :=
  if forward then
    forHeadsFree (s.headActs blade) (headForward blade rev) s
  else
    forHeads (fun h s => s.onPasses h fun p => { p with scan := p.scan.backward, ref := p.ref.backward }) s

end Sys2Proof.Machine
end

