-- ==== Sys2Proof/Machine/Qualify.lean ====
section
/-! DEFINITION. The Qualifier (04): selection, judgement, the filter, correction, sample records and the accounting of one outcome. -/

namespace Sys2Proof.Machine

/-! ## Selection and judgement (R63, R64) -/

/-- An exposure is usable: a reply with neither SATURATED nor NO_PEAK (R63). -/
def Exposure.usable : Exposure → Bool
  | .reply _ _ _ saturated noPeak _ => !saturated && !noPeak
  | .noReply _ => false

/-- The quality of an exposure; NO_REPLY counts as 0 (04.1). -/
def Exposure.quality : Exposure → Byte
  | .reply _ _ q _ _ _ => q
  | .noReply _ => 0

/-- The raw code of an exposure; NO_REPLY counts as 0 (04.1). -/
def Exposure.raw : Exposure → BitVec 20
  | .reply r _ _ _ _ _ => r
  | .noReply _ => 0

/-- The intensity of an exposure; NO_REPLY counts as 0 (04.1). -/
def Exposure.intensity : Exposure → BitVec 12
  | .reply _ i _ _ _ _ => i
  | .noReply _ => 0

/-- The usable exposure of highest quality, the earliest among equals (R63). -/
def bestUsable : List Exposure → Option Exposure
  | [] => none
  | x :: xs =>
    match bestUsable xs with
    | none => if x.usable then some x else none
    | some y => if x.usable && decide (y.quality.toNat ≤ x.quality.toNat) then some x else some y

/-- The exposure that stands for the point (R63). -/
def chosenExposure (xs : List Exposure) : Exposure :=
  (bestUsable xs).getD (xs.headD (.noReply 0))

/-- The reject cause of a chosen exposure against a floor; none for a good outcome (R64). -/
def judge (x : Exposure) (floor : Byte) : RejectCause :=
  match x with
  | .noReply _ => .noReply
  | .reply _ _ q saturated noPeak _ =>
    if saturated then .saturated
    else if noPeak then .noPeak
    else if q.toNat < floor.toNat then .lowQuality
    else .none

/-! ## Correction (R73, R74) -/

/-- The corrected distance before drift of a raw code (R73). -/
def CorrectionTable.correct (t : CorrectionTable) (raw : BitVec 20) : Int :=
  match t with
  | .identity => raw.toNat
  | .points ps =>
    let i := raw.toNat / 4096
    let f : Int := (raw.toNat % 4096 : Nat)
    let a := ps.getD i 0
    let b := ps.getD (i + 1) 0
    a + ((b - a) * f) / 4096

/-- The corrected distance of a raw code of a head with its drift term in force (R74). -/
def State.corrected (s : State) (h : Head) (raw : BitVec 20) : Int :=
  (s.qu.heads.get h).table.correct raw - (s.rc.heads.get h).drift

/-! ## The filter (R67) -/

/-- The blank and filter counters after a NORMAL or REVISIT outcome (R67). -/
def HeadQual.counted (q : HeadQual) (bad : Bool) : HeadQual :=
  if 0 < q.blank then { q with blank := q.blank - 1 }
  else if bad then { q with filter := min 255 (q.filter + 1) }
  else { q with filter := 0 }

/-- A bad outcome counts in the filter: the blank counter stands at 0 (R67). -/
def State.countsInFilter (s : State) (h : Head) (bad : Bool) : Bool :=
  bad && (s.qu.heads.get h).blank == 0

/-! ## Sample records (R75 to R78) -/

/-- The offset of COMPACT and whether it is clipped (R77). -/
def compactBody (distance base : Int) : SampleBody :=
  let v := (distance - base) / 10
  if v < -32768 then .compact (-32768) true
  else if 32767 < v then .compact 32767 true
  else .compact v false

/-- The timestamp offset of EXTENDED: Time Base values are subtracted modulo 2^48, and the result saturates
at 32 bits (R78, R183). -/
def timestampOffset (issued stepStart : Time) : Nat := min (issued - stepStart).toNat 4294967295

/-- The format's part of a sample record (R76 to R78). -/
def State.sampleBody (s : State) (format : RecordFormat) (base : Int) (e : InFlight) (x : Exposure)
    (distance : Int) : SampleBody :=
  let items : StandardItems :=
    { zone := e.zone.getD 0, passIndex := e.pass.index, step := e.step.getD 0, distance := distance,
      revolution := e.revolution }
  match format with
  | .raw => .raw x.raw
  | .compact => compactBody distance base
  | .standard => .standard items
  | .extended => .extended items x.raw x.intensity (timestampOffset e.issueTime s.oe.stepStart)

/-- The sample record of an outcome (R75). `e` is the group's first entry. -/
def State.sampleRecord (s : State) (h : Head) (a : ActiveOrder) (e : InFlight) (x : Exposure)
    (cause : RejectCause) : SampleRecord :=
  { head := h, point := e.point, quality := x.quality, cause := cause, revisit := e.pass.kind == .revisit,
    unsettled := s.qu.settle == .unsettled,
    body := s.sampleBody (a.header.format.getD .raw) a.header.compactBase e x (s.corrected h x.raw) }

/-! ## Outcome accounting (R79 to R81) -/

/-- The reason QUALITY alone. -/
def Reasons.ofQuality : Reasons := { Reasons.none with quality := true }

/-- The reasons of a dropped outcome (R81). -/
def Reasons.ofDrop (bad : Bool) : Reasons := { Reasons.none with gap := true, quality := bad }

/-- A candidate for the outcome's point, where it yields one (R81). -/
def outcomeCandidate (h : Head) (e : InFlight) (reasons : Reasons) (s : State) : State :=
  if s.yieldsCandidate e.pass (e.zone.getD 0) then candidate h (e.zone.getD 0) e.point reasons s else s

/-- A sample record for which the buffer has room is taken: the head's pending gap is taken before it, and the
sample after it all the same, so the count may reach 1,017 (R79, R152). -/
def stageSample (h : Head) (r : SampleRecord) (s : State) : State :=
  if s.hasRoom (.sample r) then joinRecord (.sample r) (offerGap h s) else s

/-- A sample refused for lack of room: the record is discarded, the drop flag and OUTPUT_LOSS set, the
outcome counted dropped, the head's pending gap extended, and the candidate handed by the port (R79, R81,
R152, R155). -/
def dropSample (h : Head) (e : InFlight) (bad : Bool) (s : State) : State :=
  let s := setNotice .outputLoss { s with sb := { s.sb with dropFlag := true } }
  let s := s.onCounts fun c => { c with dropped := c.dropped + 1 }
  outcomeCandidate h e (.ofDrop bad) (dropPoint h e.point e.pass (e.step.getD 0) s)

/-- A rejected outcome is counted and handed as a candidate (R80, R81). -/
def countRejected (h : Head) (e : InFlight) (s : State) : State :=
  outcomeCandidate h e .ofQuality (s.onCounts fun c => { c with rejected := c.rejected + 1 })

/-- An accepted outcome is counted, and resolves its point on a revisit pass (R80, R81). -/
def countAccepted (e : InFlight) (s : State) : State :=
  let s := s.onCounts fun c => { c with accepted := c.accepted + 1 }
  if e.pass.kind = .revisit then resolution s else s

/-- Steps 4 and 5 of R65 for a NORMAL or REVISIT outcome. -/
def accountOutcome (h : Head) (e : InFlight) (x : Exposure) (cause : RejectCause) (s : State) : State :=
  match s.oe.active with
  | none => s
  | some a =>
    let r := s.sampleRecord h a e x cause
    if cause = .none then
      if s.hasRoom (.sample r) then countAccepted e (stageSample h r s) else dropSample h e false s
    else if a.header.flags.keepRejected then
      if s.hasRoom (.sample r) then countRejected h e (stageSample h r s) else dropSample h e true s
    else countRejected h e s

/-- A REFERENCE outcome is handed to the Reference Check Unit (R82, R103). -/
def referenceOutcome (h : Head) (good : Bool) (value : Int) (s : State) : State :=
  s.onHeadRef h fun r =>
    if r.passage = .opened ∧ good = true then
      { r with tally := { r.tally with good := r.tally.good + 1, sum := r.tally.sum + value } }
    else r

/-- Steps 1 to 5 of the handling of one outcome (R65). `e` is the first entry of the group and `xs` its
exposures in ordinal order. -/
def qualify (h : Head) (e : InFlight) (xs : List Exposure) (s : State) : State :=
  let x := chosenExposure xs
  let cause := judge x e.floor
  let bad := cause != .none
  let s := pulse h (if bad then .outcomeBad else .outcomeGood) s
  if e.pass.kind = .reference then
    referenceOutcome h (!bad) ((s.qu.heads.get h).table.correct x.raw) s
  else accountOutcome h e x cause (s.onQual h fun q => q.counted bad)

/-! ## Settings the Order Engine gives (R72, R83) -/

/-- A head's counters at LOADING and at a step restart (R83). -/
def HeadQual.cleared (q : HeadQual) : HeadQual := { q with blank := 0, filter := 0, classInUse := none }

/-- The counters of the heads of the order's mask are cleared (R83). -/
def clearCounters (s : State) : State :=
  forHeads (fun h s => if s.mask.get h then s.onQual h HeadQual.cleared else s) s

/-- The step settle state is given to the Qualifier (R75, R119). -/
def setSettle (x : SettleState) (s : State) : State := { s with qu := { s.qu with settle := x } }

end Sys2Proof.Machine
end

