-- ==== Sys2Proof/Machine/SpanOps.lean ====
section
/-! DEFINITION. The Span and Fixture Interface's own operations (07): taken levels, the step handshake and the fixture comparison. -/

namespace Sys2Proof.Machine

/-- A taken level changes: the line takes the other level (R113). -/
def Span.toggled (f : Span) (l : Line) : Span :=
  match l with
  | .wait n => { f with w := f.w ^^^ (1#4 <<< n.val) }
  | .fixture n => { f with f := f.f ^^^ (1#8 <<< n.val) }

/-- A wait line is active: high under ACTIVE_HIGH, low under ACTIVE_LOW (R114). -/
def Span.active (f : Span) (c : SpanConfig) (n : Fin 4) : Bool := f.w.getLsbD n.val != c.polarity.getLsbD n.val

/-- The settle line is active; it is inactive before a configuration is held. -/
def Span.settleActive (f : Span) : Bool :=
  match f.config with
  | some c => f.active c c.settleLine
  | none => false

/-- A line is the settle line. -/
def Span.isSettleLine (f : Span) (l : Line) : Bool :=
  match l, f.config with
  | .wait n, some c => n == c.settleLine
  | _, _ => false

/-- A line is in the fixture mask (R121). -/
def Span.isWatched (f : Span) (l : Line) : Bool :=
  match l, f.config with
  | .fixture n, some c => c.fixtureMask.getLsbD n.val
  | _, _ => false

/-- The watched lines match: every one equals its compare level (R121). -/
def Span.matched (f : Span) : Bool :=
  match f.config with
  | some c => (f.f ^^^ c.fixtureCompare) &&& c.fixtureMask == 0
  | none => true

/-- The period of the settle timer in µs: (settle limit + 1) × 10 ms (R115). -/
def Span.settlePeriod (f : Span) : Nat := ((f.config.map (·.settleLimit)).getD 0 + 1) * 10000

/-- The acknowledge: STEP_REQ deasserted, SETTLING (R116). -/
def Span.acknowledged (f : Span) : Span := { f with handshake := .settling, stepReq := false }

/-- A step request taken at `now`, acknowledged at once when the settle line is inactive (R115). -/
def Span.requested (f : Span) (now : Time) : Span :=
  let g : Span :=
    { f with handshake := .requesting, stepReq := true, requestTime := now,
             settleTimer := .running now f.settlePeriod }
  if f.settleActive then g else g.acknowledged

/-- The handshake ends or is cancelled: STEP_REQ deasserted, the timer stopped, IDLE (R117, R118, R120). -/
def Span.handshakeIdle (f : Span) : Span :=
  { f with handshake := .idle, stepReq := false, settleTimer := .stopped }

/-- The fixture capture is taken (R124). -/
def Span.captured (f : Span) : Span := { f with capture := f.f }

/-- The fixture side stands in a phase, its timer stopped. -/
def Span.inPhase (f : Span) (p : FixturePhase) : Span := { f with fixture := p, fixtureTimer := .stopped }

/-- Handshake and fixture phase ended (R120, R122, R123, R125). -/
def Span.ended (f : Span) : Span := f.handshakeIdle.inPhase .off

/-- The Span and Fixture Interface changed. -/
def State.onSpan (s : State) (g : Span → Span) : State := { s with sf := g s.sf }

end Sys2Proof.Machine
end

