-- ==== Sys2Proof/Machine/OrderOps.lean ====
section
/-! DEFINITION. The Order Engine's operations inside an order (08.3 to 08.8): markers, CLOSING, end conditions, the step loop, the revisit decisions, light waits and LOADING. -/

namespace Sys2Proof.Machine

/-! ## Updates of the engine -/

/-- The Order Engine changed. -/
def State.onOrder (s : State) (f : OrderEngine → OrderEngine) : State := { s with oe := f s.oe }

/-- The engine enters a state. -/
def enterEngine (e : EngineState) (s : State) : State := s.onOrder fun o => { o with engine := e }

/-- A marker record that the Staging Buffer refuses is kept as the held marker (R134). -/
def holdMarker (r : Record) (s : State) : State := s.onOrder fun o => { o with marker := some r }

/-- A completion flag or count of the order changed. -/
def State.onFlags (s : State) (f : CompletionFlags → CompletionFlags) : State :=
  s.onOrder fun o => { o with flags := f o.flags }

/-- The address of the active Order Block: the chain position (R130). -/
def State.block (s : State) : Addr := s.oe.chain.getD 0

/-! ## The marker records (R134, R137, R139, R141) -/

/-- The ORDER-begin record of the active order (R134). -/
def State.orderBeginRecord (s : State) (a : ActiveOrder) : Record :=
  .orderBegin
    { kind := a.header.kind.getD .scan, tag := a.header.tag, mask := a.header.mask,
      format := a.header.format.getD .raw, stepCount := a.header.stepCount,
      revolutions := a.header.revolutions, revisitLimit := a.header.revisitLimit, flags := a.header.flags,
      time := s.oe.startTime, revolution := s.oe.startRevolution }

/-- The end slot of an order whose end is decided; COMPLETE for an empty one. -/
def State.slot (s : State) : EndSlot := s.oe.endSlot.getD ⟨.complete, 0⟩

/-- The ORDER-end record (R134), with the time and the revolution number of its offer (log 46). -/
def State.orderEndRecord (s : State) : Record :=
  .orderEnd
    { tag := s.oe.activeTag, status := s.slot.reason.terminal, reason := s.slot.reason, detail := s.slot.detail,
      time := s.xe.time, revolution := s.tracker.revolution }

/-- A STEP-begin record with the step's settle state and settle time, as it stands now (R137, R141). -/
def State.stepBeginRecord (s : State) (a : ActiveOrder) (restart : Bool) : StepBeginRecord :=
  { tag := a.header.tag, step := s.oe.stepIndex, position := a.header.position s.oe.stepIndex,
    settle := s.oe.settle, settleTime := s.oe.settleTime, restart := restart, time := s.xe.time,
    revolution := s.tracker.revolution }

/-- The STEP-end record (R139). -/
def State.stepEndRecord (s : State) : Record :=
  .stepEnd
    { tag := s.oe.activeTag, step := s.oe.stepIndex, time := s.xe.time, revolution := s.tracker.revolution,
      unresolved := s.ru.unresolvedStaged, restarts := s.oe.stepRestarts }

/-! ## CLOSING (R143, R145) -/

/-- A held marker at the entry to CLOSING: a STEP-begin record is discarded, a RESTART record included; an
ORDER-begin or STEP-end record is kept (R137, R139, R143). -/
def keptMarker : Option Record → Option Record
  | some (.stepBegin _) => none
  | m => m

/-- Stage 1 of CLOSING: the ORDER-begin record is staged if it has not been; a held one is waited for
(R145). -/
def openClosing (s : State) : State :=
  if s.oe.beginTaken then s.onOrder fun o => { o with stage := .drain }
  else
    match s.oe.marker, s.oe.active with
    | none, some a =>
      if s.hasRoom (s.orderBeginRecord a) then
        takeRecord (s.orderBeginRecord a) (s.onOrder fun o => { o with stage := .drain, beginTaken := true })
      else holdMarker (s.orderBeginRecord a) s
    | _, _ => s

/-- A head's reference record at the entry to CLOSING: an open passage ends without a verdict, and the record
is disarmed (R38, R104). -/
def closePassage (h : Head) (s : State) : State := disarmRef h (endPassage h s)

/-- The mode of the Reference Check Unit becomes OFF (R101). -/
def referenceOff (s : State) : State := { s with rc := { s.rc with mode := .off } }

/-- The Order Engine enters CLOSING with an end slot, and the blocks act on it (R143, R38, R101, R120 to
R123). -/
def enterClosing (slot : EndSlot) (s : State) : State :=
  let s := s.onOrder fun o =>
    { o with engine := .closing, endSlot := some slot, stage := .orderBegin, interrupting := false,
             marker := keptMarker o.marker }
  openClosing (forHeads closePassage (referenceOff ((disarmScans s).onSpan Span.ended)))

/-- An end condition is given to the Order Engine: the first of an order in a state from LOADING to
LIGHT_WAIT fills the end slot and starts CLOSING, with the revisit lists emptied; any other decides nothing
(R142, R143, R98). -/
def endCondition (slot : EndSlot) (s : State) : State :=
  if s.oe.engine.running && s.oe.endSlot.isNone then enterClosing slot (emptyLists .idle s) else s

/-- The ports' part of an ABORT: scan entries marked and counted, and the pending gaps offered (R55). -/
def abortPorts (s : State) : State := offerGaps (forHeads abandonScan s)

/-- Every port is drained of scan triggers (R53). -/
def State.drained (s : State) : Bool := Head.all.all fun h => (s.ports.get h).drained

/-- A head's REFERENCE record is held (R108). -/
def State.referenceHeld (s : State) : Bool := Head.all.any fun h => (s.rc.heads.get h).held.isSome

/-- Stage 2 of CLOSING has nothing left to wait for (R145). -/
def State.drainComplete (s : State) : Bool :=
  s.oe.engine == .closing && s.oe.stage == .drain && s.oe.marker.isNone && s.drained && !s.referenceHeld

/-- Stage 3: the ORDER-end record is offered; stage 4 begins when it is taken (R145). -/
def offerOrderEnd (s : State) : State :=
  if s.hasRoom s.orderEndRecord then
    takeRecord s.orderEndRecord (s.onOrder fun o => { o with stage := .records, marker := none })
  else holdMarker s.orderEndRecord s

/-- The end of stage 2: each head's pending gap is offered, then the ORDER-end record (R145). -/
def completeDrain (s : State) : State :=
  offerOrderEnd (offerGaps (s.onOrder fun o => { o with stage := .orderEnd }))

/-- The end of stage 2 is taken when it has come. -/
def settleDrain (s : State) : State := if s.drainComplete then completeDrain s else s

/-- Stage 6: the completion fields are written (R146). -/
def beginCompletion (s : State) : State :=
  beginWrite .completion
    (completionWrites s.block s.slot s.oe.flags s.rw.overflow s.oe.counts s.sf.capture s.rw.segments s.xe.time
      s.tracker.revolution)
    (s.onOrder fun o => { o with stage := .completion, doing := .completion })

/-- Every record of the order up to and including its ORDER-end record has been written, with the fill
covering them: stage 4 has ended (R163, R145). -/
def State.recordsWritten (s : State) : Bool :=
  s.oe.engine == .closing && s.oe.stage == .records
    && !s.sb.staged.any fun x => match x.record with
      | .orderEnd _ => true
      | _ => false

/-- Stage 4 has ended: with CLOSE_AT_END the FILLING segment is closed first, if there is one (R163, R145). -/
def endRecords (s : State) : State :=
  match s.oe.active.map (·.header.flags.closeAtEnd), s.rw.filling with
  | some true, some g => beginClose .orderEnd g (s.onOrder fun o => { o with stage := .segment })
  | _, _ => writerNext (beginCompletion s)

/-! ## The step loop (R137 to R139) -/

/-- The Order Engine enters STEP_MOVE and makes the step request (R137, R115). -/
def enterStepMove (s : State) : State :=
  (s.onOrder fun o => { o with engine := .stepMove, stepRestarts := 0 }).onSpan fun f => f.requested s.xe.time

/-- The Order Engine enters LIGHT_WAIT, at which the scan records are disarmed (R140, R38). -/
def enterLightWait (interrupting : Bool) (s : State) : State :=
  disarmScans (s.onOrder fun o => { o with engine := .lightWait, grace := 0, interrupting := interrupting })

/-- An operation for each head of the mask not excluded. -/
def forWorking (f : Head → State → State) (s : State) : State :=
  forHeads (fun h s => if s.inOrder h then f h s else s) s

/-- The order enters ACQUIRING, or LIGHT_WAIT while the light condition is present. In a SCAN order the heads
are armed and the Revisit Unit starts its cycle; a CALIBRATE_REFERENCE order arms no scan record (R138, R140,
R149). -/
def enterAcquiring (s : State) : State :=
  if s.light.present then enterLightWait false s
  else if s.orderKind = some .scan then listsAcquiring (forWorking armNormal (enterEngine .acquiring s))
  else enterEngine .acquiring s

/-- The STEP-begin record has been taken (R137). -/
def stepBeginTaken (time : Time) (s : State) : State :=
  let s := s.onOrder fun o => { o with stepStart := time, marker := none }
  let s := if s.oe.settle = .unsettled then s.onFlags fun f => { f with unsettled := true } else s
  enterAcquiring (setSettle s.oe.settle s)

/-- A handshake has a result: the STEP-begin record is offered (R137, R119). -/
def handshakeResult (x : SettleState) (settleTime : Nat) (s : State) : State :=
  match s.oe.active with
  | none => s
  | some a =>
    let s := s.onOrder fun o => { o with settle := x, settleTime := settleTime }
    let r := s.stepBeginRecord a false
    if s.hasRoom (.stepBegin r) then stepBeginTaken r.time (takeRecord (.stepBegin r) s)
    else holdMarker (.stepBegin r) s

/-- The STEP-end record has been taken: the step is completed, the Status Page written, and the next step or
CLOSING entered; a record kept into CLOSING completes its step and nothing else (R139). -/
def stepEndTaken (s : State) : State :=
  let s := s.onCounts fun c => { c with stepsCompleted := c.stepsCompleted + 1 }
  let s := requestPage (s.onOrder fun o => { o with marker := none })
  let s := s.onOrder fun o => { o with stepIndex := o.stepIndex + 1 }
  if s.oe.engine = .closing then s
  else if s.oe.stepIndex < (s.oe.active.map (·.header.stepCount)).getD 0 then enterStepMove s
  else enterClosing ⟨.complete, 0⟩ s

/-- The STEP-end record is offered (R139). -/
def offerStepEnd (s : State) : State :=
  if s.hasRoom s.stepEndRecord then stepEndTaken (takeRecord s.stepEndRecord s) else holdMarker s.stepEndRecord s

/-! ## Step close (R94 to R96) -/

/-- The number of points of an entry of the lists. -/
def State.pointsOf (s : State) (e : Entry) : Nat :=
  match s.tg.zones with
  | some t => entryPoints s.cpr t e
  | none => 0

/-- The UNRESOLVED GAP record of an entry (R94). -/
def State.unresolvedRecord (s : State) (e : Entry) : GapRecord :=
  let pass : PassId := if e.attempts = 0 then ⟨.normal, s.revolutions - 1⟩ else ⟨.revisit, e.attempts⟩
  { head := e.head, reason := .unresolved, step := s.oe.stepIndex, zone := e.zone, firstPass := pass,
    lastPass := pass, causes := e.reasons, attempts := e.attempts, first := e.first, last := e.last,
    count := s.pointsOf e }

/-- The lists are closed and the STEP-end record is offered (R96, R139). -/
def listsClosed (s : State) : State :=
  let s := { s with ru := { s.ru with current := [], round := 0, phase := .idle } }
  offerStepEnd (if 0 < s.ru.unresolvedStaged then s.onFlags fun f => { f with unresolved := true } else s)

/-- An UNRESOLVED record is taken: counted, and its entry removed from the next list (R95). -/
def takeUnresolved (r : GapRecord) (rest : List Entry) (s : State) : State :=
  takeRecord (.gap r)
    ({ s with ru := { s.ru with next := rest, held := none,
                                unresolvedStaged := s.ru.unresolvedStaged + 1 } }.onCounts fun c =>
      { c with unresolved := c.unresolved + r.count })

/-- The UNRESOLVED records of the entries left are offered one after another; one that is refused is held
(R95). -/
def stageUnresolved : List Entry → State → State
  | [], s => listsClosed s
  | e :: es, s =>
    if s.hasRoom (.gap (s.unresolvedRecord e)) then
      stageUnresolved es (takeUnresolved (s.unresolvedRecord e) es s)
    else { s with ru := { s.ru with held := some (s.unresolvedRecord e) } }

/-- The decision is step close (R90, R95). -/
def enterStepClose (s : State) : State :=
  stageUnresolved s.ru.next (enterEngine .stepClose { s with ru := { s.ru with phase := .closing } })

/-! ## Rounds (R90 to R93) -/

/-- An entry's head is not excluded from the order. -/
def State.isWorking (s : State) (e : Entry) : Bool := !s.oe.excluded.get e.head

/-- A round starts: the next list's entries of heads not excluded move to the current list, their heads are
awaited and armed (R91, R33). -/
def startRound (s : State) : State :=
  let current := s.ru.next.filter s.isWorking
  let awaited : HeadSet := .of fun h => current.any fun e => e.head == h
  let s := { s with ru := { s.ru with
    current := current, next := s.ru.next.filter (fun e => !s.isWorking e), round := s.ru.round + 1,
    phase := .round, awaited := awaited } }
  forHeads (fun h s => if awaited.get h then armRevisit s.ru.round h s else s) (enterEngine .revisiting s)

/-- The decision of R90. -/
def roundDecision (s : State) : State :=
  if s.ru.round < (s.oe.active.map (·.header.revisitLimit)).getD 0 ∧ s.ru.next.any s.isWorking = true then
    startRound s
  else enterStepClose s

/-- A head's series is complete: its record is DONE and its list holds no trigger of the series (R31). -/
def State.seriesComplete (s : State) (h : Head) : Bool :=
  (s.tg.heads.get h).seriesOpen && (s.scan h).state == .done
    && !((s.ports.get h).inFlight.any fun e => !e.abandoned && e.pass.kind == (s.scan h).pass.kind)

/-- A head's series has completed and is reported (R31, R93). -/
def closeSeries (h : Head) (s : State) : State :=
  unawait h (s.onPasses h fun p => { p with seriesOpen := false })

/-- A head's series completion is taken when it has come. -/
def settleSeries (h : Head) (s : State) : State := if s.seriesComplete h then closeSeries h s else s

/-- ACQUIRING, or a revisit round, has ended: no armed head's series is open (R31, R93). -/
def State.passesEnded (s : State) : Bool :=
  match s.oe.engine with
  | .acquiring => s.orderKind == some .scan && Head.all.all fun h => !(s.tg.heads.get h).seriesOpen
  | .revisiting => s.ru.awaited.members.isEmpty
  | _ => false

/-- The end of ACQUIRING or of a round: the current list is emptied and the decision made (R90, R93). -/
def endPasses (s : State) : State := roundDecision { s with ru := { s.ru with current := [] } }

/-! ## Light waits and restarts (R140, R141) -/

/-- The light condition becoming present reaches the Order Engine: in ACQUIRING or REVISITING it enters
LIGHT_WAIT. In a SCAN order that interrupts the step (R140, R149). -/
def lightLost (s : State) : State :=
  match s.oe.engine with
  | .acquiring | .revisiting => enterLightWait (s.orderKind == some .scan) s
  | _ => s

/-- LIGHT_WAIT can be left (R141). -/
def State.waitEnded (s : State) : Bool :=
  s.oe.engine == .lightWait && s.oe.marker.isNone && !s.light.present
    && s.workingHeads.all fun h => (s.ports.get h).state != .waking && (s.ports.get h).state != .forcedOff

/-- The RESTART record has been taken: the restart is counted, lists and counters are reset, and the passes
are armed again (R141, R97, R83). The order enters LIGHT_WAIT again where the light condition stands present at
this event, whatever it did while the record was held (log 47). -/
def restartTaken (time : Time) (s : State) : State :=
  let s := s.onOrder fun o =>
    { o with stepStart := time, restarts := o.restarts + 1, stepRestarts := o.stepRestarts + 1, marker := none }
  let s := (s.onCounts fun c => { c with stepRestarts := c.stepRestarts + 1 }).onFlags fun f =>
    { f with restarted := true }
  enterAcquiring (setSettle s.oe.settle (clearCounters (listsAcquiring (disarmScans s))))

/-- LIGHT_WAIT is left: back to ACQUIRING, with a restart when the wait interrupted the step; a third restart
is LIGHT_LOST (R141). -/
def departLightWait (s : State) : State :=
  if !s.oe.interrupting then enterAcquiring s
  else if s.oe.restarts < Config.restartRoom then
    match s.oe.active with
    | none => s
    | some a =>
      let r := s.stepBeginRecord a true
      if s.hasRoom (.stepBegin r) then restartTaken r.time (takeRecord (.stepBegin r) s)
      else holdMarker (.stepBegin r) s
  else endCondition ⟨.lightLost, 0⟩ s

/-! ## ARMING (R136, R121) -/

/-- The mode the Reference Check Unit takes at the end of ARMING (R101). -/
def State.referenceMode (s : State) : RefMode :=
  match s.oe.active with
  | none => .off
  | some a =>
    match a.header.kind with
    | some .scan => if a.header.flags.referenceChecks then .checking else .off
    | some .calibrateReference => .calibrating
    | _ => .off

/-- The calibration tally of a head cleared (R109). -/
def HeadRef.calCleared (r : HeadRef) : HeadRef := { r with calDone := 0, calTally := .zero }

/-- ARMING ends: the Reference Check Unit takes its mode, and the order enters STEP_MOVE for step 0, or
ACQUIRING (R136, R149, R109). -/
def endArming (s : State) : State :=
  let s := { s with rc := { s.rc with mode := s.referenceMode } }
  if s.orderKind = some .scan then enterStepMove s
  else enterAcquiring (forHeads (fun h s => if s.mask.get h then s.onHeadRef h HeadRef.calCleared else s) s)

/-- The match request of R121, with the fixture wait. -/
def matchRequest (s : State) : State :=
  let wait := (s.sf.config.map (·.fixtureWait)).getD 0
  if s.sf.matched then endArming (s.onSpan fun f => f.captured.inPhase .watching)
  else if wait = 0 then endCondition ⟨.fixtureTimeout, 0⟩ (s.onSpan fun f => f.captured.inPhase .off)
  else
    s.onSpan fun f =>
      { f.inPhase .matching with fixtureTimer := .running s.xe.time (wait * 100000) }

/-- The order enters ARMING (R136). -/
def enterArming (s : State) : State :=
  let s := enterEngine .arming s
  if ((s.oe.active.map (·.header.flags.checkFixture)).getD false) then matchRequest s else endArming s

/-! ## LOADING (R134, R147, R148) -/

/-- A replacement changes the exposure codes or the response timeout (R148). -/
def changesWake (old : Option HeadConfig) (new : HeadConfig) : Bool :=
  match old with
  | some c => c.codes != new.codes || c.timeout != new.timeout
  | none => true

/-- A replacement record is installed in its port, and the head woken where its codes or its timeout change
(R148). -/
def installReplacement (hd : OrderHeader) (h : Head) (s : State) : State :=
  if hd.replaceMask.get h then
    let new := hd.replacement h
    let wake := changesWake (s.ports.get h).config new
    let s := s.onPort h fun p => { p with config := some new }
    if wake then wakeHead h (s.onOrder fun o => { o with rewoken := o.rewoken.set h true }) else s
  else s

/-- The ORDER-begin record has been taken in LOADING: ARMING, CLOSING with COMPLETE for a MARK order, or the
installation of a SETTINGS order's records (R134, R147, R148). -/
def orderBeginTaken (s : State) : State :=
  let s := s.onOrder fun o => { o with marker := none, beginTaken := true }
  match s.oe.active with
  | none => s
  | some a =>
    match a.header.kind with
    | some .mark => enterClosing ⟨.complete, 0⟩ s
    | some .settings => forHeads (installReplacement a.header) s
    | _ => enterArming s

/-- The ORDER-begin record is offered in LOADING (R134). -/
def offerOrderBegin (s : State) : State :=
  match s.oe.active with
  | none => s
  | some a =>
    if s.hasRoom (s.orderBeginRecord a) then orderBeginTaken (takeRecord (s.orderBeginRecord a) s)
    else holdMarker (s.orderBeginRecord a) s

/-- No wake of a set of heads remains outstanding: none of them is WAKING (R134, R148; log 14). -/
def State.noWakeOf (s : State) (m : HeadSet) : Bool :=
  m.members.all fun h => (s.ports.get h).state != .waking

/-- LOADING can end: no wake the order waits for is outstanding (R134, R148). -/
def State.loadingEnded (s : State) : Bool :=
  s.oe.engine == .loading && s.oe.marker.isNone
    && (match s.orderKind with
      | some .settings => s.oe.beginTaken && s.noWakeOf s.oe.rewoken
      | some .scan | some .calibrateReference => !s.oe.beginTaken && s.noWakeOf s.mask
      | _ => false)

/-- LOADING ends: HEADS_LOST when every head of the mask is excluded, the ORDER-begin record otherwise; a
SETTINGS order is COMPLETE (R134, R148). -/
def endLoading (s : State) : State :=
  if s.orderKind = some .settings then enterClosing ⟨.complete, 0⟩ s
  else if s.workingHeads.isEmpty then endCondition ⟨.headsLost, 0⟩ s
  else offerOrderBegin s

/-- The correction tables of the heads of the mask are installed (R72). -/
def installTables (a : ActiveOrder) (s : State) : State :=
  forHeads (fun h s =>
    if a.header.mask.get h then s.onQual h fun q => { q with table := a.tables.get h } else s) s

/-- The wakes of LOADING: each head of the mask that is OFF or FAULT (R134). -/
def loadingWake (h : Head) (s : State) : State :=
  match (s.ports.get h).state with
  | .off | .fault => if s.mask.get h then wakeHead h s else s
  | .waking | .ready | .forcedOff => s

/-- An order has passed its checks and enters LOADING (R134; R18, R72, R83, R101, R124, R157, R165). -/
def enterLoading (a : ActiveOrder) (s : State) : State :=
  let s := s.onOrder fun o =>
    { o with
      engine := .loading, active := some a, stepIndex := 0, restarts := 0, stepRestarts := 0,
      excluded := .all false, endSlot := none, abortMark := false, abortPending := false, counts := .zero,
      flags := .clear, marker := none, beginTaken := false, interrupting := false, rewoken := .all false,
      startTime := s.xe.time, startRevolution := s.tracker.revolution, activeTag := a.header.tag }
  let s := beginWrite .loading (loadingWrites s.block s.xe.time s.tracker.revolution) s
  let s : State :=
    { s with
      tg := { s.tg with zones := a.zones }
      sf := { s.sf with capture := 0 }
      sb := { s.sb with dropFlag := false, stallCount := 0 }
      rw := { s.rw with segments := [], overflow := false }
      rc := { s.rc with heads := s.rc.heads.map fun r => { r with due := 0 } } }
  match a.header.kind with
  | some .scan | some .calibrateReference => forHeads loadingWake (clearCounters (installTables a s))
  | _ => offerOrderBegin s

/-! ## Exclusion and faults of a head (R45, R135) -/

/-- A head of the order is to be excluded at its entry to FAULT (R135). -/
def State.excludes (s : State) (h : Head) : Bool :=
  s.oe.engine.running && s.oe.endSlot.isNone && s.inOrder h
    && (s.orderKind == some .scan || s.orderKind == some .calibrateReference)

/-- A head is excluded from the order, and the blocks act on it; with the last head of the mask the order
ends HEADS_LOST (R135). -/
def excludeHead (h : Head) (s : State) : State :=
  let s := s.onOrder fun o => { o with excluded := o.excluded.set h true }
  let s := unawait h (excludeScan h s)
  if s.workingHeads.isEmpty then endCondition ⟨.headsLost, 0⟩ s else s

/-- A head enters FAULT with its record: the list emptied where it left READY, HEAD_FAULT set, an open
passage ended, the head excluded from an order that names it (R45, R135). -/
def headFault (h : Head) (r : FaultRecord) (s : State) : State :=
  let s := if (s.ports.get h).state = .ready then leaveReady h true s else s
  let s := endWake h (s.onPort h fun p => { p with state := .fault, faultRecord := r, wakeTimer := .stopped })
  let s := setNotice .headFault s
  if s.excludes h then excludeHead h s else s

end Sys2Proof.Machine
end

