-- ==== Sys2Proof/Machine/ReferenceOps.lean ====
section
/-! DEFINITION. The Reference Check Unit's operations (06): requests, completed passages, verdicts and their effect, and the judgement of a calibration. -/

namespace Sys2Proof.Machine

/-! ## Requests (R102, R109) -/

/-- The mode's own condition for a request: the due count in CHECKING, the passages done in CALIBRATING, which
is requested only while the order is in ACQUIRING (R102, R109; log 18). -/
def State.requestDue (s : State) (h : Head) : Bool :=
  match s.rc.mode with
  | .off => false
  | .checking =>
    match s.rc.config with
    | some c => decide (c.interval ≤ (s.rc.heads.get h).due)
    | none => false
  | .calibrating => s.oe.engine == .acquiring && decide ((s.rc.heads.get h).calDone < s.revolutions)

/-- A reference passage is to be requested for a head (R102, R109). -/
def State.requests (s : State) (h : Head) : Bool :=
  s.requestDue h && (s.rc.heads.get h).passage == .idle && (s.ports.get h).state == .ready && s.inOrder h

/-- A reference passage is requested: the record armed, the tally cleared, the passage OPEN (R102). -/
def requestPassage (h : Head) (s : State) : State :=
  armReference h (s.onHeadRef h fun r => { r with passage := .opened, tally := .zero, endTaken := false })

/-- A request is made when its conditions hold. -/
def settleRequest (h : Head) (s : State) : State := if s.requests h then requestPassage h s else s

/-! ## Verdicts (R105 to R107, R110) -/

/-- The mean of a tally: floor(sum / good), or 0 without a good outcome (R105). -/
def Tally.mean (t : Tally) : Int := if t.good = 0 then 0 else t.sum / (t.good : Int)

/-- A tally is too sparse to be judged (R105, R110). -/
def Tally.sparse (t : Tally) : Bool := decide (t.good * 2 < t.triggers)

/-- The verdict of a checking passage (R105). -/
def checkVerdict (t : Tally) (valid : Bool) (nominal : Int) (limit : Nat) : Verdict :=
  if !valid then .noNominal
  else if t.sparse then .sparse
  else if limit < (t.mean - nominal).natAbs then .overLimit
  else .ok

/-- The drift term after a verdict of a checking passage (R105). -/
def checkDrift (t : Tally) (v : Verdict) (nominal drift : Int) : Int :=
  match v with
  | .noNominal => 0
  | .overLimit | .ok => t.mean - nominal
  | .sparse | .calibrated | .notApplied => drift

/-- A REFERENCE record formed now (R106). -/
def State.referenceRecord (s : State) (h : Head) (v : Verdict) (t : Tally) (nominal drift : Int) :
    ReferenceRecord :=
  { head := h, verdict := v, step := s.stepOfPass, triggers := t.triggers, good := t.good, mean := t.mean,
    nominal := nominal, drift := drift, revolution := s.tracker.revolution, time := s.xe.time }

/-- The record of a completed checking passage (R105, R106). -/
def State.checkRecord (s : State) (h : Head) : ReferenceRecord :=
  let r := s.rc.heads.get h
  let v := checkVerdict r.tally r.nominalValid r.nominal ((s.rc.config.map (·.driftLimit)).getD 0)
  s.referenceRecord h v r.tally r.nominal (checkDrift r.tally v r.nominal r.drift)

/-- What a taken REFERENCE record makes of its head's state (R107, R110). -/
def HeadRef.verdictTaken (r : HeadRef) (x : ReferenceRecord) : HeadRef :=
  let r := { r.passageIdle with held := none }
  match x.verdict with
  | .ok | .overLimit | .noNominal => { r with drift := x.drift, due := 0 }
  | .calibrated => { r with nominal := x.nominal, nominalValid := true, drift := x.drift }
  | .sparse | .notApplied => r

/-- The notice, flag or end condition of an OVER_LIMIT verdict (R107). -/
def overLimitTaken (h : Head) (s : State) : State :=
  let s := setNotice .drift s
  if s.rc.config.map (·.driftAction) = some DriftAction.fail then endCondition ⟨.driftLimit, h.num⟩ s
  else s.onFlags fun f => { f with driftWarned := true }

/-- A REFERENCE record has been taken by the buffer: its verdict takes effect (R106, R107). -/
def applyVerdict (x : ReferenceRecord) (s : State) : State :=
  let s := s.onHeadRef x.head fun r => r.verdictTaken x
  if x.verdict = .overLimit then overLimitTaken x.head s else s

/-- A REFERENCE record is offered: taken with its effect, or held with the passage state HELD (R106). -/
def offerReference (x : ReferenceRecord) (s : State) : State :=
  if s.hasRoom (.reference x) then applyVerdict x (takeRecord (.reference x) s)
  else s.onHeadRef x.head fun r => { r with held := some x, passage := .held }

/-! ## Completed passages (R104, R109) -/

/-- A head's passage is complete: its end taken and no REFERENCE entry in its list (R104). -/
def State.passageComplete (s : State) (h : Head) : Bool :=
  let r := s.rc.heads.get h
  r.passage == .opened && r.endTaken && !(s.ports.get h).hasReference && s.rc.mode != .off

/-- The tallies added up (R109). -/
def Tally.plus (a b : Tally) : Tally :=
  { triggers := a.triggers + b.triggers, good := a.good + b.good, sum := a.sum + b.sum }

/-- A completed passage of a calibration is added to the head's calibration tally (R109). -/
def HeadRef.calAdded (r : HeadRef) : HeadRef :=
  { r.passageIdle with calDone := r.calDone + 1, calTally := r.calTally.plus r.tally }

/-- A completed passage: its verdict in CHECKING, its tally in CALIBRATING (R105, R109). -/
def completePassage (h : Head) (s : State) : State :=
  match s.rc.mode with
  | .checking => offerReference (s.checkRecord h) s
  | .calibrating => s.onHeadRef h HeadRef.calAdded
  | .off => s

/-- The passages that are complete are completed, in an order the spec leaves open (R106). -/
def settlePassages (s : State) : State := forFree (Head.all.filter s.passageComplete) completePassage s

/-! ## The judgement of a calibration (R110) -/

/-- The heads that have made their passages, in ascending number: the heads judged (R110). -/
def State.judgedHeads (s : State) : List Head :=
  Head.all.filter fun h => s.mask.get h && decide (s.revolutions ≤ (s.rc.heads.get h).calDone)

/-- The measurement of a CALIBRATE_REFERENCE order is finished: no end condition has cut it short, and every head of
the mask has made its passages or is excluded, be the order in ACQUIRING or in LIGHT_WAIT (R110). -/
def State.measured (s : State) : Bool :=
  s.oe.engine.running && s.rc.mode == .calibrating
    && Head.all.all fun h =>
      !s.mask.get h || s.oe.excluded.get h || decide (s.revolutions ≤ (s.rc.heads.get h).calDone)

/-- The record of a judged head; `short` says that some judged head is short (R110). -/
def State.calibrationRecord (s : State) (short : Bool) (h : Head) : ReferenceRecord :=
  let r := s.rc.heads.get h
  if r.calTally.sparse then s.referenceRecord h .sparse r.calTally r.nominal r.drift
  else if short then s.referenceRecord h .notApplied r.calTally r.nominal r.drift
  else s.referenceRecord h .calibrated r.calTally r.calTally.mean 0

/-- The calibration is judged: one record for each judged head, then CLOSING with COMPLETE, or end condition
REFERENCE_SPARSE with the first short head (R110, R149). -/
def judgeCalibration (s : State) : State :=
  let heads := s.judgedHeads
  let short := heads.filter fun h => (s.rc.heads.get h).calTally.sparse
  let records := heads.map (s.calibrationRecord !short.isEmpty)
  let s := records.foldl (fun s x => offerReference x s) s
  match short with
  | [] => enterClosing ⟨.complete, 0⟩ s
  | h :: _ => endCondition ⟨.referenceSparse, h.num⟩ s

/-- A held REFERENCE record is granted a freed entry and takes effect (R106, R108). -/
def grantReference (h : Head) (s : State) : State :=
  match (s.rc.heads.get h).held with
  | none => s
  | some x => applyVerdict x (takeRecord (.reference x) s)

end Sys2Proof.Machine
end

