-- ==== Sys2Proof/Machine/UnitOps.lean ====
section
/-! DEFINITION. Unit control and the walk along the chain (08.2, 10.2): parking, holding, the entries to STOPPED and FAULTED, encoder faults, granted entries, index arrivals, and the internal steps taken at the end of an event. -/

namespace Sys2Proof.Machine

/-! ## Following a link (R129, R131, R132) -/

/-- The address of the Chain Anchor (08.2). -/
def State.anchor (s : State) : Addr := s.xbase + 0x400

/-- The link held at an Order Block, or at the anchor, is read: it stands at offset 0 of its holder (R129). -/
def followLink (holder : Addr) (s : State) : State :=
  beginRead .link holder 8 (s.onOrder fun o => { o with engine := .idle, doing := .link holder })

/-- The unit enters HELD (R132); the park point is cleared (log 53). -/
def hold (reason : HeldReason) (point : Addr) (s : State) : State :=
  enterUnit .held
    (setNotice .held
      (s.onOrder fun o =>
        { o with engine := .idle, heldReason := some reason, heldPoint := some point, park := none,
                 recheck := false, abortPending := false }))

/-- The unit parks on a holder; a recheck that finds nothing leaves it PARKED, and makes the further recheck
that is pending (R131). -/
def parkOn (holder : Addr) (s : State) : State :=
  if s.uc.unit = .parked then
    if s.oe.recheck then followLink holder (s.onOrder fun o => { o with recheck := false }) else s
  else
    enterUnit .parked
      (setNotice .parked (s.onOrder fun o => { o with engine := .idle, park := some holder, recheck := false }))

/-- A nudge or an index arrival reaches the Order Engine: while PARKED the park point's link is read again, or
a recheck is kept pending (R131, R170). -/
def parkRecheck (s : State) : State :=
  if s.uc.unit = .parked then
    match s.oe.doing, s.oe.park with
    | .none, some p => followLink p s
    | .none, none => s
    | _, _ => s.onOrder fun o => { o with recheck := true }
  else s

/-! ## Orders before LOADING (R133) -/

/-- The order ends before LOADING: its completion is written whole (R133). -/
def endEarly (slot : EndSlot) (s : State) : State :=
  beginWrite .completion (earlyCompletionWrites s.block slot s.xe.time s.tracker.revolution)
    (s.onOrder fun o => { o with endSlot := some slot, early := true, doing := .completion })

/-- The held record of a head bars its replacement: absent, present flag clear, another present flag or mount
offset, or a field outside its range (R148). -/
def badReplacement (held : Option HeadConfig) (new : HeadConfig) : Bool :=
  match held with
  | none => true
  | some c => !c.present || new.present != c.present || new.mount != c.mount || !new.inRange

/-- The first of checks 1 to 7 that fails (R133). -/
def State.headerCheck (s : State) (hd : OrderHeader) : Option Nat :=
  match hd.kind with
  | none => some 1
  | some k =>
    let scan := k == .scan
    let heads := scan || k == .calibrateReference
    if hd.format = none then some 2
    else if heads && (hd.mask.members.isEmpty || hd.mask.members.any fun h =>
        !((s.ports.get h).config.map (·.present)).getD false) then some 3
    else if scan && (hd.stepCount == 0 || decide (64 < hd.stepCount)) then some 4
    else if heads && (hd.revolutions == 0 || decide (16 < hd.revolutions)) then some 5
    else if scan && decide (4 < hd.revisitLimit) then some 6
    else if k == .settings && (hd.replaceMask.members.any fun h =>
        badReplacement (s.ports.get h).config (hd.replacement h)) then some 7
    else none

/-- The correction tables of the heads left are read one after another, the identity standing for an address
of 0; after the last one the order enters LOADING (R71, R185). -/
def readCorrections (a : ActiveOrder) : List Head → State → State
  | [], s => enterLoading a s
  | h :: hs, s =>
    let addr := a.header.correctionAddr.get h
    if addr = 0 then readCorrections a hs s
    else if aligned addr 8 then
      beginRead .correctionTable addr 1036 (s.onOrder fun o => { o with doing := .correction h })
    else endEarly ⟨.readError, 0x20 + h.num⟩ s

/-- The zone table's header is read, where its address is aligned and not 0 (R18, R185). -/
def readZones (a : ActiveOrder) (s : State) : State :=
  if a.header.zoneAddr ≠ 0 ∧ aligned a.header.zoneAddr 8 = true then
    beginRead .zoneTable a.header.zoneAddr 8 (s.onOrder fun o => { o with doing := .zoneTable })
  else endEarly ⟨.readError, 0x11⟩ s

/-- The heads of a mask after one head, in ascending number. -/
def headsAfter (m : HeadSet) (h : Head) : List Head := m.members.filter fun k => decide (h.num < k.num)

/-! ## Entering STOPPED (R177) -/

/-- The tracker in IDLE: timers stopped, travel count not kept (R16). -/
def Tracker.stopped (t : Tracker) : Tracker :=
  { t with state := .idle, travel := none, homingTimer := .stopped, indexWatch := .stopped }

/-- The tracker in LOST, unless it is IDLE (R13, R16). -/
def Tracker.lost (t : Tracker) : Tracker :=
  if t.state = .idle then t
  else { t with state := .lost, travel := none, homingTimer := .stopped, indexWatch := .stopped }

/-- A head's reference state at the entry to STOPPED (R111). -/
def HeadRef.stopped (r : HeadRef) : HeadRef := { r.passageIdle.calCleared with held := none }

/-- The buffer at the entry to STOPPED (R158). -/
def Staging.stopped (b : Staging) : Staging :=
  { b with staged := [], dropFlag := false, stallCount := 0, discarded := b.staged.length }

/-- Both records of a head disarmed, with nothing offered (R38). -/
def HeadPasses.disarmed (p : HeadPasses) : HeadPasses :=
  { p with scan := p.scan.disarmed, ref := p.ref.disarmed, seriesOpen := false, scanEnded := p.passOver }

/-- The Result Writer at the entry to STOPPED: a FILLING segment is closed with STOP, except after BUS_WRITE;
a close in progress goes on (R168; log 31). -/
def stopWriter (s : State) : State :=
  let t : State := { s with rw := { s.rw with recheck := false, segments := [], overflow := false, target := none } }
  match t.rw.phase with
  | .stoppedByFault => { t with rw := { t.rw with phase := .idle, filling := none } }
  | .closingSegment => t
  | .idle | .taking | .starved | .writing =>
    let t := letGoWriter t
    match t.rw.filling with
    | some g => beginClose .stop g t
    | none => { t with rw := { t.rw with phase := .idle } }

/-- The Order Engine at the entry to STOPPED: IDLE, park and held points cleared, the chain position kept
(R150). -/
def OrderEngine.stopped (o : OrderEngine) : OrderEngine :=
  { o with engine := .idle, park := none, heldPoint := none, heldReason := none, recheck := false,
           abortPending := false, active := none, early := false, marker := none, abortMark := false }

/-- The unit begins its entry to STOPPED, and every block acts on it (R177). The Revisit Unit's lists are emptied
(log 39) and its count of staged UNRESOLVED records is 0 (log 38), and the STOP close begins before the Status
Page write (log 43): the model's choices. -/
def enterStopped (s : State) : State :=
  let s := letGoCell (letGoOrder s)
  let s : State :=
    { s with
      ports := s.ports.map Port.asleep
      tracker := s.tracker.stopped
      tg := { zones := none, heads := s.tg.heads.map HeadPasses.disarmed }
      sf := s.sf.ended
      rc := { s.rc with mode := .off, heads := s.rc.heads.map HeadRef.stopped }
      sb := s.sb.stopped
      ru := .reset
      oe := s.oe.stopped
      uc := { s.uc with stopping := true, fault := none, startWakes := .all false } }
  enterUnit .stopped (stopWriter s)

/-- The entry to STOPPED is complete: the close and the page write have ended (R177). -/
def State.stopComplete (s : State) : Bool :=
  s.uc.stopping && s.uc.unit == .stopped && s.rw.doing == .none && !s.xe.pageBusy && !s.xe.pageQueued

/-- The completion of an entry to STOPPED is taken when it has come. -/
def settleStopped (s : State) : State :=
  if s.stopComplete then { s with uc := { s.uc with stopping := false } } else s

/-! ## Entering FAULTED (R178) -/

/-- Every entry of a port's list bears the abandoned mark (R56). -/
def Port.allMarked (p : Port) : Port := p.marked fun _ => true

/-- The Order Engine at the entry to FAULTED: IDLE, the active copy discarded (R127, R150). -/
def OrderEngine.faulted (o : OrderEngine) : OrderEngine :=
  { o with engine := .idle, recheck := false, abortPending := false, active := none, early := false,
           abortMark := false }

/-- The Revisit Unit at the entry to FAULTED: lists empty, round 0 and IDLE, the model's choice (log 39); a held
record goes on waiting (R167; log 34). -/
def Revisit.faulted (u : Revisit) : Revisit :=
  { u with current := [], next := [], round := 0, phase := .idle, awaited := .all false }

/-- The unit enters FAULTED with a cause, and every block acts on it. A second unit fault sets no new cause
and starts nothing; an encoder fault noted and not yet entered is dropped (R178; log 35). -/
def enterFaulted (c : FaultCause) (s : State) : State :=
  if s.uc.unit = .faulted then s
  else
    let s := letGoCell (letGoOrder s)
    let s := forHeads endPassage (disarmScans s)
    let s : State :=
      { s with
        ports := s.ports.map Port.allMarked
        tracker := s.tracker.lost
        tg := { zones := none, heads := s.tg.heads.map HeadPasses.disarmed }
        sf := s.sf.ended
        rc := { s.rc with mode := .off }
        ru := s.ru.faulted
        oe := s.oe.faulted
        uc := { s.uc with cause := some c, stopping := false, fault := none, startWakes := .all false } }
    enterUnit .faulted (setNotice .unitFault s)

/-- The Result Writer stops by the fault: it makes no further access (R167). -/
def writerStopped (s : State) : State :=
  let s := letGoWriter s
  { s with rw := { s.rw with phase := .stoppedByFault, target := none } }

/-- The Status Page write in progress is let go of, and none is asked for (R178, R179). -/
def letGoPage (s : State) : State :=
  letGo (if s.xe.pageBusy then [.statusPage] else [])
    { s with xe := { s.xe with pageBusy := false, pageQueued := false } }

/-- A BUS_WRITE unit fault: the Result Writer stops, the Exchange Engine writes no Status Page, and the unit
enters FAULTED; taken in FAULTED, it stops the writer alone (R167, R178). An encoder fault that was noted and
still waited to be entered is dropped: the cause recorded is BUS_WRITE (log 35). -/
def busFault (s : State) : State :=
  if s.uc.unit = .faulted then writerStopped s
  else enterFaulted .busWrite (letGoPage (writerStopped s))

/-! ## Encoder faults (R13) -/

/-- The cause code carried as the detail of ENCODER_FAULT (11.2). -/
def encoderSlot (c : FaultCause) : EndSlot := ⟨.encoderFault, c.code⟩

/-- An encoder fault reaches the order and the unit by the Order Engine's state (R13; log 16). -/
def encoderFault (c : FaultCause) (s : State) : State :=
  let s : State := { s with tracker := s.tracker.lost }
  let noted : State := { s with uc := { s.uc with fault := some c } }
  match s.oe.engine with
  | .idle => enterFaulted c s
  | .fetching | .validating | .closing => noted
  | .loading | .arming | .stepMove | .acquiring | .revisiting | .stepClose | .lightWait =>
    endCondition (encoderSlot c) noted

/-! ## After an order (R146) -/

/-- What an ended order leaves to the routing of R146. -/
structure OrderEnd where
  block : Addr
  slot : EndSlot
  early : Bool
  continueOnFail : Bool
  abortMark : Bool
  deriving DecidableEq, Repr

/-- The unit is routed onward after a terminal status (R146, R133, R175; log 16, log 17). -/
def routeOrder (e : OrderEnd) (s : State) : State :=
  match s.uc.fault with
  | some c => enterFaulted c s
  | none =>
    if s.uc.unit = .halting then enterStopped s
    else if e.early = true ∧ e.slot.reason = .readError then hold .readError e.block s
    else if e.slot.reason.terminal = .aborted ∨ e.abortMark = true then hold .orderAborted e.block s
    else if e.slot.reason.terminal = .failed ∧ e.continueOnFail = false then hold .orderFailed e.block s
    else followLink e.block s

/-! ## Granted entries (R153) -/

/-- A held marker has been taken (R134, R137, R139, R141, R145). -/
def markerTaken (r : Record) (s : State) : State :=
  match r with
  | .orderBegin _ =>
    if s.oe.engine = .closing then
      s.onOrder fun o => { o with marker := none, beginTaken := true, stage := .drain }
    else orderBeginTaken s
  | .orderEnd _ => s.onOrder fun o => { o with marker := none, stage := .records }
  | .stepBegin x => if x.restart then restartTaken x.time s else stepBeginTaken x.time s
  | .stepEnd _ => stepEndTaken s
  | .sample _ | .gap _ | .reference _ => s

/-- The producers among which the next freed entry goes to one: the ports that wait, or else the others that
wait (R153). -/
def State.grantable (s : State) : List Producer :=
  match Head.all.filter fun h => (s.ports.get h).waits with
  | [] =>
    (if s.referenceHeld then [.referenceCheck] else []) ++ (if s.ru.held.isSome then [.revisit] else [])
      ++ (if s.oe.marker.isSome then [.orderEngine] else [])
  | hs => hs.map .port

/-- A producer's waiting record is taken (R153). A held UNRESOLVED record is taken as it was formed, and the entry
that leaves the next list is its first one, whatever candidate came while the record was held (log 55). -/
def grantTo (p : Producer) (s : State) : State :=
  match p with
  | .port h => grantPort h s
  | .referenceCheck =>
    match Head.all.find? fun h => (s.rc.heads.get h).held.isSome with
    | some h => grantReference h s
    | none => s
  | .revisit =>
    match s.ru.held with
    | some r => stageUnresolved (s.ru.next.drop 1) (takeUnresolved r (s.ru.next.drop 1) s)
    | none => s
  | .orderEngine =>
    match s.oe.marker with
    | some r => markerTaken r (takeRecord r s)
    | none => s

/-- The buffer has an entry free for any record. -/
def State.entryFree (s : State) : Bool := decide (s.sb.staged.length < Config.bufferRoom)

/-- A freed entry goes to one waiting producer; which of several equals, the spec leaves open (R153). -/
def grantFreed (s : State) : State :=
  if s.entryFree then
    match s.grantable[s.choice s.grantable.length]? with
    | some p => grantTo p (s.chosen s.grantable.length)
    | none => s
  else s

/-! ## Index arrivals (R15, R101, R140, R157) -/

/-- The due count of a head after a scan-direction index arrival: never above interval + 8 (R101). -/
def HeadRef.dueCounted (r : HeadRef) (interval : Nat) : HeadRef := { r with due := min (r.due + 1) (interval + 8) }

/-- Due counting of one head (R101). -/
def countDue (h : Head) (s : State) : State :=
  match s.rc.mode, s.rc.config with
  | .checking, some c => if s.inOrder h then s.onHeadRef h fun r => r.dueCounted c.interval else s
  | _, _ => s

/-- A head's due count stands at interval + 8 in CHECKING (R101). -/
def State.overdue (s : State) (h : Head) : Bool :=
  s.rc.mode == .checking && s.inOrder h
    && (match s.rc.config with
      | some c => decide (c.interval + 8 ≤ (s.rc.heads.get h).due)
      | none => false)

/-- LIGHT_WAIT counts its grace: until the RESTART record has been offered (R140, R141). -/
def State.graceCounts (s : State) : Bool := s.oe.engine == .lightWait && s.oe.marker.isNone

/-- Grace counting (R140). -/
def countGrace (s : State) : State :=
  if s.graceCounts then s.onOrder fun o => { o with grace := o.grace + 1 } else s

/-- The grace count has reached the light grace (R140). -/
def State.graceOver (s : State) : Bool :=
  s.graceCounts && (match s.oe.lightGrace with
    | some g => decide (g ≤ s.oe.grace)
    | none => false)

/-- Output stall counting (R157). -/
def countStall (s : State) : State :=
  if s.oe.engine.running && s.oe.endSlot.isNone then
    { s with sb := { s.sb with
        stallCount := if s.sb.dropFlag then min 255 (s.sb.stallCount + 1) else 0, dropFlag := false } }
  else s

/-- The stall count has reached the output stall limit K, given as its end condition (R157). -/
def State.stalled (s : State) : Option EndSlot :=
  match s.sb.stallLimit with
  | some k => if s.oe.engine.running && decide (k ≤ s.sb.stallCount) then some ⟨.outputStall, k⟩ else none
  | none => none

/-- The end conditions that hold after the counts of an index arrival. -/
def State.indexConditions (s : State) : List EndSlot :=
  ((Head.all.filter s.overdue).map fun h => ⟨.referenceOverdue, h.num⟩)
    ++ (if s.graceOver then [⟨.lightLost, 0⟩] else []) ++ s.stalled.toList

/-- One of several end conditions that come together is taken first; which, the spec leaves open (R142). -/
def takeOne (cs : List EndSlot) (s : State) : State :=
  match cs[s.choice cs.length]? with
  | some c => endCondition c (s.chosen cs.length)
  | none => s

/-- The three counts of a scan-direction index arrival, with the end condition they give (R15). -/
def countRevolution (s : State) : State :=
  let s := countStall (countGrace (forHeads countDue s))
  takeOne s.indexConditions s

/-- An index arrival is delivered (R15). -/
def indexDelivered (forward : Bool) (s : State) : State :=
  let s := starvedRecheck (parkRecheck s)
  if forward then countRevolution s else s

/-! ## The light condition clears (R59, R60) -/

/-- The light condition clears, and the FORCED_OFF heads are woken (R60). -/
def lightClears (s : State) : State := forHeads wakePended { s with light := { s.light with present := false } }

/-! ## The filter's limit (R67 to R70) -/

/-- The filter counter of a head has reached its limit (R67). -/
def State.filterReached (s : State) (h : Head) : Bool :=
  let limit := ((s.ports.get h).config.map (·.limit)).getD 0
  decide (0 < limit) && decide (limit ≤ (s.qu.heads.get h).filter)

/-- The filter's limit is taken: the counter returns to 0, HEAD_FAULT is set, and the head's fault action is
applied (R67, R68, R69, R70). -/
def takeFilterLimit (h : Head) (s : State) : State :=
  let s := setNotice .headFault (s.onQual h fun q => { q with filter := 0 })
  match (s.ports.get h).config.bind (·.action) with
  | some .suspendPass => suspendScan h s
  | some .failOrder => endCondition ⟨.headFaultAction, h.num⟩ s
  | some .continueOn | none => s

/-- The limit is taken when the counter has reached it. -/
def settleFilter (h : Head) (s : State) : State := if s.filterReached h then takeFilterLimit h s else s

/-! ## Outcomes (R52, R65) -/

/-- A completed burst group of `burst` entries leaves the list: its outcome is handled when it bears no
abandoned mark, with the fault action last, and the removal is reported (R52, R53, R65). -/
def completeGroup (h : Head) (burst : Nat) (s : State) : State :=
  let group := (s.ports.get h).inFlight.take burst
  let s := s.onPort h fun p => { p with inFlight := p.inFlight.drop burst }
  match group with
  | [] => s
  | e :: _ =>
    if group.any (·.abandoned) then s
    else
      let bad := judge (chosenExposure (group.filterMap (·.result))) e.floor != .none
      let counts := e.pass.kind != .reference && s.countsInFilter h bad
      let s := qualify h e (group.filterMap (·.result)) s
      groupsRemoved h [e] (if counts then settleFilter h s else s)

/-- The oldest unretired entry of a head retires with a result; its group completes with its last entry (R50,
R51, R52). -/
def retire (h : Head) (x : Exposure) (e : InFlight) (s : State) : State :=
  let s := s.onPort h fun p => { p with inFlight := retireOldest x p.inFlight }
  if e.ordinal = e.burst then completeGroup h e.burst s else s

/-! ## The steps taken at the end of an event (log 1) -/

/-- The Order Engine's step whose condition has come to hold: the end of LOADING, of ACQUIRING or of a round,
or of LIGHT_WAIT. -/
def settleEngine (s : State) : State :=
  if s.loadingEnded then endLoading s
  else if s.passesEnded then endPasses s
  else if s.waitEnded then departLightWait s
  else s

/-- A finished measurement is judged (R110). -/
def settleMeasured (s : State) : State := if s.measured then judgeCalibration s else s

/-- The order's own steps: the engine's, and then the judgement of a calibration whose measurement is finished
(R110, R149). -/
def settleOrder (s : State) : State := settleMeasured (settleEngine s)

/-- STARTING can end: the Cell Record taken, homing done, and no wake of START outstanding (R174; log 14). -/
def State.startEnded (s : State) : Bool :=
  s.uc.unit == .starting && !s.uc.cellReading && s.tracker.state == .tracking && s.uc.startWakes.members.isEmpty

/-- The unit enters RUNNING: the chain position becomes the anchor, and the Chain Anchor is followed (R174,
R129). -/
def enterRunning (s : State) : State :=
  enterUnit .running (followLink s.anchor (s.onOrder fun o => { o with chain := some s.anchor }))

/-- The entry to RUNNING is taken when it has come. -/
def settleUnit (s : State) : State := if s.startEnded then enterRunning s else s

/-- The steps the part takes by itself at an event that makes their conditions hold (log 1). -/
def settle (s : State) : State :=
  settleUnit (settleDrain (forHeads settleRequest (settleOrder (settlePassages (forHeads settleSeries s)))))

end Sys2Proof.Machine
end

