-- ==== Sys2Proof/Machine/UnitCommands.lean ====
section
/-! DEFINITION. The unit commands of UCMD and the cold reset (10.2: R171 to R179). -/

namespace Sys2Proof.Machine

/-- What a command answers. -/
abbrev Answer := Host.Outcome State Fault Refusal

/-- UCMD's read-back after a command (R171). -/
def readBack (code : Nat) (r : CommandResult) (s : State) : State :=
  { s with xe := { s.xe with ucmdCode := code, ucmdResult := r } }

/-- A command is accepted, with its effect, or refused, which changes the read-back alone (R171). -/
def command (code : Nat) (accepted : Bool) (effect : State → State) (s : State) : State :=
  if accepted then effect (readBack code .accepted s) else readBack code .refusedState s

/-! ## START (R173) -/

/-- START is accepted: in STOPPED with the entry complete (R171, R177). -/
def State.acceptsStart (s : State) : Bool := s.uc.unit == .stopped && !s.uc.stopping

/-- START's effect at its acceptance: STARTING, the values it zeroes, POWER_ON cleared (R173, R14, R154,
R168, R172). -/
def startUnit (s : State) : State :=
  let s := clearNotices Notice.powerOn.mask s
  { s with
    uc := { s.uc with unit := .starting, cause := none }
    tracker := { s.tracker with revolution := 0 }
    sb := { s.sb with highWater := 0 }
    rw := { s.rw with cursor := 0 }
    oe := { s.oe with activeTag := 0 } }

/-- The Cell Record is read, or with XBASE 0 the check fails with nothing read (R173). -/
def readCell (s : State) : State :=
  if s.xbase = 0 then enterFaulted .cellInvalid s
  else beginRead .cellRecord s.xbase 1024 { s with uc := { s.uc with cellReading := true } }

/-- START (R173). -/
def execStart (s : State) : Answer :=
  .next (command 1 s.acceptsStart (fun s => readCell (requestPage (startUnit s))) s)

/-! ## HALT (R175) -/

/-- HALT is accepted (10.2). -/
def State.acceptsHalt (s : State) : Bool :=
  match s.uc.unit with
  | .running | .halting | .parked | .held => true
  | .stopped | .starting | .faulted => false

/-- HALT's effect, by the unit state (R175). -/
def haltUnit (s : State) : State :=
  match s.uc.unit with
  | .running => enterUnit .halting s
  | .parked | .held => enterStopped s
  | .halting | .stopped | .starting | .faulted => s

/-- HALT (R175). -/
def execHalt (s : State) : Answer := .next (command 2 s.acceptsHalt haltUnit s)

/-! ## ABORT (R176, R144) -/

/-- ABORT is accepted (10.2). -/
def State.acceptsAbort (s : State) : Bool :=
  match s.uc.unit with
  | .running | .halting | .starting => true
  | .stopped | .parked | .held | .faulted => false

/-- The Order Engine takes an ABORT by its state (R144, R133; log 16). That the unit stays RUNNING while a link is
followed, and is HELD only at the end of the read in progress, is the model's choice between R144 and the "at once"
of R176 (log 60). -/
def abortOrder (s : State) : State :=
  match s.oe.engine with
  | .idle => s.onOrder fun o => { o with abortPending := true }
  | .fetching | .validating =>
    if s.oe.early then s.onOrder fun o => { o with abortMark := true }
    else s.onOrder fun o => { o with abortPending := true }
  | .closing => abortPorts (s.onOrder fun o => { o with abortMark := true })
  | .loading | .arming | .stepMove | .acquiring | .revisiting | .stepClose | .lightWait =>
    abortPorts (endCondition ⟨.abortCommand, 0⟩ s)

/-- ABORT's effect, by the unit state (R176). -/
def abortUnit (s : State) : State :=
  match s.uc.unit with
  | .starting => enterStopped s
  | .running | .halting => settle (abortOrder s)
  | .stopped | .parked | .held | .faulted => s

/-- ABORT (R176). -/
def execAbort (s : State) : Answer := .next (command 3 s.acceptsAbort abortUnit s)

/-! ## RESUME (R176, R132) -/

/-- RESUME is accepted in HELD (10.2). -/
def State.acceptsResume (s : State) : Bool := s.uc.unit == .held

/-- The held point's link is followed, with the held reason cleared (R132), and the held point too (log 53). -/
def resumeUnit (s : State) : State :=
  match s.oe.heldPoint with
  | none => s
  | some p =>
    enterUnit .running (followLink p (s.onOrder fun o => { o with heldReason := none, heldPoint := none }))

/-- RESUME (R176). -/
def execResume (s : State) : Answer := .next (command 4 s.acceptsResume resumeUnit s)

/-! ## STOP (R177) -/

/-- STOP is accepted (10.2). -/
def State.acceptsStop (s : State) : Bool :=
  match s.uc.unit with
  | .parked | .held | .faulted | .stopped => true
  | .starting | .running | .halting => false

/-- STOP's effect: an entry to STOPPED; nothing in STOPPED (R177). -/
def stopUnit (s : State) : State :=
  match s.uc.unit with
  | .parked | .held | .faulted => enterStopped s
  | .stopped | .starting | .running | .halting => s

/-- STOP (R177). -/
def execStop (s : State) : Answer := .next (command 5 s.acceptsStop stopUnit s)

/-! ## SOFT_RESET and COLD_RESET (R179) -/

/-- A port after a soft reset: SLEEP sent first to a head that is not OFF (R62). What it has sent, the
timeout in force and the link watch stay (log 10, log 11). -/
def Port.softReset (p : Port) : Port :=
  { p.asleep with faultRecord := .none, seqCounter := 0, config := none }

/-- A head's reference state after a soft reset (R112). -/
def HeadRef.softReset (r : HeadRef) : HeadRef :=
  { HeadRef.reset with nominal := r.nominal, nominalValid := r.nominalValid, drift := r.drift }

/-- The encoder inputs stay as they stand; the rest of the tracker is reset (R17; log 8). -/
def Tracker.softReset (t : Tracker) : Tracker :=
  { Tracker.reset with encA := t.encA, encB := t.encB, index := t.index }

/-- The notices that a soft reset keeps: LIGHT_LOW and POWER_ON (R179). -/
def keptNotices : BitVec 13 := Notice.lightLow.mask ||| Notice.powerOn.mask

/-- Every block in its state after a soft reset (R179). -/
def softReset (levels : Levels) (s : State) : State :=
  let s := letGoPage (letGoWriter (letGoOrder (letGoCell s)))
  { s with
    tracker := s.tracker.softReset
    tg := .reset
    ports := s.ports.map Port.softReset
    light := .reset
    mon0 := .reset
    mon1 := .reset
    qu := .reset
    ru := .reset
    rc := { config := none, mode := .off, heads := s.rc.heads.map HeadRef.softReset }
    sf := .reset levels
    oe := .reset
    sb := .reset
    rw := .reset
    xe := { s.xe with noteRaw := s.xe.noteRaw &&& keptNotices }
    uc := .reset }

/-- SOFT_RESET (R179). -/
def execSoftReset (levels : Levels) (s : State) : Answer :=
  .next (command 6 true (softReset levels) s)

/-- A port after a cold reset; the trace of what it sent is the model's own and stays (log 5). -/
def Port.coldReset (p : Port) : Port := { Port.reset with sent := p.sent }

/-- Every block in its state after a cold reset; the encoder inputs stand where they stand, and the traces
and the count of free choices stay (R179; log 5, log 6, log 8). Accesses in progress or let go of are forgotten
(log 48). -/
def coldReset (levels : Levels) (s : State) : State :=
  { State.reset with
    tracker := s.tracker.softReset
    ports := s.ports.map Port.coldReset
    sf := .reset levels
    xe := { Exchange.reset with bus := s.xe.bus }
    free := s.free
    pending := s.pending }

/-- COLD_RESET (R179). -/
def execColdReset (levels : Levels) (s : State) : Answer := .next (coldReset levels s)

end Sys2Proof.Machine
end

