-- ==== Sys2Proof/Machine/Encoder.lean ====
section
/-! DEFINITION. The Angle Tracker's events (01): count steps, illegal transitions and its two timers. -/

namespace Sys2Proof.Machine

/-! ## One count step (R1, R4, R6) -/

/-- A change of one phase is an up-count step: the pairs follow (0,0), (1,0), (1,1), (0,1) (R1). -/
def Tracker.isUp (t : Tracker) (p : Phase) : Bool :=
  match p with
  | .encA => t.encA == t.encB
  | .encB => t.encA != t.encB

/-- The inputs after the edge, with the index level of the new position (R1, R6). -/
def Tracker.edge (t : Tracker) (p : Phase) (index : Bool) : Tracker :=
  match p with
  | .encA => { t with encA := !t.encA, index := index }
  | .encB => { t with encB := !t.encB, index := index }

/-- The raw count after a step, wrapping at CPR (R1). -/
def steppedCount (cpr : Nat) (up : Bool) (c : Nat) : Nat :=
  if up then (if c + 1 = cpr then 0 else c + 1) else (if c = 0 then cpr - 1 else c - 1)

/-- The travel count after a step (R1). -/
def steppedTravel (up : Bool) (n : Int) : Int := if up then n + 1 else n - 1

/-- The blade angle at a raw count (R4). -/
def TrackerConfig.blade (c : TrackerConfig) (raw : Nat) : Nat :=
  match c.sense with
  | .forward => (raw + (c.cpr - c.origin % c.cpr)) % c.cpr
  | .reverse => (c.origin + (c.cpr - raw % c.cpr)) % c.cpr

/-- A step is in the scan direction: up-count under FORWARD, down-count under REVERSE (R4). -/
def TrackerConfig.scans (c : TrackerConfig) (up : Bool) : Bool :=
  match c.sense with
  | .forward => up
  | .reverse => !up

/-- The max revolution period in µs (R3). -/
def TrackerConfig.period (c : TrackerConfig) : Nat := 1000 * c.maxPeriod

/-- A step is an index arrival: up onto an active position, or down off one (R6). -/
def isIndexArrival (up oldIndex newIndex : Bool) : Bool := if up then newIndex else oldIndex

/-! ## Homing (R7, R8, R10) -/

/-- The first index arrival, in SEEKING (R7). -/
def Tracker.firstIndex (t : Tracker) (c : TrackerConfig) (up : Bool) (now : Time) : Tracker :=
  { t with state := .measuring, rawCount := if up then 0 else c.cpr - 1, travel := some (if up then 0 else -1),
           homingTimer := .running now c.period }

/-- A count step in MEASURING without its arrival (R1). -/
def Tracker.measured (t : Tracker) (c : TrackerConfig) (up : Bool) : Tracker :=
  { t with rawCount := steppedCount c.cpr up t.rawCount, travel := t.travel.map (steppedTravel up) }

/-- The travel count of the index position of an arrival: after an up step, before a down step (R8). -/
def Tracker.indexTravel (t : Tracker) (up : Bool) : Int :=
  let n := t.travel.getD 0
  if up then steppedTravel up n else n

/-- Homing done (R10). -/
def Tracker.homed (t : Tracker) (c : TrackerConfig) (up : Bool) (now : Time) : Tracker :=
  { t with state := .tracking, rawCount := (steppedTravel up (t.travel.getD 0) % (c.cpr : Int)).toNat,
           travel := none, revolution := 0, homingTimer := .stopped, indexWatch := .running now c.period }

/-- A homing fault: LOST, and the unit FAULTED (R2, R8, R9). -/
def homingFault (c : FaultCause) (s : State) : State :=
  enterFaulted c { s with tracker := s.tracker.lost }

/-- An index arrival in MEASURING, judged by the travel count of its index position (R8). `t` is the tracker
before the step, with the new inputs. -/
def judgeArrival (t : Tracker) (c : TrackerConfig) (up : Bool) (s : State) : State :=
  let n := t.indexTravel up
  if n = 0 then
    { s with tracker := { t.measured c up with homingTimer := .running s.xe.time c.period } }
  else if n = (c.cpr : Int) ∨ n = -(c.cpr : Int) then settle { s with tracker := t.homed c up s.xe.time }
  else homingFault .homeMismatch { s with tracker := t.measured c up }

/-! ## Tracking (R5, R11, R14) -/

/-- The revolution number after a checked index arrival (R14). -/
def steppedRevolution (forward : Bool) (r : Rev) : Rev := if forward then r + 1 else r - 1

/-- The index position of an arrival in TRACKING is raw count 0 (R11). `raw` is the count before the step. -/
def indexCheck (c : TrackerConfig) (up : Bool) (raw : Nat) : Bool :=
  if up then steppedCount c.cpr up raw == 0 else raw == 0

/-- A checked index arrival: watch restarted, revolution number changed (R11, R14). -/
def Tracker.indexed (t : Tracker) (c : TrackerConfig) (forward : Bool) (now : Time) : Tracker :=
  { t with indexWatch := .running now c.period, revolution := steppedRevolution forward t.revolution }

/-- The angle arrival of a count step is published (R5). -/
def publishAngle (c : TrackerConfig) (up : Bool) (s : State) : State :=
  angleArrival (c.scans up) (c.blade s.tracker.rawCount) s.tracker.revolution s

/-- A count step in TRACKING (R5, R11). The angle arrival comes before the delivery of the index arrival
(log 12), and the delivery, with the end condition it gives, before the completion of a passage that ends at the
arrival and the other steps of `settle` (log 52). `t` is the tracker before the step, with the new inputs. -/
def trackStep (t : Tracker) (c : TrackerConfig) (up arrival : Bool) (s : State) : State :=
  let u : Tracker := { t with rawCount := steppedCount c.cpr up t.rawCount }
  if arrival then
    if indexCheck c up t.rawCount then
      settle (indexDelivered (c.scans up)
        (publishAngle c up { s with tracker := u.indexed c (c.scans up) s.xe.time }))
    else settle (encoderFault .encoderSlip { s with tracker := u })
  else settle (publishAngle c up { s with tracker := u })

/-- COUNT_STEP (R1): an edge of one phase; `index` is the level of ENC_I at the new position. -/
def execCountStep (p : Phase) (index : Bool) (s : State) : Answer :=
  let up := s.tracker.isUp p
  let arrival := isIndexArrival up s.tracker.index index
  let t := s.tracker.edge p index
  .next
    (match t.config, t.state with
    | some c, .seeking =>
      { s with tracker := if arrival then t.firstIndex c up s.xe.time
                          else { t with rawCount := steppedCount c.cpr up t.rawCount } }
    | some c, .measuring => if arrival then judgeArrival t c up s else { s with tracker := t.measured c up }
    | some c, .tracking => trackStep t c up arrival s
    | _, _ => { s with tracker := t })

/-- ILLEGAL_TRANSITION (R2): both phases change; the raw count does not, and the level of ENC_I held stays that of
the last count step (log 36). -/
def execIllegalTransition (s : State) : Answer :=
  let s : State := { s with tracker := { s.tracker with encA := !s.tracker.encA, encB := !s.tracker.encB } }
  .next
    (match s.tracker.state with
    | .measuring => homingFault .homeMismatch s
    | .tracking => settle (encoderFault .encoderSlip s)
    | .idle | .seeking | .lost => s)

/-- HOMING_TIMER_EXPIRY (R9): it runs in SEEKING and MEASURING. -/
def execHomingTimerExpiry (s : State) : Answer :=
  .next
    (match s.tracker.state, s.tracker.homingTimer with
    | .seeking, .running _ _ | .measuring, .running _ _ => homingFault .homeTimeout s
    | _, _ => s)

/-- INDEX_WATCH_EXPIRY (R12): it runs in TRACKING. -/
def execIndexWatchExpiry (s : State) : Answer :=
  .next
    (match s.tracker.state, s.tracker.indexWatch with
    | .tracking, .running _ _ => settle (encoderFault .encoderLost s)
    | _, _ => s)

end Sys2Proof.Machine
end

