-- ==== Sys2Proof/Machine/HeadEvents.lean ====
section
/-! DEFINITION. The heads' messages, the ports' timers and link watches, and the Qualifier's limit (03, 04). -/

namespace Sys2Proof.Machine

/-- A head in WAKING or READY enters FAULT with a PORT cause; in the other states nothing is judged (R40,
R42). -/
def portFault (c : PortCause) (h : Head) (s : State) : State :=
  match (s.ports.get h).state with
  | .waking | .ready => settle (headFault h (.port c) s)
  | .off | .fault | .forcedOff => s

/-- A READY in WAKING: the timer stopped, the fault record none, the head READY (R44). -/
def Port.awake (p : Port) : Port := { p with state := .ready, faultRecord := .none, wakeTimer := .stopped }

/-- READY_RECEIVED (R42, R44). -/
def execReadyReceived (h : Head) (s : State) : Answer :=
  .next
    (match (s.ports.get h).state with
    | .waking => settle (endWake h (s.onPort h Port.awake))
    | .ready => settle (headFault h (.port .linkState) s)
    | .off | .fault | .forcedOff => s)

/-- The result a SAMPLE brings, with the Time Base value at which it was taken (R50). -/
def Sample.exposure (m : Sample) (now : Time) : Exposure :=
  .reply m.raw m.intensity m.quality m.saturated m.noPeak now

/-- SAMPLE_RECEIVED (R42, R50): matched to the oldest unretired entry by its sequence number, or a protocol
error. -/
def execSampleReceived (h : Head) (m : Sample) (s : State) : Answer :=
  .next
    (match (s.ports.get h).state with
    | .ready =>
      match oldestOpen (s.ports.get h).inFlight with
      | some e =>
        if e.seq = m.seq then settle (retire h (Sample.exposure m s.xe.time) e s)
        else settle (headFault h (.port .linkOrder) s)
      | none => settle (headFault h (.port .linkOrder) s)
    | .off | .waking | .fault | .forcedOff => s)

/-- ALERT_RECEIVED (R42): FAULT with the head's code; a code of 0 is a frame error (R40). -/
def execAlertReceived (h : Head) (code : Byte) (s : State) : Answer :=
  .next
    (match (s.ports.get h).state with
    | .waking | .ready =>
      settle (headFault h (if code = 0 then .port .linkFrame else .head code) s)
    | .off | .fault | .forcedOff => s)

/-- FRAME_ERROR (R40). -/
def execFrameError (h : Head) (s : State) : Answer := .next (portFault .linkFrame h s)

/-- LINK_LOSS (R40): the link watch lapses, and stays lapsed until the next activity; it is judged in WAKING
and READY. -/
def execLinkLoss (h : Head) (s : State) : Answer :=
  .next
    (if (s.ports.get h).linkWatch then portFault .linkLost h (s.onPort h fun p => { p with linkWatch := false })
    else s)

/-- LINK_ACTIVITY (R40): the link watch restarts. -/
def execLinkActivity (h : Head) (s : State) : Answer :=
  .next (s.onPort h fun p => { p with linkWatch := true })

/-- WAKE_TIMER_EXPIRY (R44): the timer runs in WAKING. -/
def execWakeTimerExpiry (h : Head) (s : State) : Answer :=
  .next
    (match (s.ports.get h).state, (s.ports.get h).wakeTimer with
    | .waking, .running _ _ => settle (headFault h (.port .wakeTimeout) s)
    | _, _ => s)

/-- RESPONSE_TIMER_EXPIRY (R51): timers expire in issue order, so the oldest unretired entry retires as
NO_REPLY (log 28). -/
def execResponseTimerExpiry (h : Head) (s : State) : Answer :=
  .next
    (match oldestOpen (s.ports.get h).inFlight with
    | some e => settle (retire h (.noReply s.xe.time) e s)
    | none => s)

/-- SERIES_COMPLETE (R31; log 1). -/
def execSeriesComplete (h : Head) (s : State) : Answer :=
  .next (if s.seriesComplete h then settle (closeSeries h s) else s)

/-- FILTER_LIMIT (R67, R68; log 1, log 29). -/
def execFilterLimit (h : Head) (s : State) : Answer :=
  .next (if s.filterReached h then settle (takeFilterLimit h s) else s)

/-- MON_PULSE_END (R61): the pulse of an output ends. -/
def execMonPulseEnd (m : Mon) (s : State) : Answer :=
  .next
    (match m with
    | .mon0 => { s with mon0 := { s.mon0 with pulse := false } }
    | .mon1 => { s with mon1 := { s.mon1 with pulse := false } })

end Sys2Proof.Machine
end

