-- ==== Sys2Proof/Machine/LightEvents.lean ====
section
/-! DEFINITION. The Light Monitor's events and the light waits of an order (03.6, 08.5). -/

namespace Sys2Proof.Machine

/-- The light condition becomes present: LIGHT_LOW set, the Order Engine told, and every WAKING or READY head
forced off (R58, R140; log 13). The heads that may offer a pending gap as their lists empty do so in an order
that the spec leaves open (R151; log 6). -/
def lightFails (s : State) : State :=
  let s := lightLost (setNotice .lightLow { s with light := { s.light with present := true } })
  forHeadsFree s.gapPending forceOff s

/-- LIGHT_JUDGED_LOW (R57, R58): the judgement becomes LOW from UNKNOWN or GOOD; nothing more where the
condition is present already. -/
def execLightJudgedLow (s : State) : Answer :=
  let t : State := { s with light := { s.light with judgement := .low } }
  .next
    (if s.light.judgement = .low then s
    else if s.light.present then t
    else settle (lightFails t))

/-- LIGHT_JUDGED_GOOD (R57, R59): the judgement becomes GOOD from UNKNOWN or LOW; in AUTO that clears the
condition. -/
def execLightJudgedGood (s : State) : Answer :=
  let t : State := { s with light := { s.light with judgement := .good } }
  .next
    (if s.light.judgement = .good then s
    else if s.light.present && s.light.mode == .auto then settle (lightClears t)
    else t)

/-- LIGHT_GRACE_EXPIRY (R140; log 1). -/
def execLightGraceExpiry (s : State) : Answer :=
  .next (if s.graceOver then settle (endCondition ⟨.lightLost, 0⟩ s) else s)

/-- LIGHT_WAIT_DEPARTURE (R141; log 1). -/
def execLightWaitDeparture (s : State) : Answer :=
  .next (if s.waitEnded then settle (departLightWait s) else s)

end Sys2Proof.Machine
end

