-- ==== Sys2Proof/Machine/OrderEvents.lean ====
section
/-! DEFINITION. The ends of the Order Engine's reads and writes, and its own steps as commands (08). -/

namespace Sys2Proof.Machine

/-- A read has ended, with data or with a read error: it joins the trace. -/
def endRead (kind : BusKind) (r : ReadResult) (s : State) : State :=
  match r with
  | .data _ => logBus (.ended kind) s
  | .error => logBus (.failed kind) s

/-- The Order Engine's access in progress has ended. -/
def accessDone (s : State) : State := s.onOrder fun o => { o with doing := .none }

/-! ## The chain (R129, R131, R144, R175, R185) -/

/-- A read of a follow has ended while the follow is to be given up: a HALTING unit enters STOPPED, an ABORT
holds it (R175, R176, R144); otherwise the follow goes on with `k`. That an ABORT holds the unit here, at the end of
the read, and not at the event of the command, is the model's choice (log 60). -/
def followGoesOn (holder : Addr) (k : State → State) (s : State) : State :=
  if s.uc.unit = .halting then enterStopped s
  else if s.oe.abortPending then hold .orderAborted holder s
  else k s

/-- A link value has been read: 0 parks, an address off a multiple of 64 holds, and another has the status of
its block read (R129, R185). -/
def linkFound (holder value : Addr) (s : State) : State :=
  if value = 0 then parkOn holder s
  else if aligned value 64 then
    beginRead .blockStatus (value + 8) 1 (s.onOrder fun o => { o with doing := .status holder value })
  else hold .staleOrder holder s

/-- LINK_READ (R129). -/
def execLinkRead (r : ReadResult) (s : State) : Answer :=
  .next
    (if s.isStray .link then endStray .link s
    else match s.oe.doing with
      | .link holder =>
        followGoesOn holder (fun s =>
          match r with
          | .data bs => linkFound holder (BitVec.ofNat 64 (leNat bs 0 8)) s
          | .error => hold .readError holder s) (accessDone (endRead .link r s))
      | _ => s)

/-- A block's status has been read PENDING: the block becomes the chain position, and its header is read
(R129, R130, R131). The park point is cleared (log 53). -/
def fetchOrder (block : Addr) (s : State) : State :=
  let t := beginRead .header block headerLength
    (s.onOrder fun o =>
      { o with engine := .fetching, chain := some block, park := none, recheck := false, early := false,
               abortMark := false, abortPending := false, active := none, doing := .header })
  if s.uc.unit = .parked then enterUnit .running t else t

/-- A block's status has been read: PENDING, DRAFT, or any other value (R129). -/
def statusFound (holder block : Addr) (status : Byte) (s : State) : State :=
  if status = 1 then fetchOrder block s
  else if status = 0 then parkOn holder s
  else hold .staleOrder holder s

/-- BLOCK_STATUS_READ (R129). -/
def execBlockStatusRead (r : ReadResult) (s : State) : Answer :=
  .next
    (if s.isStray .blockStatus then endStray .blockStatus s
    else match s.oe.doing with
      | .status holder block =>
        followGoesOn holder (fun s =>
          match r with
          | .data bs => statusFound holder block (byteAt bs 0) s
          | .error => hold .readError holder s) (accessDone (endRead .blockStatus r s))
      | _ => s)

/-! ## Before LOADING (R133) -/

/-- A read of FETCHING or VALIDATING has ended: an encoder fault taken meanwhile faults the unit, an ABORT
ends the order ABORTED, a read error ends it FAILED with the structure's detail, and otherwise the bytes are
taken by `k` (R13, R133). That they decide in this order is the model's choice (log 42). -/
def validationRead (r : ReadResult) (detail : Nat) (k : List Byte → State → State) (s : State) : State :=
  match s.uc.fault with
  | some c => enterFaulted c s
  | none =>
    if s.oe.abortPending then endEarly ⟨.abortCommand, 0⟩ s
    else
      match r with
      | .error => endEarly ⟨.readError, detail⟩ s
      | .data bs => k bs s

/-- The header has been read: checks 1 to 7, then the tables that the kind names (R127, R133, R71, R147,
R148). -/
def headerFound (bs : List Byte) (s : State) : State :=
  let hd := readOrderHeader bs
  let a : ActiveOrder := { header := hd, zones := none, tables := .all .identity }
  let s := s.onOrder fun o => { o with engine := .validating, active := some a }
  match s.headerCheck hd with
  | some n => endEarly ⟨.validation, n⟩ s
  | none =>
    match hd.kind with
    | some .scan => readZones a s
    | some .calibrateReference => readCorrections a hd.mask.members s
    | _ => enterLoading a s

/-- HEADER_READ (R133). -/
def execHeaderRead (r : ReadResult) (s : State) : Answer :=
  .next
    (if s.isStray .header then endStray .header s
    else match s.oe.doing with
      | .header => settle (validationRead r 0x10 headerFound (accessDone (endRead .header r s)))
      | _ => s)

/-- The reads of a zone table's entries, after its header: none when the zone count is out of range (R18). That a
read error falls on the header's read, and that the entries are read also where an ABORT or an encoder fault waits
for the end, is the model's choice (log 57). -/
def zoneEntriesRead (addr : Addr) (r : ReadResult) (s : State) : State :=
  match r with
  | .data bs =>
    if 1 ≤ zoneCount bs ∧ zoneCount bs ≤ 32 then
      logBus (.ended .zoneTable) (beginRead .zoneTable (addr + 8) (16 * zoneCount bs) s)
    else s
  | .error => s

/-- The zone table has been read: checks 8 to 13, then the correction tables (R18, R20, R21, R71). -/
def zonesFound (a : ActiveOrder) (bs : List Byte) (s : State) : State :=
  let t := readZoneTable bs
  let b : ActiveOrder := { a with zones := some t }
  let s := s.onOrder fun o => { o with active := some b }
  match zoneTableCheck s.cpr (zoneCount bs) t a.header.mask a.header.flags.referenceChecks s.rc.config with
  | some n => endEarly ⟨.validation, n⟩ s
  | none => readCorrections b a.header.mask.members s

/-- ZONE_TABLE_READ (R18). -/
def execZoneTableRead (r : ReadResult) (s : State) : Answer :=
  .next
    (if s.isStray .zoneTable then endStray .zoneTable s
    else match s.oe.doing, s.oe.active with
      | .zoneTable, some a =>
        settle (validationRead r 0x11 (zonesFound a)
          (accessDone (zoneEntriesRead a.header.zoneAddr r (endRead .zoneTable r s))))
      | _, _ => s)

/-- A correction table has been read: TABLE_CHECK when it fails, the next head's table otherwise (R71). -/
def tableFound (a : ActiveOrder) (h : Head) (bs : List Byte) (s : State) : State :=
  if correctionTableValid bs h then
    let b : ActiveOrder := { a with tables := a.tables.set h (.points (correctionPoints bs)) }
    readCorrections b (headsAfter a.header.mask h) (s.onOrder fun o => { o with active := some b })
  else endEarly ⟨.tableCheck, 14⟩ s

/-- CORRECTION_TABLE_READ (R71). -/
def execCorrectionTableRead (r : ReadResult) (s : State) : Answer :=
  .next
    (if s.isStray .correctionTable then endStray .correctionTable s
    else match s.oe.doing, s.oe.active with
      | .correction h, some a =>
        settle (validationRead r (0x20 + h.num) (tableFound a h) (accessDone (endRead .correctionTable r s)))
      | _, _ => s)

/-! ## The engine's own steps (log 1) -/

/-- LOADING_END (R134). -/
def execLoadingEnd (s : State) : Answer := .next (if s.loadingEnded then settle (endLoading s) else s)

/-- DRAIN_COMPLETE (R145). -/
def execDrainComplete (s : State) : Answer := .next (settleDrain s)

/-! ## The completion and the terminal status (R146) -/

/-- COMPLETION_WRITTEN: the terminal status is written next (R146, R133, R128). -/
def execCompletionWritten (s : State) : Answer :=
  .next
    (if s.isStray .completion then endStray .completion s
    else match s.oe.doing with
      | .completion =>
        beginWrite .terminal [terminalWrite s.block s.slot.reason.terminal]
          ((logBus (.ended .completion) s).onOrder fun o => { o with stage := .terminal, doing := .terminal })
      | _ => s)

/-- What the active order leaves to its routing. -/
def State.orderEnd (s : State) : OrderEnd :=
  { block := s.block, slot := s.slot, early := s.oe.early,
    continueOnFail := (s.oe.active.map (·.header.flags.continueOnFail)).getD false,
    abortMark := s.oe.abortMark }

/-- Stage 7: ORDER_END, and ORDER_FAIL unless DONE; the copies are discarded and the Status Page is written
(R145, R127, R18). -/
def orderDone (s : State) : State :=
  let t := setNotice .orderEnd s
  let t := if s.slot.reason.terminal = .done then t else setNotice .orderFail t
  let t := t.onOrder fun o =>
    { o with engine := .idle, doing := .none, active := none, early := false, abortMark := false }
  requestPage { t with tg := { t.tg with zones := none } }

/-- TERMINAL_STATUS_WRITTEN: stage 7, then the routing of R146. -/
def execTerminalStatusWritten (s : State) : Answer :=
  .next
    (if s.isStray .terminal then endStray .terminal s
    else match s.oe.doing with
      | .terminal => settle (routeOrder s.orderEnd (orderDone (logBus (.ended .terminal) s)))
      | _ => s)

end Sys2Proof.Machine
end

