-- ==== Sys2Proof/Machine/ReferenceEvents.lean ====
section
/-! DEFINITION. The Reference Check Unit's steps as commands (06; log 1). -/

namespace Sys2Proof.Machine

/-- REFERENCE_DUE (R102). -/
def execReferenceDue (h : Head) (s : State) : Answer := .next (settleRequest h s)

/-- REFERENCE_OVERDUE (R101). -/
def execReferenceOverdue (h : Head) (s : State) : Answer :=
  .next (if s.overdue h then settle (endCondition ⟨.referenceOverdue, h.num⟩ s) else s)

/-- PASSAGE_COMPLETE (R104). -/
def execPassageComplete (h : Head) (s : State) : Answer :=
  .next (if s.passageComplete h then settle (completePassage h s) else s)

end Sys2Proof.Machine
end

