-- ==== Sys2Proof/WellFormed.lean ====
section
/-! DEFINITION. The decidable checks a command of the table meets: the operand ranges the rules give. -/

namespace Sys2Proof

/-- A read that ended with data brought exactly the structure's bytes (11, layouts). -/
def ReadResult.hasLength (n : Nat) : ReadResult → Bool
  | .data bytes => bytes.length == n
  | .error => true

/-- A zone table read brought the 8-byte header alone when its zone count is out of range, and the header
and that many 16-byte entries when it is in range (R18). -/
def ReadResult.isZoneTable : ReadResult → Bool
  | .data bytes =>
    let n := (bytes.getD 0 0).toNat
    if 1 ≤ n ∧ n ≤ 32 then bytes.length == 8 + 16 * n else bytes.length == 8
  | .error => true

/-- The reads of a Segment Table entry brought its state, and of an OFFERED entry, state code 1, its address
and length after it (R159). -/
def isSegmentEntry (bytes : List Byte) : Bool :=
  bytes.length == if bytes.getD 0 0 = 1 then 13 else 1

/-- The register writes that have a row of their own: a full write at UCMD with a code 1 to 6, at NUDGE,
at NOTE_RAW or at NOTE_EN. Every other write is REGISTER_WRITE's (R169, R171). -/
def isOtherRegisterWrite (offset : BitVec 12) (enables : BitVec 4) (value : Word) : Bool :=
  !(enables == 15 &&
    ((offset == 0x0C && decide (1 ≤ value.toNat % 16) && decide (value.toNat % 16 ≤ 6))
      || offset == 0x14 || offset == 0x18 || offset == 0x1C))

/-- The checks of one command. -/
def Instr.wellFormed : Instr → Bool
  | .registerWrite offset enables value => isOtherRegisterWrite offset enables value
  | .alertReceived _ code => code != 0
  | .linkRead r => r.hasLength 8
  | .blockStatusRead r => r.hasLength 1
  | .headerRead r => r.hasLength 336
  | .zoneTableRead r => r.isZoneTable
  | .correctionTableRead r => r.hasLength 1036
  | .segmentEntryRead bytes => isSegmentEntry bytes
  | .cellRecordRead r => r.hasLength 1024
  | .start | .halt | .abort | .resume | .stop | .softReset _ | .nudge _ | .noteRawWrite _ | .noteEnWrite _
  | .coldReset _ | .countStep _ _ | .illegalTransition | .homingTimerExpiry | .indexWatchExpiry
  | .seriesComplete _ | .readyReceived _ | .sampleReceived _ _ | .frameError _ | .linkLoss _
  | .wakeTimerExpiry _ | .responseTimerExpiry _ | .lightJudgedLow | .lightJudgedGood | .monPulseEnd _
  | .filterLimit _ | .referenceDue _ | .referenceOverdue _ | .passageComplete _ | .takenLevelChange _
  | .settleTimerExpiry | .fixtureTimerExpiry | .loadingEnd | .lightGraceExpiry | .lightWaitDeparture
  | .drainComplete | .completionWritten | .terminalStatusWritten | .entryGrant _ | .outputStall
  | .segmentTakeWritten | .recordWritten | .fillUpdateWritten | .fullWritten | .busWrite _ | .unitRunning
  | .statusPageWritten | .stoppedEntryComplete | .linkActivity _ => true

end Sys2Proof
end

