-- ==== Sys2Proof/Machine/RegisterWrites.lean ====
section
/-! DEFINITION. The register writes (10.1, 10.4: R169, R170, R180, R181; R59). -/

namespace Sys2Proof.Machine

/-- NUDGE: handed to the Order Engine and to the Result Writer, whatever value it carries (R170). -/
def execNudge (_value : Word) (s : State) : Answer := .next (starvedRecheck (parkRecheck s))

/-- The bits that a write of NOTE_RAW clears: those written as 1, LIGHT_LOW among them only while the supply
is judged GOOD (R180, R59). -/
def State.clearedBits (s : State) (value : Word) : BitVec 13 :=
  if s.light.judgement = .good then value.setWidth 13 else value.setWidth 13 &&& ~~~Notice.lightLow.mask

/-- A write of NOTE_RAW clears the light condition: in LATCHED, by a 1 in LIGHT_LOW while the supply is judged
GOOD (R59). -/
def State.writeClearsLight (s : State) (value : Word) : Bool :=
  value.getLsbD Notice.lightLow.bit && s.light.judgement == .good && s.light.mode == .latched && s.light.present

/-- NOTE_RAW_WRITE (R180, R59, R60). -/
def execNoteRawWrite (value : Word) (s : State) : Answer :=
  let t := clearNotices (s.clearedBits value) s
  .next (if s.writeClearsLight value then settle (lightClears t) else t)

/-- NOTE_EN_WRITE: bits 12 to 0 are the enables (R181). -/
def execNoteEnWrite (value : Word) (s : State) : Answer :=
  .next { s with xe := { s.xe with noteEn := value.setWidth 13 } }

/-- XBASE can be written: STOPPED with the entry complete (R169). -/
def State.baseWritable (s : State) : Bool := s.uc.unit == .stopped && !s.uc.stopping

/-- REGISTER_WRITE: a full write of XBASE_L or XBASE_H is taken in a completed STOPPED, bits 11 to 0 of
XBASE_L reading as 0; every other write of this row is ignored (R169, R171). A write that belongs to another
row is not this command's (log 23). -/
def execRegisterWrite (offset : BitVec 12) (enables : BitVec 4) (value : Word) (s : State) : Answer :=
  .next
    (if enables = 15 ∧ s.baseWritable = true then
      if offset = 0x04 then { s with xe := { s.xe with xbaseL := value &&& 0xFFFFF000 } }
      else if offset = 0x08 then { s with xe := { s.xe with xbaseH := value } }
      else s
    else s)

end Sys2Proof.Machine
end

