-- ==== Sys2Proof/Machine/SpanEvents.lean ====
section
/-! DEFINITION. The Span and Fixture Interface's events (07). -/

namespace Sys2Proof.Machine

/-- The settle line has changed: the acknowledge in REQUESTING, the settle in SETTLING, nothing in IDLE
(R116, R117). -/
def settleLineChanged (s : State) : State :=
  match s.sf.handshake with
  | .requesting => if s.sf.settleActive then s else s.onSpan Span.acknowledged
  | .settling =>
    if s.sf.settleActive then
      handshakeResult .settled (s.xe.time - s.sf.requestTime).toNat (s.onSpan Span.handshakeIdle)
    else s
  | .idle => s

/-- A line of the fixture mask has changed: compared in MATCHING, a fixture change in WATCHING (R121, R123). Of two
lines that change together the capture shows the first taken at its new level and the other at its old one
(log 40). -/
def watchedLineChanged (s : State) : State :=
  match s.sf.fixture with
  | .matching =>
    if s.sf.matched then endArming (s.onSpan fun f => f.captured.inPhase .watching) else s
  | .watching => endCondition ⟨.fixtureChanged, 0⟩ (s.onSpan fun f => f.captured.inPhase .tripped)
  | .off | .tripped => s

/-- TAKEN_LEVEL_CHANGE (R113): the line's taken level becomes the other one, and the rules that judge the
line act. -/
def execTakenLevelChange (l : Line) (s : State) : Answer :=
  let t := s.onSpan fun f => f.toggled l
  .next
    (if t.sf.isSettleLine l then settle (settleLineChanged t)
    else if t.sf.isWatched l then settle (watchedLineChanged t)
    else t)

/-- The order accepts an unsettled step (R118). -/
def State.unsettledOk (s : State) : Bool := (s.oe.active.map (·.header.flags.unsettledOk)).getD false

/-- SETTLE_TIMER_EXPIRY (R118). -/
def execSettleTimerExpiry (s : State) : Answer :=
  .next
    (match s.sf.handshake, s.sf.settleTimer with
    | .idle, _ | _, .stopped => s
    | _, .running _ period =>
      let t := s.onSpan Span.handshakeIdle
      settle
        (if t.unsettledOk then handshakeResult .unsettled period t
        else endCondition ⟨.settleTimeout, t.oe.stepIndex⟩ t))

/-- FIXTURE_TIMER_EXPIRY (R121): it runs in MATCHING. -/
def execFixtureTimerExpiry (s : State) : Answer :=
  .next
    (match s.sf.fixture, s.sf.fixtureTimer with
    | .matching, .running _ _ =>
      settle (endCondition ⟨.fixtureTimeout, 0⟩ (s.onSpan fun f => f.captured.inPhase .off))
    | _, _ => s)

end Sys2Proof.Machine
end

