-- ==== Sys2Proof/Machine/StagingEvents.lean ====
section
/-! DEFINITION. The Staging Buffer's grants and stall, and the ends of the Result Writer's accesses (09). -/

namespace Sys2Proof.Machine

/-- ENTRY_GRANT (R153; log 1): a free entry goes to this producer, where it waits and the order of grants
lets it. -/
def execEntryGrant (p : Producer) (s : State) : Answer :=
  .next (if s.entryFree && s.grantable.contains p then settle (grantTo p s) else s)

/-- OUTPUT_STALL (R157; log 1). -/
def execOutputStall (s : State) : Answer :=
  .next
    (match s.stalled with
    | some c => settle (endCondition c s)
    | none => s)

/-! ## Takes (R160, R161) -/

/-- An OFFERED entry with a usable address and length is taken: its take writes begin (R160). -/
def takeEntry (e : SegmentEntry) (s : State) : State :=
  let g : Segment :=
    { index := s.rw.entry, address := e.address, length := e.length, fill := 0, count := 0, firstTag := 0 }
  beginGroup (writeGroup .take (takeWrites s.xbase g))
    { s with rw := { s.rw with doing := .take, target := some g } }

/-- An OFFERED entry with an unusable address or length is taken and closed at once with FAULT (R160;
log 26). -/
def closeFault (s : State) : State :=
  beginGroup (writeGroup .full (faultCloseWrites s.xbase s.rw.entry))
    { s with rw := { s.rw with doing := .full .fault } }

/-- An entry has been read in a take: its state alone, or of an OFFERED one its address and length too (R159,
R160). -/
def entryRead (e : SegmentEntry) (s : State) : State :=
  if !e.offered then nextEntry (endGroup .segmentEntry { s with rw := { s.rw with rest := [] } })
  else if e.usable then takeEntry e (endGroup .segmentEntry s)
  else closeFault (endGroup .segmentEntry s)

/-- SEGMENT_ENTRY_READ (R160). -/
def execSegmentEntryRead (bytes : List Byte) (s : State) : Answer :=
  .next
    (if s.isStray .segmentEntry then endStray .segmentEntry s
    else if s.rw.doing = .entry then entryRead (readSegmentEntry bytes) s
    else s)

/-- SEGMENT_TAKE_WRITTEN: the segment is FILLING, the cursor moves to the entry after it, and the writer writes
(R160, R162). A recheck kept pending during the take is dropped (log 41). -/
def execSegmentTakeWritten (s : State) : Answer :=
  .next
    (if s.isStray .take then endStray .take s
    else match s.rw.doing, s.rw.target with
      | .take, some g =>
        let t := endGroup .take s
        writerNext { t with rw := { t.rw with
          phase := .writing, doing := .none, filling := some g, target := none, recheck := false,
          cursor := (g.index + 1) % Config.segmentEntries } }
      | _, _ => s)

/-! ## Records (R162, R163, R165) -/

/-- After this record the entry's fill, record count and first sequence tag are written (R163). -/
def Record.updatesFill : Record → Bool
  | .stepEnd _ | .orderEnd _ => true
  | .sample _ | .orderBegin _ | .stepBegin _ | .gap _ | .reference _ => false

/-- A record has been written into the FILLING segment: the segment, the order's segment list and the buffer
follow (R162, R165). -/
def recordDone (x : Staged) (g : Segment) (s : State) : State :=
  let w : Writer := { s.rw with doing := .none, filling := some (g.advanced x.record.length x.tag) }
  removeOldest { s with rw := listSegment g.index w }

/-- The writer goes on after a record: the fill update, or the next record (R162, R163). -/
def afterRecord (x : Staged) (g : Segment) (s : State) : State :=
  if x.record.updatesFill then
    beginGroup (writeGroup .fillUpdate (fillWrites s.xbase (g.advanced x.record.length x.tag)))
      { s with rw := { s.rw with doing := .fillUpdate } }
  else writerNext s

/-- RECORD_WRITTEN (R162), with the freed entry granted at the same event (R153). -/
def execRecordWritten (s : State) : Answer :=
  .next
    (if s.isStray .record then endStray .record s
    else match s.rw.doing, s.rw.filling, s.sb.staged with
      | .record, some g, x :: _ =>
        settle (grantFreed (afterRecord x g (recordDone x g (logBus (.ended .record) s))))
      | _, _, _ => s)

/-- FILL_UPDATE_WRITTEN (R163): after the ORDER-end record stage 4 of CLOSING has ended; otherwise the writer
goes on. -/
def execFillUpdateWritten (s : State) : Answer :=
  .next
    (if s.isStray .fillUpdate then endStray .fillUpdate s
    else if s.rw.doing = .fillUpdate then
      let t := endGroup .fillUpdate { s with rw := { s.rw with doing := .none } }
      if t.recordsWritten then endRecords t else writerNext t
    else s)

/-! ## Closes (R164) -/

/-- A close has ended written: what the writer does next, by its reason; after a close with FAULT the cursor
moves past the entry (R160, R162, R163, R168). -/
def afterClose (reason : CloseReason) (s : State) : State :=
  let free : State := { s with rw := { s.rw with doing := .none, filling := none } }
  match reason with
  | .fault =>
    nextEntry { s with rw := { s.rw with
      doing := .none, cursor := (s.rw.entry + 1) % Config.segmentEntries } }
  | .orderEnd =>
    if s.oe.engine = .closing ∧ s.oe.stage = .segment then writerNext (beginCompletion free) else writerNext free
  | .length | .stop => writerNext free

/-- FULL_WRITTEN (R164): SEG_FULL, and no FILLING segment; the entry to STOPPED may complete (R177). -/
def execFullWritten (s : State) : Answer :=
  .next
    (if s.isStray .full then endStray .full s
    else match s.rw.doing with
      | .full reason => settleStopped (afterClose reason (setNotice .segFull (endGroup .full s)))
      | _ => s)

/-! ## Write errors (R167) -/

/-- The kinds of access whose failure BUS_WRITE reports for a source. -/
def sourceKinds : BusSource → List BusKind
  | .resultWriter => [.segmentEntry, .take, .record, .fillUpdate, .full]
  | .orderEngine => [.completion, .terminal]
  | .statusPage => [.statusPage]

/-- An access of this source whose issuer has let go of it, the oldest first. -/
def State.strayOf (s : State) (source : BusSource) : Option BusKind :=
  s.xe.stray.find? fun k => (sourceKinds source).contains k

/-- Such an access fails, and nothing else comes about (R179; log 19). -/
def failStray (kind : BusKind) (s : State) : State :=
  logBus (.failed kind) { s with xe := { s.xe with stray := s.xe.stray.erase kind } }

/-- A write error of the Result Writer, or a read error during a take (R167). -/
def writerFails (s : State) : State :=
  match s.rw.doing.kind with
  | none => s
  | some k => busFault (logBus (.failed k) (breakGroup k s))

/-- A write error of the Order Engine: in the completion, the terminal status, or, from LOADING to CLOSING, the
start fields and IN_PROGRESS (R167, R146; log 21). -/
def orderFails (s : State) : State :=
  match s.oe.doing with
  | .completion => busFault (logBus (.failed .completion) (s.onOrder fun o => { o with doing := .none }))
  | .terminal => busFault (logBus (.failed .terminal) (s.onOrder fun o => { o with doing := .none }))
  | .none | .link _ | .status _ _ | .header | .zoneTable | .correction _ =>
    if s.oe.engine.running || s.oe.engine == .closing then busFault (logBus (.failed .loading) s) else s

/-- A write error of the Status Page: BUS_WRITE, except in STOPPED, which shows the cause and completes its
entry; in FAULTED it stops the writer, and a page asked for meanwhile is written unless the cause is BUS_WRITE
(R182, R177, R178). -/
def pageFails (s : State) : State :=
  if s.xe.pageBusy then
    let t := logBus (.failed .statusPage) { s with xe := { s.xe with pageBusy := false } }
    if s.uc.unit = .stopped then
      let t : State := { t with uc := { t.uc with cause := some .busWrite } }
      settleStopped (if t.xe.pageQueued then beginPage t else t)
    else
      let u := busFault { t with xe := { t.xe with pageQueued := false } }
      if s.uc.unit = .faulted ∧ s.xe.pageQueued = true then requestPage u else u
  else s

/-- BUS_WRITE (R167). -/
def execBusWrite (source : BusSource) (s : State) : Answer :=
  .next
    (match s.strayOf source, source with
    | some k, _ => failStray k s
    | none, .resultWriter => writerFails s
    | none, .orderEngine => orderFails s
    | none, .statusPage => pageFails s)

end Sys2Proof.Machine
end

