-- ==== Sys2Proof/Machine/UnitEvents.lean ====
section
/-! DEFINITION. The Cell Record's read, and unit control's own steps (10.2, 10.5). -/

namespace Sys2Proof.Machine

/-! ## CELL_RECORD_READ (R173) -/

/-- The tracker takes its configuration and enters SEEKING (R3, R7). -/
def Tracker.seeking (t : Tracker) (c : TrackerConfig) (now : Time) : Tracker :=
  { t with state := .seeking, rawCount := 0, travel := none, config := some c,
           homingTimer := .running now (1000 * c.maxPeriod), indexWatch := .stopped }

/-- The reference configuration of a Cell Record (R100). -/
def CellRecord.reference (c : CellRecord) : RefConfig :=
  { start := c.refStart, length := c.refLength, pitch := c.refPitch, floor := c.refFloor, interval := c.interval,
    driftLimit := c.driftLimit, driftAction := c.driftAction.getD .warn }

/-- Every block takes its values from the Cell Record (R173). -/
def takeCell (c : CellRecord) (s : State) : State :=
  let t : TrackerConfig :=
    { cpr := c.cpr, origin := c.origin, sense := c.sense.getD .forward, maxPeriod := c.maxPeriod }
  { s with
    tracker := s.tracker.seeking t s.xe.time
    ports := .of fun h => { s.ports.get h with config := some (c.heads.get h) }
    light := { s.light with mode := c.recovery.getD .auto }
    mon0 := { selection := c.mon0.getD .none, pulse := false }
    mon1 := { selection := c.mon1.getD .none, pulse := false }
    rc := { s.rc with config := some c.reference }
    sf := { s.sf with config := some c.span }
    sb := { s.sb with stallLimit := some c.stallLimit }
    oe := { s.oe with lightGrace := some c.lightGrace } }

/-- A present head is woken at START (R43, R173). -/
def wakePresent (h : Head) (s : State) : State :=
  if ((s.ports.get h).config.map (·.present)).getD false then wakeHead h s else s

/-- The wakes of START: the present heads are woken, and those that are then WAKING are waited for (R173,
R174). -/
def startWakes (s : State) : State :=
  let t := forHeads wakePresent s
  let awaited : HeadSet := .of fun h =>
    ((t.ports.get h).config.map (·.present)).getD false && (t.ports.get h).state == .waking
  { t with uc := { t.uc with startWakes := awaited } }

/-- The Cell Record has been read: CELL_INVALID when a check fails or the read did; otherwise every block takes
its values, homing starts, and the present heads are woken (R173). -/
def cellFound (r : ReadResult) (s : State) : State :=
  match r with
  | .error => enterFaulted .cellInvalid s
  | .data bs =>
    if (readCellRecord bs).valid then startWakes (takeCell (readCellRecord bs) s)
    else enterFaulted .cellInvalid s

/-- CELL_RECORD_READ (R173). -/
def execCellRecordRead (r : ReadResult) (s : State) : Answer :=
  .next
    (if s.isStray .cellRecord then endStray .cellRecord s
    else if s.uc.cellReading then
      settle (cellFound r (endRead .cellRecord r { s with uc := { s.uc with cellReading := false } }))
    else s)

/-! ## Unit control's steps -/

/-- UNIT_RUNNING (R174; log 1). -/
def execUnitRunning (s : State) : Answer := .next (settleUnit s)

/-- STATUS_PAGE_WRITTEN (R182): a page asked for meanwhile is begun, and the entry to STOPPED may complete
(R177). -/
def execStatusPageWritten (s : State) : Answer :=
  .next
    (if s.isStray .statusPage then endStray .statusPage s
    else if s.xe.pageBusy then
      let t := logBus (.ended .statusPage) { s with xe := { s.xe with pageBusy := false } }
      settleStopped (if t.xe.pageQueued then beginPage t else t)
    else s)

/-- STOPPED_ENTRY_COMPLETE (R177; log 1). -/
def execStoppedEntryComplete (s : State) : Answer := .next (settleStopped s)

end Sys2Proof.Machine
end

