-- ==== Sys2Proof/Machine/Dispatch.lean ====
section
/-! DEFINITION. One arm per command: each calls the meaning of that command. -/

namespace Sys2Proof.Machine

/-- The effect of a command on everything but the queue. -/
def exec (i : Instr) (s : State) : Host.Outcome State Fault Refusal :=
  match i with
  | .start => Sys2Proof.Machine.execStart s
  | .halt => Sys2Proof.Machine.execHalt s
  | .abort => Sys2Proof.Machine.execAbort s
  | .resume => Sys2Proof.Machine.execResume s
  | .stop => Sys2Proof.Machine.execStop s
  | .softReset levels => Sys2Proof.Machine.execSoftReset levels s
  | .nudge value => Sys2Proof.Machine.execNudge value s
  | .noteRawWrite value => Sys2Proof.Machine.execNoteRawWrite value s
  | .noteEnWrite value => Sys2Proof.Machine.execNoteEnWrite value s
  | .registerWrite offset enables value => Sys2Proof.Machine.execRegisterWrite offset enables value s
  | .coldReset levels => Sys2Proof.Machine.execColdReset levels s
  | .countStep phase index => Sys2Proof.Machine.execCountStep phase index s
  | .illegalTransition => Sys2Proof.Machine.execIllegalTransition s
  | .homingTimerExpiry => Sys2Proof.Machine.execHomingTimerExpiry s
  | .indexWatchExpiry => Sys2Proof.Machine.execIndexWatchExpiry s
  | .seriesComplete h => Sys2Proof.Machine.execSeriesComplete h s
  | .readyReceived h => Sys2Proof.Machine.execReadyReceived h s
  | .sampleReceived h m => Sys2Proof.Machine.execSampleReceived h m s
  | .alertReceived h code => Sys2Proof.Machine.execAlertReceived h code s
  | .frameError h => Sys2Proof.Machine.execFrameError h s
  | .linkLoss h => Sys2Proof.Machine.execLinkLoss h s
  | .wakeTimerExpiry h => Sys2Proof.Machine.execWakeTimerExpiry h s
  | .responseTimerExpiry h => Sys2Proof.Machine.execResponseTimerExpiry h s
  | .lightJudgedLow => Sys2Proof.Machine.execLightJudgedLow s
  | .lightJudgedGood => Sys2Proof.Machine.execLightJudgedGood s
  | .monPulseEnd m => Sys2Proof.Machine.execMonPulseEnd m s
  | .filterLimit h => Sys2Proof.Machine.execFilterLimit h s
  | .referenceDue h => Sys2Proof.Machine.execReferenceDue h s
  | .referenceOverdue h => Sys2Proof.Machine.execReferenceOverdue h s
  | .passageComplete h => Sys2Proof.Machine.execPassageComplete h s
  | .takenLevelChange line => Sys2Proof.Machine.execTakenLevelChange line s
  | .settleTimerExpiry => Sys2Proof.Machine.execSettleTimerExpiry s
  | .fixtureTimerExpiry => Sys2Proof.Machine.execFixtureTimerExpiry s
  | .linkRead r => Sys2Proof.Machine.execLinkRead r s
  | .blockStatusRead r => Sys2Proof.Machine.execBlockStatusRead r s
  | .headerRead r => Sys2Proof.Machine.execHeaderRead r s
  | .zoneTableRead r => Sys2Proof.Machine.execZoneTableRead r s
  | .correctionTableRead r => Sys2Proof.Machine.execCorrectionTableRead r s
  | .loadingEnd => Sys2Proof.Machine.execLoadingEnd s
  | .lightGraceExpiry => Sys2Proof.Machine.execLightGraceExpiry s
  | .lightWaitDeparture => Sys2Proof.Machine.execLightWaitDeparture s
  | .drainComplete => Sys2Proof.Machine.execDrainComplete s
  | .completionWritten => Sys2Proof.Machine.execCompletionWritten s
  | .terminalStatusWritten => Sys2Proof.Machine.execTerminalStatusWritten s
  | .entryGrant p => Sys2Proof.Machine.execEntryGrant p s
  | .outputStall => Sys2Proof.Machine.execOutputStall s
  | .segmentEntryRead bytes => Sys2Proof.Machine.execSegmentEntryRead bytes s
  | .segmentTakeWritten => Sys2Proof.Machine.execSegmentTakeWritten s
  | .recordWritten => Sys2Proof.Machine.execRecordWritten s
  | .fillUpdateWritten => Sys2Proof.Machine.execFillUpdateWritten s
  | .fullWritten => Sys2Proof.Machine.execFullWritten s
  | .busWrite source => Sys2Proof.Machine.execBusWrite source s
  | .cellRecordRead r => Sys2Proof.Machine.execCellRecordRead r s
  | .unitRunning => Sys2Proof.Machine.execUnitRunning s
  | .statusPageWritten => Sys2Proof.Machine.execStatusPageWritten s
  | .stoppedEntryComplete => Sys2Proof.Machine.execStoppedEntryComplete s
  | .linkActivity h => Sys2Proof.Machine.execLinkActivity h s

end Sys2Proof.Machine
end

