-- ==== Sys2Proof/Machine/Step.lean ====
section
/-! DEFINITION. One step: the command at the front of the queue, or one microsecond of the Time Base on an empty queue. -/

namespace Sys2Proof.Machine

/-- The Time Base counts one microsecond, wrapping at 2^48 (R183; log 3). -/
def tick (s : State) : State := { s with xe := { s.xe with time := s.xe.time + 1 } }

/-- The command at the front of the queue is taken, with the rest left waiting; on an empty queue the block
idles for one microsecond of its Time Base (log 3). -/
def step (s : State) : Host.Outcome State Fault Refusal :=
  match s.pending with
  | [] => .next (tick s)
  | c :: rest => exec c { s with pending := rest }

/-- The command that a word spells, put at the front of the queue; no word spells one (log 3, log 4). -/
def State.withFetchWord (s : State) (nbits w : Nat) : State :=
  match decodeTableWord nbits w with
  | some c => { s with pending := c :: s.pending }
  | none => s

end Sys2Proof.Machine
end

