-- ==== Sys2Proof/Safety.lean ====
section
/-! DEFINITION. What counts as a sound state of the 6420, in the terms the claims use: the capacities, the alignment, the single FILLING segment and the balance of the counts that the rules call laws, and what the part's own steps at the end of an event leave alone. -/

namespace Sys2Proof.Machine

/-- A staged record is a sample record. -/
def Staged.isSample (x : Staged) : Bool := x.record.isSample

/-- The Staging Buffer is within its capacity: at most 1,024 records, of which at most 1,016 samples
(R151). -/
def bufferWithin (l : List Staged) : Prop :=
  l.length ≤ Config.bufferRoom ∧ (l.filter Staged.isSample).length ≤ Config.sampleRoom

/-- Every in-flight list is within its capacity of 8 entries (R48). -/
def flightsWithin (p : PerHead Port) : Prop := ∀ h, (p.get h).inFlight.length ≤ Config.inFlightRoom

/-- Both revisit lists are within their capacity of 128 entries (R84). -/
def listsWithin (u : Revisit) : Prop :=
  u.current.length ≤ Config.revisitRoom ∧ u.next.length ≤ Config.revisitRoom

/-- The Exchange Area base is 4 KiB aligned: bits 11 to 0 of XBASE_L are 0 (R169). -/
def baseAligned (x : Word) : Prop := x &&& 0xFFF = 0

/-- The order's segment list is within its capacity of 32 indices (R165). -/
def segmentsWithin (w : Writer) : Prop := w.segments.length ≤ Config.segmentListRoom

/-- The writer is in a take or in a recheck of STARVED, or waits STARVED (R160, R161). -/
def Writer.searching (w : Writer) : Prop := w.phase = .taking ∨ w.phase = .starved

/-- The writer's access in progress is one of its phase's own: a take's accesses and the close of an unusable
entry while it searches (the phase of that close is the model's reading, log 26); a record or its fill update,
and a close for another reason, with a FILLING segment alone (R160, R162, R164). -/
def Writer.accessFits (w : Writer) : Prop :=
  match w.doing with
  | .none => True
  | .entry | .take | .full .fault => w.searching
  | .record | .fillUpdate => w.phase = .writing ∧ w.filling ≠ none
  | .full .length | .full .orderEnd | .full .stop => w.phase = .closingSegment ∧ w.filling ≠ none

/-- A writer that searches the Segment Table has no FILLING segment, and its access in progress fits its phase:
so it takes no segment while another is FILLING (R164). -/
structure WriterSound (w : Writer) : Prop where
  noneFilling : w.searching → w.filling = none
  accessFits : w.accessFits

/-! ## The order's counts (R80) -/

/-- A burst group as it stands in a list: its exposures in order, of one pass, abandoned all or none, with the
last one not yet retired (R48 to R53). -/
structure BurstGroup (g : List InFlight) : Prop where
  ordinals : g.map (·.ordinal) = (List.range g.length).map (· + 1)
  nonempty : g ≠ []
  burst : ∀ e ∈ g, e.burst = g.length
  pass : ∀ e ∈ g, ∀ f ∈ g, e.pass = f.pass
  marks : ∀ e ∈ g, ∀ f ∈ g, e.abandoned = f.abandoned
  lastOpen : ∀ e ∈ g, e.ordinal = e.burst → e.result = none

/-- A list is made of whole burst groups. -/
def Grouped (l : List InFlight) : Prop := ∃ gs : List (List InFlight), l = gs.flatten ∧ ∀ g ∈ gs, BurstGroup g

/-- The burst groups of a list that are open: issued in a scan pass, neither completed nor abandoned (R53). -/
def openGroups (l : List InFlight) : Nat := (groupsOf (l.filter InFlight.openScan)).length

/-- The open groups of all heads. -/
def State.openGroups (s : State) : Nat :=
  Machine.openGroups (s.ports.get .h0).inFlight + Machine.openGroups (s.ports.get .h1).inFlight
    + Machine.openGroups (s.ports.get .h2).inFlight + Machine.openGroups (s.ports.get .h3).inFlight

/-- The issued points of an order that have ended: accepted, rejected, dropped or abandoned (R80). -/
def Counts.ended (c : Counts) : Nat := c.accepted + c.rejected + c.dropped + c.abandoned

/-- The counts balance: each point issued has ended or is an open group (R80). -/
def State.balanced (s : State) : Prop := s.oe.counts.issued = s.oe.counts.ended + s.openGroups

/-- An order is active whose header and tables have all been read: its counts run. -/
def State.countsOrder (s : State) : Prop :=
  s.oe.active.isSome = true
    ∧ match s.oe.doing with
      | .header | .zoneTable | .correction _ => False
      | .none | .link _ | .status _ _ | .completion | .terminal => True

/-- Every zone of a table issues at least one exposure (R18, check 11). -/
def burstsIssue (t : Option ZoneTable) : Prop := ∀ z, t = some z → ∀ x ∈ z.zones, x.burst ≠ 0

/-- A head's scan record names a scan pass, its reference record a reference passage (R24, R34). -/
def HeadPasses.kindsFit (p : HeadPasses) : Prop := p.scan.pass.kind ≠ .reference ∧ p.ref.pass.kind = .reference

/-- The in-flight lists are made of whole groups, and what issues into them issues whole groups of its own kind
of pass: the pass records, and the zone table in use or about to be. -/
structure FlightsSound (s : State) : Prop where
  grouped : ∀ h, Grouped (s.ports.get h).inFlight
  zones : burstsIssue s.tg.zones
  tables : ∀ h a, s.oe.doing = .correction h → s.oe.active = some a → burstsIssue a.zones
  kinds : ∀ h, (s.tg.heads.get h).kindsFit

/-- A step that goes on: the machine answers a next state. -/
def goesOn (s : State) : Prop := ∃ t, step s = .next t

/-- An entry of an in-flight list without its abandoned mark. -/
def InFlight.unmarked (e : InFlight) : InFlight := { e with abandoned := false }

/-- Two ports agree in all but abandoned marks and the records they hold: state, fault record, timers, counters,
in-flight list, configuration, link watch and everything sent. -/
structure SameLink (p q : Port) : Prop where
  state : q.state = p.state
  faultRecord : q.faultRecord = p.faultRecord
  wakeTimer : q.wakeTimer = p.wakeTimer
  wakePending : q.wakePending = p.wakePending
  seqCounter : q.seqCounter = p.seqCounter
  config : q.config = p.config
  timeoutInForce : q.timeoutInForce = p.timeoutInForce
  linkWatch : q.linkWatch = p.linkWatch
  sent : q.sent = p.sent
  inFlight : q.inFlight.map InFlight.unmarked = p.inFlight.map InFlight.unmarked

/-- The queue and the values that only register writes, unit commands and the Time Base change stand. -/
structure SameRegisters (s t : State) : Prop where
  xbaseL : t.xe.xbaseL = s.xe.xbaseL
  xbaseH : t.xe.xbaseH = s.xe.xbaseH
  ucmdCode : t.xe.ucmdCode = s.xe.ucmdCode
  ucmdResult : t.xe.ucmdResult = s.xe.ucmdResult
  noteEn : t.xe.noteEn = s.xe.noteEn
  time : t.xe.time = s.xe.time
  pending : t.pending = s.pending

/-- `t` comes from `s` by steps of the Order Engine, the Revisit Unit, the Reference Check Unit and the
buffers alone, the steps that the part takes at the end of an event: the encoder, the heads, the light, the
lines, the registers and the unit's cause stand as they stood; staged records, notices and bus accesses are
only added; the unit stays in its state, or goes from STARTING to RUNNING. -/
structure Steady (s t : State) : Prop where
  tracker : t.tracker = s.tracker
  ports : ∀ h, SameLink (s.ports.get h) (t.ports.get h)
  light : t.light = s.light
  mon0 : t.mon0 = s.mon0
  mon1 : t.mon1 = s.mon1
  tables : ∀ h, (t.qu.heads.get h).table = (s.qu.heads.get h).table
  reference : t.rc.config = s.rc.config
  waitLines : t.sf.w = s.sf.w
  fixtureLines : t.sf.f = s.sf.f
  lineConfig : t.sf.config = s.sf.config
  activeTag : t.oe.activeTag = s.oe.activeTag
  dropFlag : t.sb.dropFlag = s.sb.dropFlag
  stallCount : t.sb.stallCount = s.sb.stallCount
  discarded : t.sb.discarded = s.sb.discarded
  staged : s.sb.staged <+: t.sb.staged
  highWater : s.sb.highWater ≤ t.sb.highWater
  cursor : t.rw.cursor = s.rw.cursor
  segments : t.rw.segments = s.rw.segments
  overflow : t.rw.overflow = s.rw.overflow
  filling : t.rw.filling = s.rw.filling
  xbaseL : t.xe.xbaseL = s.xe.xbaseL
  xbaseH : t.xe.xbaseH = s.xe.xbaseH
  ucmdCode : t.xe.ucmdCode = s.xe.ucmdCode
  ucmdResult : t.xe.ucmdResult = s.xe.ucmdResult
  noteEn : t.xe.noteEn = s.xe.noteEn
  time : t.xe.time = s.xe.time
  stray : t.xe.stray = s.xe.stray
  notices : ∀ n, s.notice n = true → t.notice n = true
  bus : s.xe.bus <+: t.xe.bus
  cause : t.uc.cause = s.uc.cause
  stopping : t.uc.stopping = s.uc.stopping
  fault : t.uc.fault = s.uc.fault
  cellReading : t.uc.cellReading = s.uc.cellReading
  startWakes : t.uc.startWakes = s.uc.startWakes
  unit : t.uc.unit = s.uc.unit ∨ (s.uc.unit = .starting ∧ t.uc.unit = .running)
  pending : t.pending = s.pending

/-- Two ports agree in the state, fault record, wake, configuration and link watch of their head. -/
structure SameHead (p q : Port) : Prop where
  state : q.state = p.state
  faultRecord : q.faultRecord = p.faultRecord
  wakeTimer : q.wakeTimer = p.wakeTimer
  wakePending : q.wakePending = p.wakePending
  config : q.config = p.config
  timeoutInForce : q.timeoutInForce = p.timeoutInForce
  linkWatch : q.linkWatch = p.linkWatch

/-- `t` comes from `s` by the scan going on: angle arrivals taken, triggers issued, outcomes handled, index
arrivals delivered, and the steps of `Steady`. -/
structure Onward (s t : State) : Prop where
  tracker : t.tracker = s.tracker
  ports : ∀ h, SameHead (s.ports.get h) (t.ports.get h)
  light : t.light = s.light
  tables : ∀ h, (t.qu.heads.get h).table = (s.qu.heads.get h).table
  reference : t.rc.config = s.rc.config
  waitLines : t.sf.w = s.sf.w
  fixtureLines : t.sf.f = s.sf.f
  lineConfig : t.sf.config = s.sf.config
  activeTag : t.oe.activeTag = s.oe.activeTag
  discarded : t.sb.discarded = s.sb.discarded
  staged : s.sb.staged <+: t.sb.staged
  highWater : s.sb.highWater ≤ t.sb.highWater
  cursor : t.rw.cursor = s.rw.cursor
  segments : t.rw.segments = s.rw.segments
  overflow : t.rw.overflow = s.rw.overflow
  filling : t.rw.filling = s.rw.filling
  xbaseL : t.xe.xbaseL = s.xe.xbaseL
  xbaseH : t.xe.xbaseH = s.xe.xbaseH
  ucmdCode : t.xe.ucmdCode = s.xe.ucmdCode
  ucmdResult : t.xe.ucmdResult = s.xe.ucmdResult
  noteEn : t.xe.noteEn = s.xe.noteEn
  time : t.xe.time = s.xe.time
  stray : t.xe.stray = s.xe.stray
  notices : ∀ n, s.notice n = true → t.notice n = true
  bus : s.xe.bus <+: t.xe.bus
  cause : t.uc.cause = s.uc.cause
  stopping : t.uc.stopping = s.uc.stopping
  fault : t.uc.fault = s.uc.fault
  cellReading : t.uc.cellReading = s.uc.cellReading
  startWakes : t.uc.startWakes = s.uc.startWakes
  unit : t.uc.unit = s.uc.unit ∨ (s.uc.unit = .starting ∧ t.uc.unit = .running)
  pending : t.pending = s.pending

/-! ## What the steps of an order leave (R25, R89, R121, R136, R137, R140) -/

/-- From `s` to `u`, the entry to ACQUIRING of a step of this order: both lists empty in phase ACQUIRING, and
every head of the mask not excluded armed for the R normal passes (R25, R89). -/
structure PassesArmed (a : OrderHeader) (s u : State) : Prop where
  lists : u.ru = { current := [], next := [], round := 0, phase := .acquiring, awaited := .all false, held := none,
                   unresolvedStaged := 0 }
  armed : ∀ h, a.mask.get h = true → s.oe.excluded.get h = false →
    u.scan h = { state := .waitingStart, pass := ⟨.normal, 0⟩, armed := a.revolutions, position := none, reach := 0,
                 zone := none, nextTrigger := none, withheld := false }
    ∧ (u.tg.heads.get h).seriesOpen = true
  zones : u.tg.zones = s.tg.zones
  reference : ∀ h, u.ref h = s.ref h

/-- From `s` to `u`, an entry to LIGHT_WAIT: no scan record armed, the lists as they stood (R38, R97, R140). -/
structure PassesDisarmed (s u : State) : Prop where
  lists : u.ru = s.ru
  disarmed : ∀ h, (u.scan h).state = .notArmed ∧ (u.scan h).reach = 0 ∧ (u.scan h).nextTrigger = none
    ∧ (u.tg.heads.get h).seriesOpen = false
  zones : u.tg.zones = s.tg.zones
  reference : ∀ h, u.ref h = s.ref h

/-- From `s` to `u`, a SCAN order enters ACQUIRING, its engine otherwise as `oe`: the passes armed and the other
heads' records as they stood, or LIGHT_WAIT where the light condition is present (R137, R140). -/
structure AcquiringEntered (a : OrderHeader) (oe : OrderEngine) (s u : State) : Prop where
  acquiring : s.light.present = false → u.oe = { oe with engine := .acquiring } ∧ PassesArmed a s u
    ∧ ∀ h, ¬(a.mask.get h = true ∧ s.oe.excluded.get h = false) → u.tg.heads.get h = s.tg.heads.get h
  lightWait : s.light.present = true →
    u.oe = { oe with engine := .lightWait, grace := 0, interrupting := false } ∧ PassesDisarmed s u

/-- From `s` to `u`, the end of ARMING, the engine otherwise as `oe` and the line interface as `f`: a SCAN order
makes the step request of its step 0, a CALIBRATE_REFERENCE order enters ACQUIRING or LIGHT_WAIT with its
calibration tallies cleared, and the Reference Check Unit takes its mode (R101, R109, R115, R136, R149). -/
structure ArmingEnded (a : OrderHeader) (oe : OrderEngine) (f : Span) (s u : State) : Prop where
  scan : a.kind = some .scan →
    u.oe = { oe with engine := .stepMove, stepRestarts := 0 } ∧ u.tg = s.tg ∧ u.ru = s.ru
    ∧ u.rc = { s.rc with mode := if a.flags.referenceChecks then .checking else .off }
    ∧ ∀ c, f.config = some c → u.sf = { f with
      handshake := if f.settleActive then .requesting else .settling
      stepReq := f.settleActive
      requestTime := s.xe.time
      settleTimer := .running s.xe.time ((c.settleLimit + 1) * 10000) }
  calibrate : a.kind = some .calibrateReference →
    u.sf = f
    ∧ u.rc = { s.rc with
      mode := .calibrating
      heads := .of fun h =>
        if a.mask.get h then { s.rc.heads.get h with calDone := 0, calTally := ⟨0, 0, 0⟩ } else s.rc.heads.get h }
    ∧ (s.light.present = false → u.oe = { oe with engine := .acquiring } ∧ u.tg = s.tg ∧ u.ru = s.ru)
    ∧ (s.light.present = true →
        u.oe = { oe with engine := .lightWait, grace := 0, interrupting := false } ∧ PassesDisarmed s u)

/-- Nothing but an order's own step is due: no reference check runs, no series is open, and the unit is past
STARTING. -/
structure Quiet (s : State) : Prop where
  mode : s.rc.mode = .off
  series : ∀ h, (s.tg.heads.get h).seriesOpen = false
  unit : s.uc.unit ≠ .starting

/-- The place of a phase pair (ENC_A, ENC_B) in the up-count order of R1. -/
def quadraturePlace (a b : Bool) : Nat :=
  match a, b with
  | false, false => 0
  | true, false => 1
  | true, true => 2
  | false, true => 3

end Sys2Proof.Machine
end

