-- ==== Sys2Proof/Certificates/Slice0/Obligations.lean ====
section
/-! DEFINITION. The statements put to the provers: one def Obligations.<Name> for each entry of OBLIGATIONS.json. -/

open Sys2Proof Sys2Proof.Machine

/-- O1. A step takes the command at the front of the queue and runs it on the rest. The model's choices and
readings in it: log 2. -/
def Obligations.StepRunsFrontCommand : Prop :=
  ∀ (c : Instr) (rest : List Instr) (s : State), s.pending = c :: rest → step s = exec c { s with pending := rest }

/-- O2. A reference passage fires its points once, ends with their number, gathers its outcomes, or ends
without a verdict. That no pending gap is offered at the end of a passage is the model's reading of R30 and
R155 (log 33). The model's choices and readings in it: log 1, log 33. -/
def Obligations.ReferencePassageRunsAndEnds : Prop :=
  (∀ (s : State) (c : RefConfig) (h : Head) (offset : Nat) (rev : Rev), 1 ≤ c.pitch → 1 ≤ c.length →
    let r := s.ref h
    let u := refForward c h offset rev s
    let above (p : Nat) (next : Option Nat) : Prop :=
      (next = none ∧ ∀ k : Nat, k * c.pitch < c.length → k * c.pitch ≤ p)
      ∨ ∃ k : Nat, next = some (angleOf s.cpr c.start (k * c.pitch)) ∧ p < k * c.pitch ∧ k * c.pitch < c.length
          ∧ ∀ j : Nat, p < j * c.pitch → k * c.pitch ≤ j * c.pitch
    let moved (x : PassRecord) : State := { s with
      tg := { s.tg with heads := s.tg.heads.set h { s.tg.heads.get h with ref := x } } }
    let due (p : Nat) (t : State) : State := refPointDue h
      { point := angleOf s.cpr c.start p, zone := none, pass := r.pass, step := s.stepOfPass, revolution := rev,
        expClass := 0, floor := c.floor, burst := 1 } t
    ((r.state = .notArmed ∨ r.state = .done) → u = s)
    ∧ (r.state = .waitingStart → offset ≠ 0 → u = s)
    ∧ (r.state = .waitingStart → offset = 0 → ∃ next, above 0 next
        ∧ u = due 0 (moved { r with state := .inPass, position := some 0, reach := 0, nextTrigger := next }))
    ∧ ∀ q : Int, r.state = .inPass → r.position = some (q - 1) →
      (q < 0 → u = moved { r with position := some q })
      ∧ (∀ p : Nat, q = (p : Int) → p < c.length →
        (r.nextTrigger ≠ some (angleOf s.cpr c.start p) →
          u = moved { r with position := some q, reach := max r.reach p })
        ∧ (r.nextTrigger = some (angleOf s.cpr c.start p) → ∃ next, above p next
          ∧ u = due p (moved { r with position := some q, reach := max r.reach p, nextTrigger := next })))
      ∧ (q = (c.length : Int) →
        let x := s.rc.heads.get h
        let ended : State := moved { r with
          state := .done, position := none, reach := max r.reach c.length, zone := none, nextTrigger := none,
          withheld := false }
        (x.passage ≠ .opened → u = ended)
        ∧ (x.passage = .opened → u = { ended with rc := { s.rc with heads := s.rc.heads.set h { x with
            endTaken := true
            tally := { x.tally with
              triggers := (s.tg.heads.get h).refIssued + (s.tg.heads.get h).refSkipped } } } })))
    ∧ (∀ (s : State) (h : Head) (r : Request), r.burst = 1 →
      let p := s.ports.get h
      let g := s.tg.heads.get h
      let u := refPointDue h r s
      let issued : InFlight :=
        { seq := p.seqCounter, point := r.point, zone := r.zone, pass := r.pass, step := r.step,
          revolution := r.revolution, expClass := r.expClass, floor := r.floor, ordinal := 1, burst := 1,
          issueTime := s.xe.time, abandoned := false,
          timer := .running s.xe.time (10 * p.timeoutInForce.toNat), result := none }
      ((p.state = .ready ∧ p.inFlight.length < 8) →
        u.ports = s.ports.set h { p with
          sent := p.sent ++ [.trigger p.seqCounter r.expClass]
          seqCounter := p.seqCounter + 1
          inFlight := p.inFlight ++ [issued] }
        ∧ u.tg = { s.tg with heads := s.tg.heads.set h { g with refIssued := g.refIssued + 1 } }
        ∧ u.oe = s.oe ∧ u.rc = s.rc ∧ u.ru = s.ru ∧ u.sb = s.sb ∧ u.xe = s.xe)
      ∧ (¬(p.state = .ready ∧ p.inFlight.length < 8) → u = { s with
          tg := { s.tg with heads := s.tg.heads.set h { g with refSkipped := g.refSkipped + 1 } } }))
    ∧ (∀ (s : State) (h : Head) (e : InFlight) (xs : List Exposure), e.pass.kind = .reference →
      let u := qualify h e xs s
      let x := chosenExposure xs
      let r := s.rc.heads.get h
      u.oe = s.oe ∧ u.sb = s.sb ∧ u.ru = s.ru ∧ u.qu = s.qu ∧ u.ports = s.ports
      ∧ ((r.passage = .opened ∧ judge x e.floor = .none) →
        u.rc = { s.rc with heads := s.rc.heads.set h { r with tally := { r.tally with
          good := r.tally.good + 1, sum := r.tally.sum + (s.qu.heads.get h).table.correct x.raw } } })
      ∧ (¬(r.passage = .opened ∧ judge x e.floor = .none) → u.rc = s.rc))
    ∧ (∀ (s : State) (h : Head), (s.ports.get h).state = .ready →
      let r := s.rc.heads.get h
      let left (u : State) : Prop :=
        (r.passage = .opened →
          u.rc.heads.get h = { r with passage := .idle, tally := ⟨0, 0, 0⟩, endTaken := false }
          ∧ (u.ref h).state = .notArmed)
        ∧ ∀ y ∈ u.sb.staged, ∀ z, y.record = .reference z → y ∈ s.sb.staged
      (∀ c : Instr, (c = .frameError h ∨ c = .readyReceived h ∨ (∃ code, c = .alertReceived h code)
          ∨ ((s.ports.get h).linkWatch = true ∧ c = .linkLoss h)
          ∨ (∃ m, (∀ x, oldestOpen (s.ports.get h).inFlight = some x → x.seq ≠ m.seq) ∧ c = .sampleReceived h m)
          ∨ (s.light.judgement ≠ .low ∧ s.light.present = false ∧ c = .lightJudgedLow)) →
        ∃ u, exec c s = .next (settle u) ∧ left u)
      ∧ (s.light.present = false → left (wakeHead h s)))
    ∧ ∀ (s : State) (slot : EndSlot), s.oe.engine.running = true → s.oe.endSlot = none →
      let t := endCondition slot s
      (∀ h, let r := s.rc.heads.get h
        t.rc.heads.get h = (if r.passage = .opened then
            { r with passage := .idle, tally := ⟨0, 0, 0⟩, endTaken := false } else r)
        ∧ (t.ref h).state = .notArmed
        ∧ (t.ports.get h).inFlight = (s.ports.get h).inFlight.map fun e =>
            if e.pass.kind = .reference then { e with abandoned := true } else e)
      ∧ ∀ y ∈ t.sb.staged, ∀ z, y.record = .reference z → y ∈ s.sb.staged

/-- O3. Every command answers a next state and leaves the queue; on an empty queue the Time Base counts (the
model's choice, log 3). The model's choices and readings in it: log 3. -/
def Obligations.CommandsLeaveQueueAndIdleStepsCount : Prop :=
  (∀ (c : Instr) (s : State), ∃ t, exec c s = .next t ∧ t.pending = s.pending)
    ∧ (∀ s : State, s.pending = [] → step s = .next { s with xe := { s.xe with time := s.xe.time + 1 } })

/-- O4. Edges follow the up-count order; in IDLE and LOST they change the encoder inputs alone (the model's
choice, log 8). The model's choices and readings in it: log 8, log 36. -/
def Obligations.UncountedStepsMoveInputsOnly : Prop :=
  (∀ (t : Tracker) (p : Phase) (index : Bool),
    quadraturePlace (t.edge p index).encA (t.edge p index).encB
      = if t.isUp p then (quadraturePlace t.encA t.encB + 1) % 4 else (quadraturePlace t.encA t.encB + 3) % 4)
    ∧ (∀ (s : State) (p : Phase) (index : Bool),
    ((s.tracker.state = .idle ∨ s.tracker.state = .lost) →
      exec (.countStep p index) s = .next { s with tracker := s.tracker.edge p index })
    ∧ ((s.tracker.state = .idle ∨ s.tracker.state = .lost ∨ s.tracker.state = .seeking) →
      exec .illegalTransition s
        = .next { s with tracker := { s.tracker with encA := !s.tracker.encA, encB := !s.tracker.encB } }))

/-- O5. Homing counts every step, finds the first index and takes an illegal transition for a mismatch. -/
def Obligations.HomingCountsItsSteps : Prop :=
  (∀ (s : State) (c : TrackerConfig) (p : Phase) (index : Bool),
    s.tracker.state = .seeking → s.tracker.config = some c → s.tracker.rawCount < c.cpr →
    exec (.countStep p index) s = .next { s with
      tracker :=
      if isIndexArrival (s.tracker.isUp p) s.tracker.index index then
        { s.tracker.edge p index with
          state := .measuring
          rawCount := if s.tracker.isUp p then 0 else c.cpr - 1
          travel := some (if s.tracker.isUp p then 0 else -1)
          homingTimer := .running s.xe.time (1000 * c.maxPeriod) }
      else
        { s.tracker.edge p index with
          rawCount := if s.tracker.isUp p then (s.tracker.rawCount + 1) % c.cpr
                      else (s.tracker.rawCount + c.cpr - 1) % c.cpr } })
    ∧ (∀ (s : State) (c : TrackerConfig) (n : Int) (p : Phase) (index : Bool),
    s.tracker.state = .measuring → s.tracker.config = some c → s.tracker.travel = some n →
    s.tracker.rawCount < c.cpr →
    (isIndexArrival (s.tracker.isUp p) s.tracker.index index = false →
      exec (.countStep p index) s = .next { s with
      tracker :=
        { s.tracker.edge p index with
          rawCount := if s.tracker.isUp p then (s.tracker.rawCount + 1) % c.cpr
                      else (s.tracker.rawCount + c.cpr - 1) % c.cpr
          travel := some (if s.tracker.isUp p then n + 1 else n - 1) } })
    ∧ (s.uc.unit = .starting →
      ∃ t, exec .illegalTransition s = .next t ∧ t.tracker.state = .lost
        ∧ t.tracker.rawCount = s.tracker.rawCount ∧ t.uc.unit = .faulted ∧ t.uc.cause = some .homeMismatch
        ∧ SameRegisters s t))

/-- O6. In MEASURING an index arrival is judged by the travel count of its index position. -/
def Obligations.MeasuringJudgesIndexArrivals : Prop :=
  ∀ (s : State) (c : TrackerConfig) (n : Int) (p : Phase) (index : Bool),
    s.tracker.state = .measuring → s.tracker.config = some c → s.tracker.travel = some n →
    s.tracker.rawCount < c.cpr → s.uc.unit = .starting →
    isIndexArrival (s.tracker.isUp p) s.tracker.index index = true →
    ∃ t, exec (.countStep p index) s = .next t ∧
      (let up := s.tracker.isUp p
       let m := if up then n + 1 else n
       if m = 0 then
         t = { s with
      tracker :=
           { s.tracker.edge p index with
             rawCount := if up then (s.tracker.rawCount + 1) % c.cpr else (s.tracker.rawCount + c.cpr - 1) % c.cpr
             travel := some (if up then n + 1 else n - 1)
             homingTimer := .running s.xe.time (1000 * c.maxPeriod) } }
       else if m = (c.cpr : Int) ∨ m = -(c.cpr : Int) then
         Steady { s with
      tracker :=
           { s.tracker.edge p index with
             state := .tracking
             rawCount := if up then 0 else c.cpr - 1
             travel := none
             revolution := 0
             homingTimer := .stopped
             indexWatch := .running s.xe.time (1000 * c.maxPeriod) } } t
       else
         t.tracker.state = .lost ∧ t.uc.unit = .faulted ∧ t.uc.cause = some .homeMismatch ∧ SameRegisters s t)

/-- O7. In TRACKING an ordinary count step is counted and published as an angle arrival. The model's choices
and readings in it: log 1. -/
def Obligations.TrackingPublishesEachStep : Prop :=
  ∀ (s : State) (c : TrackerConfig) (p : Phase) (index : Bool),
    s.tracker.state = .tracking → s.tracker.config = some c → s.tracker.rawCount < c.cpr → c.origin < c.cpr →
    isIndexArrival (s.tracker.isUp p) s.tracker.index index = false →
    ∃ t, exec (.countStep p index) s = .next t ∧
      (let raw := if s.tracker.isUp p then (s.tracker.rawCount + 1) % c.cpr
                  else (s.tracker.rawCount + c.cpr - 1) % c.cpr
       let moved : State := { s with tracker := { s.tracker.edge p index with rawCount := raw } }
       let blade : Int := match c.sense with
         | .forward => ((raw : Int) - c.origin) % c.cpr
         | .reverse => ((c.origin : Int) - raw) % c.cpr
       let scan : Bool := match c.sense with
         | .forward => s.tracker.isUp p
         | .reverse => !s.tracker.isUp p
       t = settle (angleArrival scan blade.toNat s.tracker.revolution moved) ∧ Onward moved t)

/-- O8. In TRACKING an index arrival at raw count 0 steps the revolution number, restarts the watch and is
delivered. The model's choices and readings in it: log 1, log 6, log 12, log 52. -/
def Obligations.TrackingChecksIndexArrivals : Prop :=
  (∀ (s : State) (c : TrackerConfig) (p : Phase) (index : Bool),
    s.tracker.state = .tracking → s.tracker.config = some c → s.tracker.rawCount < c.cpr → c.origin < c.cpr →
    isIndexArrival (s.tracker.isUp p) s.tracker.index index = true →
    (if s.tracker.isUp p then (s.tracker.rawCount + 1) % c.cpr else s.tracker.rawCount) = 0 →
    let raw := if s.tracker.isUp p then 0 else c.cpr - 1
    let blade : Int := match c.sense with
      | .forward => ((raw : Int) - c.origin) % c.cpr
      | .reverse => ((c.origin : Int) - raw) % c.cpr
    let scan : Bool := match c.sense with
      | .forward => s.tracker.isUp p
      | .reverse => !s.tracker.isUp p
    let rev : Rev := if scan then s.tracker.revolution + 1 else s.tracker.revolution - 1
    let moved : State := { s with
      tracker :=
        { s.tracker.edge p index with
          rawCount := raw, indexWatch := .running s.xe.time (1000 * c.maxPeriod), revolution := rev } }
    ∃ t, exec (.countStep p index) s = .next t
      ∧ t = settle (indexDelivered scan (angleArrival scan blade.toNat rev moved)) ∧ Onward moved t)
    ∧ (∀ (s : State) (v : Word), exec (.nudge v) s = .next (indexDelivered false s))
    ∧ ∀ s : State,
    let r := indexDelivered false s
    let order : Prop := r.oe.engine.running = true ∧ r.oe.endSlot = none
    let waits : Prop := r.oe.engine = .lightWait ∧ r.oe.marker = none
    let due (h : Head) : HeadRef := match r.rc.mode, r.rc.config with
      | .checking, some c =>
        if r.mask.get h = true ∧ r.oe.excluded.get h = false then
          { r.rc.heads.get h with due := min ((r.rc.heads.get h).due + 1) (c.interval + 8) }
        else r.rc.heads.get h
      | _, _ => r.rc.heads.get h
    let counted : State := { r with
      rc := { r.rc with heads := .of due }
      oe := { r.oe with grace := if waits then r.oe.grace + 1 else r.oe.grace }
      sb := { r.sb with
        stallCount := if order then (if r.sb.dropFlag then min 255 (r.sb.stallCount + 1) else 0) else r.sb.stallCount
        dropFlag := if order then false else r.sb.dropFlag } }
    let reached (e : EndSlot) : Prop :=
      (∃ h c, r.rc.mode = .checking ∧ r.rc.config = some c ∧ r.mask.get h = true ∧ r.oe.excluded.get h = false
        ∧ c.interval + 8 ≤ (counted.rc.heads.get h).due ∧ e = ⟨.referenceOverdue, h.num⟩)
      ∨ (∃ g, waits ∧ r.oe.lightGrace = some g ∧ g ≤ counted.oe.grace ∧ e = ⟨.lightLost, 0⟩)
      ∨ ∃ k, r.sb.stallLimit = some k ∧ r.oe.engine.running = true ∧ k ≤ counted.sb.stallCount
        ∧ e = ⟨.outputStall, k⟩
    ((∀ e, ¬reached e) → indexDelivered true s = counted)
    ∧ ((∃ e, reached e) →
        ∃ e free, reached e ∧ indexDelivered true s = endCondition e { counted with free := free })

/-- O9. An encoder fault puts the tracker in LOST and ends the running order, or faults the unit at once. -/
def Obligations.EncoderFaultsEndOrderOrUnit : Prop :=
  (∀ (s : State) (e : Instr) (cause : FaultCause),
    s.uc.unit ≠ .faulted → s.oe.engine = .idle →
    ((s.tracker.state = .tracking ∧ e = .illegalTransition ∧ cause = .encoderSlip)
      ∨ (s.tracker.state = .tracking ∧ s.tracker.indexWatch ≠ .stopped ∧ e = .indexWatchExpiry
          ∧ cause = .encoderLost)
      ∨ ((s.tracker.state = .seeking ∨ s.tracker.state = .measuring) ∧ s.tracker.homingTimer ≠ .stopped
          ∧ e = .homingTimerExpiry ∧ cause = .homeTimeout)
      ∨ (∃ (c : TrackerConfig) (p : Phase) (index : Bool), s.tracker.state = .tracking
          ∧ s.tracker.config = some c ∧ s.tracker.rawCount < c.cpr
          ∧ isIndexArrival (s.tracker.isUp p) s.tracker.index index = true
          ∧ (if s.tracker.isUp p then (s.tracker.rawCount + 1) % c.cpr else s.tracker.rawCount) ≠ 0
          ∧ e = .countStep p index ∧ cause = .encoderSlip)) →
    ∃ t, exec e s = .next t ∧ t.tracker.state = .lost ∧ t.tracker.homingTimer = .stopped
      ∧ t.tracker.indexWatch = .stopped ∧ t.tracker.revolution = s.tracker.revolution
      ∧ t.uc.unit = .faulted ∧ t.uc.cause = some cause ∧ t.notice .unitFault = true ∧ SameRegisters s t)
    ∧ (∀ (s : State) (e : Instr) (cause : FaultCause),
    s.tracker.state = .tracking → s.oe.engine.running = true → s.oe.endSlot = none →
    (s.uc.unit = .running ∨ s.uc.unit = .halting) →
    ((e = .illegalTransition ∧ cause = .encoderSlip)
      ∨ (e = .indexWatchExpiry ∧ s.tracker.indexWatch ≠ .stopped ∧ cause = .encoderLost)) →
    ∃ t, exec e s = .next t ∧ t.tracker.state = .lost ∧ t.tracker.rawCount = s.tracker.rawCount
      ∧ t.oe.engine = .closing ∧ t.oe.endSlot = some ⟨.encoderFault, cause.code⟩
      ∧ t.uc.fault = some cause ∧ t.uc.unit = s.uc.unit ∧ SameRegisters s t)

/-- O10. The trigger points of a normal pass are start + phase + k pitch in each zone that names the head. -/
def Obligations.NormalPassPointsLieOnZoneGrid : Prop :=
  ∀ (h : Head) (index : Nat) (zones : List Zone) (offset zone : Nat), (∀ z ∈ zones, 1 ≤ z.pitch) →
    ((offset, zone) ∈ normalPoints h index zones 0 0 ↔
      ∃ z, zones[zone]? = some z ∧ z.mask.get h = true ∧
        ∃ k, (if z.interleave = true ∧ index % 2 = 1 then z.pitch / 2 else 0) + k * z.pitch < z.length
          ∧ offset = zonesLength (zones.take zone)
              + (if z.interleave = true ∧ index % 2 = 1 then z.pitch / 2 else 0) + k * z.pitch)

/-- O11. A due scan point is issued whole when its head is READY with room, and skipped, as a BUSY candidate
where due, otherwise. The model's choices and readings in it: log 37. -/
def Obligations.DuePointIssuedWholeOrSkipped : Prop :=
  ∀ (s : State) (h : Head) (zone : Nat) (r : Request),
    (((s.ports.get h).state = .ready ∧ (s.ports.get h).inFlight.length + r.burst ≤ 8) →
      (scanPointDue h zone r s).oe.counts = { s.oe.counts with issued := s.oe.counts.issued + 1 }
      ∧ ((scanPointDue h zone r s).ports.get h).sent = (s.ports.get h).sent
          ++ (List.range r.burst).map (fun k =>
              LinkMessage.trigger ((s.ports.get h).seqCounter + BitVec.ofNat 8 k) r.expClass)
      ∧ ((scanPointDue h zone r s).ports.get h).seqCounter = (s.ports.get h).seqCounter + BitVec.ofNat 8 r.burst
      ∧ ((scanPointDue h zone r s).ports.get h).inFlight.length = (s.ports.get h).inFlight.length + r.burst
      ∧ (scanPointDue h zone r s).sb = s.sb)
    ∧ (¬((s.ports.get h).state = .ready ∧ (s.ports.get h).inFlight.length + r.burst ≤ 8) → 1 ≤ r.burst →
      let skipped : State := { s with
        oe := { s.oe with counts := { s.oe.counts with skipped := s.oe.counts.skipped + 1 } } }
      let yields : Prop := r.pass.kind = .revisit ∨ (r.pass.kind = .normal ∧ r.pass.index + 1 = s.revolutions
        ∧ ∃ z, s.zone zone = some z ∧ z.revisit = true)
      (yields → scanPointDue h zone r s = candidate h zone r.point ⟨false, false, true, false, false⟩ skipped)
      ∧ (¬yields → scanPointDue h zone r s = skipped)
      ∧ (scanPointDue h zone r s).oe.counts.skipped = s.oe.counts.skipped + 1
      ∧ (scanPointDue h zone r s).oe.counts.issued = s.oe.counts.issued
      ∧ (scanPointDue h zone r s).ports = s.ports)

/-- O12. A backward arrival lowers positions and does nothing else; a forward one starts and ends passes at
the window offsets. That a withheld pass has no next trigger when it starts is the model's reading of R26 and
R35 (log 15). The model's choices and readings in it: log 15, log 45, log 51, log 56. -/
def Obligations.AngleArrivalsMoveScanPasses : Prop :=
  (∀ (s : State) (blade : Nat) (rev : Rev),
    let low (r : PassRecord) : PassRecord :=
      if r.state = .inPass then { r with position := some (r.position.getD 0 - 1) } else r
    angleArrival false blade rev s
      = { s with tg := { s.tg with heads := s.tg.heads.map fun p => { p with scan := low p.scan, ref := low p.ref } } })
    ∧ (∀ (s : State) (blade : Nat) (rev : Rev),
      (∀ h k, s.headActs blade h = true → s.headActs blade k = true → h = k) →
      ∃ hs : List Head, hs.Perm Head.all
        ∧ angleArrival true blade rev s = hs.foldl (fun u h => headForward blade rev h u) s)
    ∧ (∀ (s : State) (blade : Nat) (rev : Rev) (h : Head) (t : ZoneTable) (c : RefConfig), s.tg.zones = some t →
      s.rc.config = some c → 1 ≤ s.cpr →
      let seen : Int := ((blade : Int) - s.mount h) % s.cpr
      headForward blade rev h s = refForward c h ((seen - c.start) % s.cpr).toNat rev
        (scanForward t h ((seen - t.start) % s.cpr).toNat rev s))
    ∧ ∀ (s : State) (t : ZoneTable) (h : Head) (offset : Nat) (rev : Rev) (z : Zone) (zs : List Zone),
    t.zones = z :: zs → 1 ≤ z.length →
    let r := s.scan h
    let u := scanForward t h offset rev s
    (r.state = .waitingStart → offset ≠ 0 → u = s)
    ∧ (r.state = .waitingStart → offset = 0 →
        u = actInScan t h 0 rev (s.onScan h fun _ => { r with
          state := .inPass, position := some 0, reach := 0, zone := none,
          nextTrigger := if r.withheld then none
            else (firstScanPoint s.cpr t s.ru.current h r.pass 0).map (angleOf s.cpr t.start) })
        ∧ (u.scan h).state = .inPass ∧ (u.scan h).position = some 0 ∧ (u.scan h).reach = 0
        ∧ (u.scan h).zone = some 0 ∧ (u.scan h).pass = r.pass)
    ∧ (r.state = .inPass → r.position = some ((t.length : Int) - 1) →
      let more : Prop := r.pass.kind = .normal ∧ r.pass.index + 1 < r.armed
      (∀ g, (s.ports.get h).gap = some g → (s.ports.get h).gapWaits = false → s.sb.staged.length < 1024 →
        s.sb.staged ++ [⟨.gap (g.record h), s.oe.activeTag⟩] <+: u.sb.staged)
      ∧ (more → t.full = false → u.scan h = { r with
          state := .waitingStart, pass := ⟨.normal, r.pass.index + 1⟩, position := none, reach := 0, zone := none,
          nextTrigger := none, withheld := false })
      ∧ (more → t.full = true → (u.scan h).state = .inPass ∧ (u.scan h).pass = ⟨.normal, r.pass.index + 1⟩
          ∧ (u.scan h).position = some 0 ∧ (u.scan h).reach = 0 ∧ (u.scan h).withheld = false)
      ∧ (¬more → u.scan h = { r with
          state := .done, position := none, reach := max r.reach t.length, zone := none, nextTrigger := none,
          withheld := false }))

/-- O13. In pass the point at the next trigger angle is handed on once, and the next trigger angle is the
least point above it. -/
def Obligations.PointFiresOnceInPass : Prop :=
  ∀ (s : State) (t : ZoneTable) (h : Head) (p offset : Nat) (rev : Rev) (j k : Nat) (y z : Zone),
    (s.scan h).state = .inPass → (s.scan h).position = some ((p : Int) - 1) → p < t.length →
    (∀ x ∈ t.zones, 1 ≤ x.pitch) →
    (s.ru.current.Pairwise fun a b => a.head = h → b.head = h →
      windowOffset s.cpr t.start a.last < windowOffset s.cpr t.start b.first) →
    let r := s.scan h
    let reach := max r.reach p
    t.zones[j]? = some y → zonesLength (t.zones.take j) ≤ p → p < zonesLength (t.zones.take j) + y.length →
    t.zones[k]? = some z → zonesLength (t.zones.take k) ≤ reach →
    reach < zonesLength (t.zones.take k) + z.length →
    let left : Option ExpClass := match r.zone.bind (t.zones[·]?) with
      | some x => some (x.classOn r.pass)
      | none => (s.qu.heads.get h).classInUse
    let blank := if left = none ∨ left = some (z.classOn r.pass) then (s.qu.heads.get h).blank
      else ((s.ports.get h).config.map (·.blank)).getD 0
    let entered : HeadQual :=
      if r.zone = some k then s.qu.heads.get h
      else { s.qu.heads.get h with blank := blank, classInUse := some (z.classOn r.pass) }
    let moved (next : Option Nat) : State := { s with
      tg := { s.tg with heads := s.tg.heads.set h { s.tg.heads.get h with
        scan := { r with position := some (p : Int), reach := reach, zone := some k, nextTrigger := next } } }
      qu := { s.qu with heads := s.qu.heads.set h entered } }
    let points := scanPoints s.cpr t s.ru.current h r.pass
    (r.nextTrigger ≠ some (angleOf s.cpr t.start p) → scanForward t h offset rev s = moved r.nextTrigger)
    ∧ (r.nextTrigger = some (angleOf s.cpr t.start p) →
      ∃ next, scanForward t h offset rev s = scanPointDue h j
          { point := angleOf s.cpr t.start p, zone := some j, pass := r.pass, step := s.stepOfPass, revolution := rev,
            expClass := y.classOn r.pass, floor := y.floor, burst := y.burst } (moved next)
        ∧ ((next = none ∧ ∀ q ∈ points, q.1 ≤ p)
          ∨ ∃ q ∈ points, next = some (angleOf s.cpr t.start q.1) ∧ p < q.1
            ∧ ∀ q' ∈ points, p < q'.1 → q.1 ≤ q'.1))

/-- O14. A READY ends a wake; messages and expiries a head state does not judge change nothing; a pulse end
and link activity change one flag. The model's choices and readings in it: log 1, log 2, log 10, log 14. -/
def Obligations.HeadMessagesJudgedByState : Prop :=
  ((∀ (s : State) (h : Head) (m : Sample) (code : Byte),
    (((s.ports.get h).state = .off ∨ (s.ports.get h).state = .fault ∨ (s.ports.get h).state = .forcedOff) →
      exec (.readyReceived h) s = .next s ∧ exec (.alertReceived h code) s = .next s
      ∧ exec (.frameError h) s = .next s
      ∧ exec (.linkLoss h) s
        = .next { s with ports := s.ports.set h { s.ports.get h with linkWatch := false } })
    ∧ ((s.ports.get h).state ≠ .ready → exec (.sampleReceived h m) s = .next s)
    ∧ ((s.ports.get h).state ≠ .waking → exec (.wakeTimerExpiry h) s = .next s))
    ∧ (∀ s : State,
    (exec (.monPulseEnd .mon0) s = .next { s with mon0 := { s.mon0 with pulse := false } })
    ∧ (exec (.monPulseEnd .mon1) s = .next { s with mon1 := { s.mon1 with pulse := false } })
    ∧ ∀ m : MonOutput, (∀ h, m.selection ≠ .signal h .inPass) → s.monLevel { m with pulse := false } = false)
    ∧ (∀ (s : State) (h : Head),
    exec (.linkActivity h) s = .next { s with ports := s.ports.set h { s.ports.get h with linkWatch := true } }))
    ∧ (∀ (s : State) (h : Head), (s.ports.get h).state = .waking →
    let u : State := { s with
      ports := s.ports.set h
        { s.ports.get h with state := .ready, faultRecord := .none, wakeTimer := .stopped }
      uc := { s.uc with startWakes := s.uc.startWakes.set h false } }
    exec (.readyReceived h) s = .next (settle u) ∧ Steady u (settle u))

/-- O15. The Cell Record, the zone table and a correction table fail on the fields out of range, a zone table
with its check's number. The model's choices and readings in it: log 24. -/
def Obligations.ChecksFailOnFieldsOutOfRange : Prop :=
  (∀ bytes : List Byte,
    let c := readCellRecord bytes
    (c.valid = true ↔ 1024 ≤ c.cpr ∧ c.cpr ≤ 16777216 ∧ c.origin < c.cpr ∧ c.sense ≠ none ∧ 1 ≤ c.maxPeriod
      ∧ (∀ h, (c.heads.get h).present = true → (c.heads.get h).mount < c.cpr ∧ (c.heads.get h).timeout ≠ 0
          ∧ (c.heads.get h).blank ≤ 15 ∧ (c.heads.get h).action ≠ none)
      ∧ (∃ h, (c.heads.get h).present = true)
      ∧ c.refStart < c.cpr ∧ 1 ≤ c.refLength ∧ c.refLength < c.cpr ∧ 1 ≤ c.refPitch ∧ c.refPitch ≤ c.refLength
      ∧ 1 ≤ c.interval ∧ c.driftAction ≠ none ∧ 1 ≤ c.stallLimit ∧ 1 ≤ c.lightGrace ∧ c.lightGrace ≤ 15
      ∧ c.recovery ≠ none ∧ c.mon0 ≠ none ∧ c.mon1 ≠ none)
    ∧ (c.sense ≠ none ↔ (byteAt bytes 0x0A).toNat ≤ 1) ∧ (c.recovery ≠ none ↔ (byteAt bytes 0x0B).toNat ≤ 1)
    ∧ (c.driftAction ≠ none ↔ (byteAt bytes 0x1E).toNat ≤ 1)
    ∧ (c.mon0 ≠ none ↔ (byteAt bytes 0x0E).toNat % 8 ≤ 4) ∧ (c.mon1 ≠ none ↔ (byteAt bytes 0x0F).toNat % 8 ≤ 4)
    ∧ ∀ h, ((c.heads.get h).action ≠ none ↔ (byteAt bytes (0x101 + 64 * h.num)).toNat ≤ 2))
    ∧ (∀ (cpr : Nat) (bytes : List Byte) (mask : HeadSet) (checks : Bool) (ref : Option RefConfig),
      (∀ c, ref = some c → c.start < cpr ∧ 1 ≤ c.length ∧ c.length < cpr) →
      let t := readZoneTable bytes
      let check := zoneTableCheck cpr (zoneCount bytes) t mask checks ref
      let total := (t.zones.map (·.length)).sum
      let c8 : Prop := zoneCount bytes = 0 ∨ 32 < zoneCount bytes
      let c9 : Prop := cpr ≤ t.start ∨ (∃ z ∈ t.zones, z.length = 0 ∨ cpr < z.length) ∨ cpr < total
        ∨ (t.full = true ∧ total ≠ cpr) ∨ (t.full = false ∧ total = cpr)
      let c10 : Prop := ∃ z ∈ t.zones, z.pitch = 0 ∨ z.length < z.pitch
      let c11 : Prop := ∃ z ∈ t.zones, z.burst = 0 ∨ 8 < z.burst
      let c12 : Prop := ∃ z ∈ t.zones, ∃ h, z.mask.get h = true ∧ mask.get h = false
      let c13 : Prop := checks = true ∧ ∃ c, ref = some c ∧
        ∃ o p : Nat, o < total ∧ p < c.length ∧ (t.start + o) % cpr = (c.start + p) % cpr
      (c8 → check = some 8) ∧ (¬c8 → c9 → check = some 9) ∧ (¬c8 → ¬c9 → c10 → check = some 10)
      ∧ (¬c8 → ¬c9 → ¬c10 → c11 → check = some 11) ∧ (¬c8 → ¬c9 → ¬c10 → ¬c11 → c12 → check = some 12)
      ∧ (¬c8 → ¬c9 → ¬c10 → ¬c11 → ¬c12 → c13 → check = some 13)
      ∧ (¬c8 → ¬c9 → ¬c10 → ¬c11 → ¬c12 → ¬c13 → check = none))
    ∧ ∀ (bytes : List Byte) (h : Head),
      let points := correctionPoints bytes
      (correctionTableValid bytes h = true ↔ (byteAt bytes 0).toNat = h.num
        ∧ points.sum % 4294967296 = (leNat bytes 4 4 : Int)
        ∧ ∀ p ∈ points, -536870912 ≤ p ∧ p ≤ 536870911)
      ∧ points.length = 257 ∧ ∀ i : Nat, i < 257 → points[i]? = some (leInt32 bytes (8 + 4 * i))

/-- O16. A fault of a head in WAKING or READY is recorded, abandons its groups, and excludes the head from a
running order. The model's choices and readings in it: log 1, log 10, log 14, log 15, log 32, log 37, log 45.
-/
def Obligations.HeadFaultsAreRecorded : Prop :=
  ∀ (s : State) (h : Head) (e : Instr) (r : FaultRecord),
    let p := s.ports.get h
    ((((p.state = .waking ∨ p.state = .ready)
        ∧ ((∃ code, code ≠ 0 ∧ e = .alertReceived h code ∧ r = .head code)
          ∨ (e = .frameError h ∧ r = .port .linkFrame)
          ∨ (p.linkWatch = true ∧ e = .linkLoss h ∧ r = .port .linkLost))))
      ∨ (p.state = .waking ∧ p.wakeTimer ≠ .stopped ∧ e = .wakeTimerExpiry h ∧ r = .port .wakeTimeout)
      ∨ (p.state = .ready ∧ ((e = .readyReceived h ∧ r = .port .linkState)
          ∨ ∃ m, (∀ x, oldestOpen p.inFlight = some x → x.seq ≠ m.seq) ∧ e = .sampleReceived h m
              ∧ r = .port .linkOrder))) →
    let watch : Bool := if e = .linkLoss h then false else p.linkWatch
    let faulted : State := { s with
      ports := s.ports.set h
        { p with
          state := .fault
          faultRecord := r
          wakeTimer := .stopped
          linkWatch := watch
          inFlight := if p.state = .ready then [] else p.inFlight }
      uc := { s.uc with startWakes := s.uc.startWakes.set h false } }
    let reasons : Reasons := ⟨false, false, false, false, true⟩
    let yields (pass : PassId) (zone : Nat) : Bool := pass.kind == .revisit
      || (pass.kind == .normal && pass.index + 1 == s.revolutions && ((s.zone zone).map (·.revisit)).getD false)
    let groups := p.inFlight.filter fun x => x.ordinal == 1 && !x.abandoned && x.pass.kind != .reference
    let lost := (groups.filter fun x => yields x.pass (x.zone.getD 0)).map fun x => (x.point, x.zone.getD 0)
    let left : State :=
      if p.state = .ready then
        candidates h reasons lost { s with
          ports := s.ports.set h { p with inFlight := [], linkWatch := watch }
          oe := { s.oe with counts := { s.oe.counts with
            abandoned := s.oe.counts.abandoned + (if s.oe.active.isSome then groups.length else 0) } } }
      else s
    let excluded : Prop := s.oe.engine.running = true ∧ s.oe.endSlot = none ∧ s.mask.get h = true
      ∧ s.oe.excluded.get h = false ∧ (s.orderKind = some .scan ∨ s.orderKind = some .calibrateReference)
    let last : Prop := ∀ k, s.mask.get k = true → k = h ∨ s.oe.excluded.get k = true
    ∃ u, exec e s = .next (settle u) ∧ Steady faulted u ∧ Steady u (settle u) ∧ u.notice .headFault = true
      ∧ u.oe.counts.abandoned = left.oe.counts.abandoned
      ∧ (¬excluded → u.ru = left.ru ∧ u.oe = left.oe)
      ∧ (excluded → u.oe.excluded = s.oe.excluded.set h true ∧ (u.scan h).state = .notArmed
          ∧ u.ru.awaited.get h = false)
      ∧ (excluded → last → u.oe.engine = .closing ∧ u.oe.endSlot = some ⟨.headsLost, 0⟩)
      ∧ (excluded → ¬last → ∀ t, s.tg.zones = some t →
        let scan := s.scan h
        let pass : PassId := match scan.pass.kind with
          | .normal => ⟨.normal, scan.armed - 1⟩
          | _ => scan.pass
        let points := match scan.state, scan.nextTrigger with
          | .notArmed, _ | .done, _ => []
          | .waitingStart, _ => scanPoints s.cpr t s.ru.current h pass
          | .inPass, next =>
            if scan.pass = pass then
              (scanPoints s.cpr t s.ru.current h pass).filter fun q => match next with
                | some a => decide (windowOffset s.cpr t.start a ≤ q.1)
                | none => false
            else scanPoints s.cpr t s.ru.current h pass
        let withheld := points.map fun q => (angleOf s.cpr t.start q.1, q.2)
        let handed := candidates h reasons (withheld.filter fun q => yields pass q.2) left
        u.ru = { handed.ru with awaited := s.ru.awaited.set h false }
        ∧ u.oe = { handed.oe with excluded := s.oe.excluded.set h true }
        ∧ ∀ a b, withheld.head? = some a → withheld.getLast? = some b → s.sb.staged.length ≤ 1022 →
            p.heldHeadLost = none →
            let gap : List Staged := match p.gap, p.gapWaits with
              | some g, false => [⟨.gap (g.record h), s.oe.activeTag⟩]
              | _, _ => []
            s.sb.staged ++ gap ++ [⟨.gap
              { head := h, reason := .headLost, step := s.oe.stepIndex, zone := 0, firstPass := pass,
                lastPass := pass, causes := .none, attempts := 0, first := a.1, last := b.1,
                count := withheld.length }, s.oe.activeTag⟩] <+: u.sb.staged)

/-- O17. A matching SAMPLE or a response expiry retires the oldest unretired entry with its result. The
model's choices and readings in it: log 1, log 28. -/
def Obligations.RepliesRetireOldestEntry : Prop :=
  ∀ (s : State) (h : Head) (e : InFlight),
    oldestOpen (s.ports.get h).inFlight = some e → e.ordinal ≠ e.burst →
    (∀ m : Sample, (s.ports.get h).state = .ready → e.seq = m.seq →
      ∃ t, exec (.sampleReceived h m) s = .next t ∧
        let x : Exposure := .reply m.raw m.intensity m.quality m.saturated m.noPeak s.xe.time
        let p : Port := { s.ports.get h with inFlight := retireOldest x (s.ports.get h).inFlight }
        Steady { s with ports := s.ports.set h p } t)
    ∧ ∃ t, exec (.responseTimerExpiry h) s = .next t ∧
        Steady { s with
        ports := s.ports.set h
          { s.ports.get h with inFlight := retireOldest (.noReply s.xe.time) (s.ports.get h).inFlight } } t

/-- O18. The last reply or expiry takes the group out of the list and handles its outcome; a drained series
completes. The model's choices and readings in it: log 1, log 20, log 28, log 29. -/
def Obligations.CompletedGroupLeavesList : Prop :=
  (∀ (s : State) (h : Head) (e : InFlight) (m : Sample) (c : Instr) (x : Exposure),
    oldestOpen (s.ports.get h).inFlight = some e → e.ordinal = e.burst → 1 ≤ e.burst →
    ((c = .responseTimerExpiry h ∧ x = .noReply s.xe.time)
      ∨ (c = .sampleReceived h m ∧ (s.ports.get h).state = .ready ∧ e.seq = m.seq
          ∧ x = .reply m.raw m.intensity m.quality m.saturated m.noPeak s.xe.time)) →
    ∃ t, exec c s = .next t ∧ Onward s t ∧
      let retired := retireOldest x (s.ports.get h).inFlight
      let group := retired.take e.burst
      let u : State := { s with
        ports := s.ports.set h { s.ports.get h with inFlight := retired.drop e.burst } }
      (group.any (fun g => g.abandoned) = true → t = settle u ∧ Steady u t)
      ∧ ∀ g rest, group = g :: rest → (∀ y ∈ group, y.abandoned = false) →
        let xs := group.filterMap fun y => y.result
        let qualified := qualify h g xs u
        let counted : Prop := g.pass.kind ≠ .reference ∧ judge (chosenExposure xs) g.floor ≠ .none
          ∧ (s.qu.heads.get h).blank = 0
        let judged := if counted then settleFilter h qualified else qualified
        let drained : Prop := g.pass.kind ≠ .reference ∧ judged.passEnded h g.pass = true
          ∧ ∀ y ∈ (judged.ports.get h).inFlight, y.abandoned = true ∨ y.pass.kind = .reference ∨ y.pass ≠ g.pass
        (drained → t = settle (offerGap h judged)) ∧ (¬drained → t = settle judged))
    ∧ ∀ (s : State) (h : Head),
      let complete : Prop := (s.tg.heads.get h).seriesOpen = true ∧ (s.scan h).state = .done
        ∧ ∀ e ∈ (s.ports.get h).inFlight, e.abandoned = true ∨ e.pass.kind ≠ (s.scan h).pass.kind
      let u : State := { s with
        tg := { s.tg with heads := s.tg.heads.set h { s.tg.heads.get h with seriesOpen := false } }
        ru := { s.ru with awaited := s.ru.awaited.set h false } }
      (complete → exec (.seriesComplete h) s = .next (settle u) ∧ Steady u (settle u))
      ∧ (¬complete → exec (.seriesComplete h) s = .next s)

/-- O19. The supply judged LOW forces heads off; judged GOOD in AUTO it wakes them. The model's choices and
readings in it: log 1, log 2, log 13, log 14. -/
def Obligations.LightConditionMovesHeads : Prop :=
  (∀ s : State,
    (s.light.judgement = .low → exec .lightJudgedLow s = .next s)
    ∧ (s.light.judgement ≠ .low → s.light.present = true →
      exec .lightJudgedLow s = .next { s with light := { s.light with judgement := .low } })
    ∧ (s.light.judgement ≠ .low → s.light.present = false →
      let lost : State := { s with
        light := { s.light with judgement := .low, present := true }
        ports := s.ports.map fun p =>
          if p.state = .waking ∨ p.state = .ready then
            { p with
              state := .forcedOff
              wakePending := true
              wakeTimer := .stopped
              sent := p.sent ++ [.sleep]
              inFlight := if p.state = .ready then [] else p.inFlight }
          else p
        uc := { s.uc with
          startWakes := .of fun h => s.uc.startWakes.get h && (s.ports.get h).state != .waking } }
      ∃ u, exec .lightJudgedLow s = .next (settle u) ∧ u.notice .lightLow = true ∧ Steady lost u
        ∧ Steady u (settle u)
        ∧ ((s.oe.engine = .acquiring ∨ s.oe.engine = .revisiting) →
          u.oe.engine = .lightWait ∧ u.oe.grace = 0 ∧ (u.oe.interrupting = true ↔ s.orderKind = some .scan)
          ∧ ∀ h, (u.scan h).state = .notArmed ∧ (u.scan h).reach = 0 ∧ (u.scan h).nextTrigger = none)
        ∧ (s.oe.engine ≠ .acquiring → s.oe.engine ≠ .revisiting →
          u.oe.engine = s.oe.engine ∧ u.oe.grace = s.oe.grace ∧ ∀ h, u.scan h = s.scan h)))
    ∧ (∀ s : State,
    (s.light.judgement = .good → exec .lightJudgedGood s = .next s)
    ∧ (s.light.judgement ≠ .good → (s.light.present = true ∧ s.light.mode = .auto) →
      let u : State := { s with
        light := { s.light with judgement := .good, present := false }
        ports := s.ports.map fun p =>
          match p.config with
          | some c =>
            if p.state = .forcedOff ∧ p.wakePending = true then
              { p with
                state := .waking
                wakePending := false
                wakeTimer := .running s.xe.time 100000
                seqCounter := 0
                timeoutInForce := c.timeout
                sent := p.sent ++ [.wake c.codes c.timeout] }
            else p
          | none => p }
      exec .lightJudgedGood s = .next (settle u) ∧ Steady u (settle u))
    ∧ (s.light.judgement ≠ .good → ¬(s.light.present = true ∧ s.light.mode = .auto) →
      exec .lightJudgedGood s = .next { s with light := { s.light with judgement := .good } }))

/-- O20. A point is judged by its best usable exposure, against the floor, with the causes in their order. -/
def Obligations.ChosenExposureIsJudged : Prop :=
  (∀ xs : List Exposure, xs ≠ [] →
    ((∃ x ∈ xs, x.usable = true) →
      ∃ i : Nat, xs[i]? = some (chosenExposure xs) ∧ (chosenExposure xs).usable = true
        ∧ (∀ y ∈ xs, y.usable = true → y.quality.toNat ≤ (chosenExposure xs).quality.toNat)
        ∧ ∀ j : Nat, j < i → ∀ y : Exposure, xs[j]? = some y → y.usable = true →
            y.quality.toNat < (chosenExposure xs).quality.toNat)
    ∧ ((∀ x ∈ xs, x.usable = false) → xs[0]? = some (chosenExposure xs)))
    ∧ (∀ (raw : BitVec 20) (intensity : BitVec 12) (quality floor : Byte) (noPeak : Bool) (time : Time),
    judge (.noReply time) floor = .noReply
    ∧ judge (.reply raw intensity quality true noPeak time) floor = .saturated
    ∧ judge (.reply raw intensity quality false true time) floor = .noPeak
    ∧ (quality.toNat < floor.toNat →
        judge (.reply raw intensity quality false false time) floor = .lowQuality)
    ∧ (floor.toNat ≤ quality.toNat → judge (.reply raw intensity quality false false time) floor = .none))

/-- O21. The corrected distance before drift is the floor of the table's linear interpolation at the raw code.
-/
def Obligations.CorrectionInterpolatesTable : Prop :=
  ∀ (points : List Int) (raw : BitVec 20) (time : Time), points.length = 257 →
    raw.toNat / 4096 ≤ 255
    ∧ CorrectionTable.correct (.points points) raw
      = points.getD (raw.toNat / 4096) 0
        + Int.fdiv ((points.getD (raw.toNat / 4096 + 1) 0 - points.getD (raw.toNat / 4096) 0)
            * ((raw.toNat % 4096 : Nat) : Int)) 4096
    ∧ (raw.toNat % 4096 = 0 →
        CorrectionTable.correct (.points points) raw = points.getD (raw.toNat / 4096) 0)
    ∧ ((∀ p ∈ points, -536870912 ≤ p ∧ p ≤ 536870911) →
        -536870912 ≤ CorrectionTable.correct (.points points) raw
        ∧ CorrectionTable.correct (.points points) raw ≤ 536870911)
    ∧ CorrectionTable.correct .identity raw = (raw.toNat : Int)
    ∧ ((∀ i : Nat, i < 257 → points[i]? = some (4096 * (i : Int))) →
        CorrectionTable.correct (.points points) raw = (raw.toNat : Int))
    ∧ (Exposure.noReply time).raw = 0

/-- O22. Each NORMAL or REVISIT outcome of an active order counts once, as accepted, rejected or dropped. The
model's choices and readings in it: log 37, log 45. -/
def Obligations.EachOutcomeCountedOnce : Prop :=
  ∀ (s : State) (h : Head) (e : InFlight) (xs : List Exposure) (a : ActiveOrder),
    s.oe.active = some a → e.pass.kind ≠ .reference →
    let u := qualify h e xs s
    let x := chosenExposure xs
    let cause := judge x e.floor
    let good : Prop := cause = .none
    let q := s.qu.heads.get h
    let distance : Int := q.table.correct x.raw - (s.rc.heads.get h).drift
    let items : StandardItems :=
      { zone := e.zone.getD 0, passIndex := e.pass.index, step := e.step.getD 0, distance := distance,
        revolution := e.revolution }
    let offset : Int := Int.fdiv (distance - a.header.compactBase) 10
    let body : SampleBody := match a.header.format with
      | some .compact =>
        if offset < -32768 then .compact (-32768) true
        else if 32767 < offset then .compact 32767 true
        else .compact offset false
      | some .standard => .standard items
      | some .extended =>
        .extended items x.raw x.intensity (min (e.issueTime - s.oe.stepStart).toNat 4294967295)
      | some .raw | none => .raw x.raw
    let sample : SampleRecord :=
      { head := h, point := e.point, quality := x.quality, cause := cause, revisit := e.pass.kind == .revisit,
        unsettled := s.qu.settle == .unsettled, body := body }
    let gap : List Staged := match (s.ports.get h).gap, (s.ports.get h).gapWaits with
      | some g, false => [⟨.gap (g.record h), s.oe.activeTag⟩]
      | _, _ => []
    let extended : PendingGap := match (s.ports.get h).gap with
      | none =>
        { first := e.point, firstPass := e.pass, last := e.point, lastPass := e.pass, step := e.step.getD 0, count := 1 }
      | some g => if g.count < 65535 then { g with last := e.point, lastPass := e.pass, count := g.count + 1 } else g
    let yields : Bool := e.pass.kind == .revisit || (e.pass.kind == .normal && e.pass.index + 1 == s.revolutions
      && ((s.zone (e.zone.getD 0)).map (·.revisit)).getD false)
    let handed (reasons : Reasons) : State :=
      if yields then candidate h (e.zone.getD 0) e.point reasons s else s
    let staged : Prop := u.sb.staged = s.sb.staged ++ gap ++ [⟨.sample sample, s.oe.activeTag⟩]
      ∧ u.sb.dropFlag = s.sb.dropFlag
    let rejected : Prop := u.ru = (handed ⟨true, false, false, false, false⟩).ru ∧ u.oe.counts =
      { (handed ⟨true, false, false, false, false⟩).oe.counts with rejected := s.oe.counts.rejected + 1 }
    let dropped (reasons : Reasons) : Prop := u.sb = { s.sb with dropFlag := true } ∧ u.notice .outputLoss = true
      ∧ (u.ports.get h).gap = some extended ∧ u.ru = (handed reasons).ru
      ∧ u.oe.counts = { (handed reasons).oe.counts with dropped := s.oe.counts.dropped + 1 }
    u.oe.counts.accepted + u.oe.counts.rejected + u.oe.counts.dropped
        = s.oe.counts.accepted + s.oe.counts.rejected + s.oe.counts.dropped + 1
    ∧ u.oe.counts.issued = s.oe.counts.issued ∧ u.oe.counts.abandoned = s.oe.counts.abandoned
    ∧ u.oe.counts.skipped = s.oe.counts.skipped
    ∧ u.qu.heads.get h = (if 0 < q.blank then { q with blank := q.blank - 1 }
        else if good then { q with filter := 0 } else { q with filter := min 255 (q.filter + 1) })
    ∧ (good → s.sb.staged.length < 1016 → staged ∧ u.ru = s.ru ∧ u.oe.counts =
        { s.oe.counts with
          accepted := s.oe.counts.accepted + 1
          resolved := s.oe.counts.resolved + (if e.pass.kind = .revisit then 1 else 0) })
    ∧ (good → 1016 ≤ s.sb.staged.length → dropped ⟨false, true, false, false, false⟩)
    ∧ (¬good → a.header.flags.keepRejected = false → u.sb = s.sb ∧ rejected)
    ∧ (¬good → a.header.flags.keepRejected = true → s.sb.staged.length < 1016 → staged ∧ rejected)
    ∧ (¬good → a.header.flags.keepRejected = true → 1016 ≤ s.sb.staged.length →
        dropped ⟨true, true, false, false, false⟩)

/-- O23. A filter counter at its limit returns to 0, sets HEAD_FAULT and applies the fault action held. The
model's choices and readings in it: log 1, log 29. -/
def Obligations.FilterLimitAppliesFaultAction : Prop :=
  ∀ (s : State) (h : Head) (c : HeadConfig), (s.ports.get h).config = some c →
    let u := setNotice .headFault
      { s with qu := { s.qu with heads := s.qu.heads.set h { s.qu.heads.get h with filter := 0 } } }
    ((0 < c.limit ∧ c.limit ≤ (s.qu.heads.get h).filter) →
      ∃ t, exec (.filterLimit h) s = .next t ∧ t.notice .headFault = true
        ∧ (c.action = some .continueOn → t = settle u ∧ Steady u t)
        ∧ (c.action = some .suspendPass → t = settle (suspendScan h u) ∧ Steady (suspendScan h u) t)
        ∧ (c.action = some .failOrder → s.oe.engine.running = true → s.oe.endSlot = none →
            s.uc.unit ≠ .starting →
            Steady u t ∧ t.oe.engine = .closing ∧ t.oe.endSlot = some ⟨.headFaultAction, h.num⟩)
        ∧ (c.action = some .failOrder → (s.oe.engine.running = false ∨ s.oe.endSlot ≠ none) →
            t = settle u ∧ Steady u t))
    ∧ (¬(0 < c.limit ∧ c.limit ≤ (s.qu.heads.get h).filter) → exec (.filterLimit h) s = .next s)

/-- O24. A suspension withholds the rest of the pass: the record runs on with nothing left to fire. The
model's choices and readings in it: log 15, log 45. -/
def Obligations.SuspensionWithholdsPass : Prop :=
  ∀ (s : State) (h : Head) (t : ZoneTable), s.tg.zones = some t →
    let u := suspendScan h s
    let r := s.scan h
    (((s.scan h).state = .inPass ∨ (s.scan h).state = .waitingStart) →
      let all := scanPoints s.cpr t s.ru.current h r.pass
      let points := if r.state = .inPass then
          all.filter fun q => match r.nextTrigger with
            | some a => decide (windowOffset s.cpr t.start a ≤ q.1)
            | none => false
        else if r.withheld then [] else all
      let withheld := points.map fun q => (angleOf s.cpr t.start q.1, q.2)
      let yields (zone : Nat) : Bool := r.pass.kind == .revisit || (r.pass.kind == .normal
        && r.pass.index + 1 == s.revolutions && ((s.zone zone).map (·.revisit)).getD false)
      let marked : State := { s with tg := { s.tg with heads := s.tg.heads.set h { s.tg.heads.get h with
        scan := { r with withheld := true, nextTrigger := none } } } }
      let handed := candidates h ⟨false, false, false, true, false⟩ (withheld.filter fun q => yields q.2) marked
      let gap : List Staged := match (s.ports.get h).gap, (s.ports.get h).gapWaits with
        | some g, false => [⟨.gap (g.record h), s.oe.activeTag⟩]
        | _, _ => []
      u.scan h = { s.scan h with withheld := true, nextTrigger := none } ∧ u.ru = handed.ru ∧ u.oe = handed.oe
      ∧ (withheld = [] → u = marked)
      ∧ ∀ a b, withheld.head? = some a → withheld.getLast? = some b →
        let x : GapRecord :=
          { head := h, reason := .suspended, step := s.oe.stepIndex, zone := 0, firstPass := r.pass,
            lastPass := r.pass, causes := .none, attempts := 0, first := a.1, last := b.1, count := withheld.length }
        (s.sb.staged.length ≤ 1022 → (s.ports.get h).heldSuspended = none →
          u.sb.staged = s.sb.staged ++ gap ++ [⟨.gap x, s.oe.activeTag⟩])
        ∧ (1024 ≤ s.sb.staged.length → u.sb.staged = s.sb.staged
          ∧ (u.ports.get h).heldSuspended = some (match (s.ports.get h).heldSuspended with
            | none => x
            | some y => { y with last := b.1, lastPass := r.pass, count := y.count + withheld.length })))
    ∧ (((s.scan h).state = .notArmed ∨ (s.scan h).state = .done) → suspendScan h s = s)
    ∧ Onward s (suspendScan h s)

/-- O25. A candidate joins the entries it touches, is inserted as a new entry, is lost when the list is full,
or is discarded in IDLE. The model's choices and readings in it: log 37. -/
def Obligations.CandidateTakenIntoNextList : Prop :=
  ∀ (s : State) (h : Head) (zone point : Nat) (reasons : Reasons) (t : ZoneTable), s.tg.zones = some t →
    let u := candidate h zone point reasons s
    let o := windowOffset s.cpr t.start point
    let pitch := t.pitchOf zone
    let covers (e : Entry) : Prop := e.head = h ∧ e.zone = zone ∧ e.low s.cpr t ≤ o ∧ o ≤ e.high s.cpr t
    let ends (e : Entry) : Prop := e.head = h ∧ e.zone = zone ∧ e.high s.cpr t + pitch = o
    let begins (e : Entry) : Prop := e.head = h ∧ e.zone = zone ∧ e.low s.cpr t = o + pitch
    let joined (e : Entry) : Entry :=
      { e with reasons := e.reasons.union reasons, attempts := max e.attempts s.ru.attempts }
    u.ru.current = s.ru.current
    ∧ (s.ru.phase = .idle → u = s)
    ∧ (s.ru.phase ≠ .idle → (∀ e ∈ s.ru.next, ¬covers e ∧ ¬ends e ∧ ¬begins e) → s.ru.next.length < 128 →
        u.oe.counts = { s.oe.counts with created := s.oe.counts.created + 1 }
        ∧ (let new : Entry :=
             { head := h, zone := zone, first := point, last := point, reasons := reasons, attempts := s.ru.attempts }
           let before (e : Entry) : Bool :=
             decide (e.head.num < h.num ∨ (e.head = h ∧ e.low s.cpr t < o))
           let ordered (l : List Entry) : Prop := l.Pairwise fun a b =>
             a.head.num < b.head.num ∨ (a.head = b.head ∧ a.low s.cpr t ≤ b.low s.cpr t)
           u.ru.next = s.ru.next.filter before ++ new :: s.ru.next.filter (fun e => !before e)
           ∧ (ordered s.ru.next → ordered u.ru.next
             ∧ ∃ l r, s.ru.next = l ++ r ∧ u.ru.next = l ++ new :: r)))
    ∧ (s.ru.phase ≠ .idle → (∀ e ∈ s.ru.next, ¬covers e ∧ ¬ends e ∧ ¬begins e) → 128 ≤ s.ru.next.length →
        u.ru = s.ru ∧ u.oe.counts = { s.oe.counts with lost := s.oe.counts.lost + 1 }
        ∧ u.notice .outputLoss = true)
    ∧ (s.ru.phase ≠ .idle → (∃ e ∈ s.ru.next, covers e) →
        u.oe.counts = s.oe.counts
        ∧ u.ru.next = s.ru.next.map fun e =>
            if e.head = h ∧ e.zone = zone ∧ e.low s.cpr t ≤ o ∧ o ≤ e.high s.cpr t then joined e else e)
    ∧ (s.ru.phase ≠ .idle → (∀ e ∈ s.ru.next, ¬covers e) →
        ((∃ e ∈ s.ru.next, ends e) → (∀ e ∈ s.ru.next, ¬begins e) →
          u.oe.counts = s.oe.counts
          ∧ u.ru.next = s.ru.next.map fun e =>
              if e.head = h ∧ e.zone = zone ∧ e.high s.cpr t + pitch = o then { joined e with last := point } else e)
        ∧ ((∀ e ∈ s.ru.next, ¬ends e) → (∃ e ∈ s.ru.next, begins e) →
          u.oe.counts = s.oe.counts
          ∧ u.ru.next = s.ru.next.map fun e =>
              if e.head = h ∧ e.zone = zone ∧ e.low s.cpr t = o + pitch then { joined e with first := point } else e)
        ∧ ∀ up ∈ s.ru.next, begins up → (∀ e ∈ s.ru.next, begins e → e = up) → (∃ e ∈ s.ru.next, ends e) →
          u.oe.counts = s.oe.counts
          ∧ u.ru.next = (s.ru.next.filter fun e => decide (e ≠ up)).map fun e =>
              if e.head = h ∧ e.zone = zone ∧ e.high s.cpr t + pitch = o then
                { joined e with
                  last := up.last
                  reasons := (joined e).reasons.union up.reasons
                  attempts := max (joined e).attempts up.attempts }
              else e)

/-- O26. Below the revisit limit a round starts with the entries of the heads not excluded; otherwise the step
is closed. The model's choices and readings in it: log 37, log 51. -/
def Obligations.RoundStartsBelowRevisitLimit : Prop :=
  ∀ (s : State) (a : ActiveOrder), s.oe.active = some a →
    ((s.ru.round < a.header.revisitLimit ∧ ∃ e ∈ s.ru.next, s.oe.excluded.get e.head = false) →
      let u := roundDecision s
      u.ru.round = s.ru.round + 1 ∧ u.ru.phase = .round ∧ u.oe.engine = .revisiting
      ∧ u.ru.current = s.ru.next.filter (fun e => !s.oe.excluded.get e.head)
      ∧ u.ru.next = s.ru.next.filter (fun e => s.oe.excluded.get e.head)
      ∧ (∀ h, u.ru.awaited.get h = u.ru.current.any fun e => e.head == h)
      ∧ ∀ h, u.ru.awaited.get h = true →
          u.scan h = { state := .waitingStart, pass := ⟨.revisit, s.ru.round + 1⟩, armed := 1, position := none,
                       reach := 0, zone := none, nextTrigger := none, withheld := false })
    ∧ (¬(s.ru.round < a.header.revisitLimit ∧ ∃ e ∈ s.ru.next, s.oe.excluded.get e.head = false) →
      roundDecision s = enterStepClose s ∧ ∀ t, s.tg.zones = some t →
      let u := roundDecision s
      let points (e : Entry) : Nat :=
        (windowOffset s.cpr t.start e.last - windowOffset s.cpr t.start e.first) / t.pitchOf e.zone + 1
      let unresolved (e : Entry) : GapRecord :=
        let pass : PassId := if e.attempts = 0 then ⟨.normal, a.header.revolutions - 1⟩ else ⟨.revisit, e.attempts⟩
        { head := e.head, reason := .unresolved, step := s.oe.stepIndex, zone := e.zone, firstPass := pass,
          lastPass := pass, causes := e.reasons, attempts := e.attempts, first := e.first, last := e.last,
          count := points e }
      let stepEnd (n : Nat) : Record := .stepEnd
        { tag := s.oe.activeTag, step := s.oe.stepIndex, time := s.xe.time, revolution := s.tracker.revolution,
          unresolved := n, restarts := s.oe.stepRestarts }
      let n := s.ru.unresolvedStaged + s.ru.next.length
      (s.sb.staged.length + s.ru.next.length + 1 ≤ 1024 →
        s.sb.staged ++ s.ru.next.map (fun e => ⟨.gap (unresolved e), s.oe.activeTag⟩)
          ++ [⟨stepEnd n, s.oe.activeTag⟩] <+: u.sb.staged
        ∧ u.oe.counts = { s.oe.counts with
            unresolved := s.oe.counts.unresolved + (s.ru.next.map points).sum
            stepsCompleted := s.oe.counts.stepsCompleted + 1 }
        ∧ u.oe.flags.unresolved = (s.oe.flags.unresolved || decide (0 < n))
        ∧ u.ru.current = [] ∧ u.ru.next = [] ∧ u.ru.round = 0 ∧ u.ru.phase = .idle
        ∧ u.oe.stepIndex = s.oe.stepIndex + 1 ∧ Steady s u
        ∧ (s.oe.stepIndex + 1 < a.header.stepCount → u.oe.engine = .stepMove ∧ u.sf.requestTime = s.xe.time
          ∧ (s.sf.settleActive = true → u.sf.handshake = .requesting ∧ u.sf.stepReq = true)
          ∧ (s.sf.settleActive = false → u.sf.handshake = .settling ∧ u.sf.stepReq = false))
        ∧ (a.header.stepCount ≤ s.oe.stepIndex + 1 →
            u.oe.engine = .closing ∧ u.oe.endSlot = some ⟨.complete, 0⟩))
      ∧ (1024 ≤ s.sb.staged.length → u.sb = s.sb ∧ u.oe.engine = .stepClose ∧ u.oe.counts = s.oe.counts
        ∧ u.ru.next = s.ru.next ∧ u.oe.stepIndex = s.oe.stepIndex
        ∧ (∀ e es, s.ru.next = e :: es → u.ru.held = some (unresolved e) ∧ u.ru.phase = .closing)
        ∧ (s.ru.next = [] → u.oe.marker = some (stepEnd s.ru.unresolvedStaged) ∧ u.ru.phase = .idle)))

/-- O27. A completed passage is judged in CHECKING and added to its tally in CALIBRATING. The model's choices
and readings in it: log 1. -/
def Obligations.CompletedPassageIsJudgedOrAdded : Prop :=
  (∀ (y : Tally) (nominal drift : Int) (limit : Nat),
    let mean : Int := if y.good = 0 then 0 else Int.fdiv y.sum y.good
    checkVerdict y false nominal limit = .noNominal
    ∧ checkDrift y (checkVerdict y false nominal limit) nominal drift = 0
    ∧ (y.good * 2 < y.triggers → checkVerdict y true nominal limit = .sparse
        ∧ checkDrift y .sparse nominal drift = drift)
    ∧ (¬y.good * 2 < y.triggers → limit < (mean - nominal).natAbs →
        checkVerdict y true nominal limit = .overLimit ∧ checkDrift y .overLimit nominal drift = mean - nominal)
    ∧ (¬y.good * 2 < y.triggers → (mean - nominal).natAbs ≤ limit →
        checkVerdict y true nominal limit = .ok ∧ checkDrift y .ok nominal drift = mean - nominal))
    ∧ ((∀ (s : State) (h : Head), s.rc.mode = .checking → (s.rc.heads.get h).passage = .opened →
    (s.rc.heads.get h).endTaken = true → (∀ e ∈ (s.ports.get h).inFlight, e.pass.kind ≠ .reference) →
    let r := s.rc.heads.get h
    let v := checkVerdict r.tally r.nominalValid r.nominal ((s.rc.config.map (·.driftLimit)).getD 0)
    let drift := checkDrift r.tally v r.nominal r.drift
    let x : ReferenceRecord :=
      { head := h, verdict := v, step := if s.orderKind = some .scan then some s.oe.stepIndex else none
        triggers := r.tally.triggers, good := r.tally.good
        mean := if r.tally.good = 0 then 0 else Int.fdiv r.tally.sum r.tally.good
        nominal := r.nominal, drift := drift, revolution := s.tracker.revolution, time := s.xe.time }
    let fails : Prop := s.rc.config.map (·.driftAction) = some .fail
    let open_ : Prop := s.oe.engine.running = true ∧ s.oe.endSlot = none
    ∃ u, exec (.passageComplete h) s = .next (settle u) ∧ Steady s u ∧ Steady u (settle u)
      ∧ (s.sb.staged.length < 1024 →
          s.sb.staged ++ [⟨.reference x, s.oe.activeTag⟩] <+: u.sb.staged
          ∧ (u.rc.heads.get h).passage = .idle ∧ (u.rc.heads.get h).drift = drift
          ∧ (u.rc.heads.get h).due = (if v = .sparse then r.due else 0)
          ∧ (u.rc.heads.get h).nominal = r.nominal ∧ (∀ k, k ≠ h → (v ≠ .overLimit ∨ ¬fails ∨ ¬open_) →
              u.rc.heads.get k = s.rc.heads.get k)
          ∧ (v ≠ .overLimit → u.oe = s.oe ∧ u.notice .drift = s.notice .drift)
          ∧ (v = .overLimit → u.notice .drift = true
            ∧ (¬fails → u.oe = { s.oe with flags := { s.oe.flags with driftWarned := true } })
            ∧ (fails → open_ → u.oe.engine = .closing ∧ u.oe.endSlot = some ⟨.driftLimit, h.num⟩)
            ∧ (fails → ¬open_ → u.oe = s.oe)))
      ∧ (1024 ≤ s.sb.staged.length →
          u = { s with rc := { s.rc with heads := s.rc.heads.set h { r with held := some x, passage := .held } } }))
    ∧ (∀ (s : State) (h : Head), s.rc.mode = .calibrating → (s.rc.heads.get h).passage = .opened →
    (s.rc.heads.get h).endTaken = true → (∀ e ∈ (s.ports.get h).inFlight, e.pass.kind ≠ .reference) →
    let r := s.rc.heads.get h
    let added : HeadRef := { r with
      passage := .idle
      tally := ⟨0, 0, 0⟩
      endTaken := false
      calDone := r.calDone + 1
      calTally := ⟨r.calTally.triggers + r.tally.triggers, r.calTally.good + r.tally.good,
        r.calTally.sum + r.tally.sum⟩ }
    let u : State := { s with rc := { s.rc with heads := s.rc.heads.set h added } }
    exec (.passageComplete h) s = .next (settle u) ∧ Steady u (settle u)))

/-- O28. A head due for a reference check is requested a passage, and no other head is. The model's choices
and readings in it: log 1, log 51. -/
def Obligations.DuePassageIsRequested : Prop :=
  ∀ (s : State) (h : Head) (c : RefConfig), s.rc.mode = .checking → s.rc.config = some c →
    let r := s.rc.heads.get h
    let due : Prop := c.interval ≤ r.due ∧ r.passage = .idle ∧ (s.ports.get h).state = .ready
      ∧ s.mask.get h = true ∧ s.oe.excluded.get h = false
    let requested : HeadRef := { r with passage := .opened, tally := ⟨0, 0, 0⟩, endTaken := false }
    let passes : HeadPasses := { s.tg.heads.get h with
      ref := { state := .waitingStart, pass := ⟨.reference, 0⟩, armed := 1, position := none, reach := 0,
               zone := none, nextTrigger := none, withheld := false }
      refIssued := 0
      refSkipped := 0 }
    (due → ((s.ref h).state = .notArmed ∨ (s.ref h).state = .done) →
      exec (.referenceDue h) s = .next { s with
        rc := { s.rc with heads := s.rc.heads.set h requested }
        tg := { s.tg with heads := s.tg.heads.set h passes } })
    ∧ (¬due → exec (.referenceDue h) s = .next s)

/-- O29. A calibration sets the nominals of all judged heads, or of none when one is short. The model's
choices and readings in it: log 1. -/
def Obligations.CalibrationAppliesToAllOrNone : Prop :=
  ∀ s : State,
    let finished : Prop := s.oe.engine.running = true ∧ s.rc.mode = .calibrating
      ∧ ∀ h, s.mask.get h = true → s.oe.excluded.get h = false → s.revolutions ≤ (s.rc.heads.get h).calDone
    settle s = settleUnit (settleDrain (forHeads settleRequest
        (settleMeasured (settleEngine (settlePassages (forHeads settleSeries s))))))
    ∧ (finished → settleMeasured s = judgeCalibration s) ∧ (¬finished → settleMeasured s = s)
    ∧ (s.sb.staged.length + 4 ≤ 1024 →
    let u := judgeCalibration s
    ((∀ h ∈ s.judgedHeads, ¬(s.rc.heads.get h).calTally.good * 2 < (s.rc.heads.get h).calTally.triggers) →
      u.oe.engine = .closing ∧ u.oe.endSlot = some ⟨.complete, 0⟩
      ∧ ∀ h ∈ s.judgedHeads, (u.rc.heads.get h).nominal
            = (if (s.rc.heads.get h).calTally.good = 0 then 0
               else Int.fdiv (s.rc.heads.get h).calTally.sum (s.rc.heads.get h).calTally.good)
          ∧ (u.rc.heads.get h).nominalValid = true ∧ (u.rc.heads.get h).drift = 0)
    ∧ ((∃ h ∈ s.judgedHeads, (s.rc.heads.get h).calTally.good * 2 < (s.rc.heads.get h).calTally.triggers) →
      (∀ h, (u.rc.heads.get h).nominal = (s.rc.heads.get h).nominal
        ∧ (u.rc.heads.get h).nominalValid = (s.rc.heads.get h).nominalValid
        ∧ (u.rc.heads.get h).drift = (s.rc.heads.get h).drift)
      ∧ (s.oe.engine.running = true → s.oe.endSlot = none →
          ∃ h, (s.judgedHeads.find? fun k =>
              decide ((s.rc.heads.get k).calTally.good * 2 < (s.rc.heads.get k).calTally.triggers)) = some h
            ∧ u.oe.engine = .closing ∧ u.oe.endSlot = some ⟨.referenceSparse, h.num⟩)))

/-- O30. A taken level change turns one line over and is judged as the settle line or as a watched line. The
model's choices and readings in it: log 1, log 40, log 51. -/
def Obligations.LineChangesDriveHandshakeAndFixture : Prop :=
  ∀ (s : State) (l : Line),
    let t : State := { s with sf := s.sf.toggled l }
    (∀ m : Fin 4, t.sf.w.getLsbD m.val = if l = .wait m then !s.sf.w.getLsbD m.val else s.sf.w.getLsbD m.val)
    ∧ (∀ m : Fin 8, t.sf.f.getLsbD m.val = if l = .fixture m then !s.sf.f.getLsbD m.val else s.sf.f.getLsbD m.val)
    ∧ (t.sf.isSettleLine l = false → t.sf.isWatched l = false → exec (.takenLevelChange l) s = .next t)
    ∧ (t.sf.isSettleLine l = true → s.sf.handshake = .idle →
        exec (.takenLevelChange l) s = .next (settle t) ∧ Steady t (settle t))
    ∧ (t.sf.isSettleLine l = true → s.sf.handshake = .requesting → t.sf.settleActive = false →
        let u : State := { t with sf := { t.sf with handshake := .settling, stepReq := false } }
        exec (.takenLevelChange l) s = .next (settle u) ∧ Steady u (settle u))
    ∧ (∀ a, t.sf.isSettleLine l = true → s.sf.handshake = .settling → t.sf.settleActive = true →
        s.oe.active = some a →
        let time : Nat := (s.xe.time - s.sf.requestTime).toNat
        let f : Span := { t.sf with handshake := .idle, stepReq := false, settleTimer := .stopped }
        let x : Staged := ⟨.stepBegin
          { tag := a.header.tag, step := s.oe.stepIndex, position := leInt32 a.header.span (4 * s.oe.stepIndex),
            settle := .settled, settleTime := time, restart := false,
            time := s.xe.time, revolution := s.tracker.revolution },
          s.oe.activeTag⟩
        (s.sb.staged.length < 1024 →
          ∃ u, exec (.takenLevelChange l) s = .next (settle u) ∧ Steady t u ∧ Steady u (settle u)
            ∧ s.sb.staged ++ [x] <+: u.sb.staged ∧ u.sf = f ∧ u.rc = s.rc
            ∧ u.qu = { s.qu with settle := .settled }
            ∧ (a.header.kind = some .scan →
              AcquiringEntered a.header
                { s.oe with settle := .settled, settleTime := time, stepStart := s.xe.time, marker := none } s u
              ∧ (Quiet s → (∃ h, a.header.mask.get h = true ∧ s.oe.excluded.get h = false) → settle u = u)))
        ∧ (1024 ≤ s.sb.staged.length → exec (.takenLevelChange l) s = .next (settle { t with
            sf := f
            oe := { s.oe with settle := .settled, settleTime := time, marker := some x.record } })))
    ∧ (t.sf.isWatched l = true → s.sf.fixture = .matching → t.sf.matched = true →
        let u : State := { t with sf := { t.sf with capture := t.sf.f, fixture := .watching, fixtureTimer := .stopped } }
        exec (.takenLevelChange l) s = .next (settle (endArming u)) ∧ Steady u (settle (endArming u))
        ∧ ∀ a, s.oe.active = some a → ArmingEnded a.header s.oe u.sf u (endArming u))
    ∧ (t.sf.isWatched l = true → s.sf.fixture = .watching → s.oe.engine.running = true → s.oe.endSlot = none →
        s.uc.unit ≠ .starting →
        ∃ u, exec (.takenLevelChange l) s = .next u ∧ Steady t u ∧ u.oe.engine = .closing
          ∧ u.oe.endSlot = some ⟨.fixtureChanged, 0⟩ ∧ u.sf.capture = t.sf.f ∧ u.sf.fixture = .off)

/-- O31. The settle timer ends the handshake UNSETTLED or the order with SETTLE_TIMEOUT; the fixture timer
ends it with FIXTURE_TIMEOUT. The model's choices and readings in it: log 1, log 2, log 51. -/
def Obligations.LineTimersEndTheirWaits : Prop :=
  ∀ (s : State) (a : ActiveOrder) (b : Time) (period : Nat), s.oe.active = some a →
    (s.sf.handshake ≠ .idle → s.sf.settleTimer = .running b period → a.header.flags.unsettledOk = true →
        let f : Span := { s.sf with handshake := .idle, stepReq := false, settleTimer := .stopped }
        let x : Staged := ⟨.stepBegin
          { tag := a.header.tag, step := s.oe.stepIndex, position := leInt32 a.header.span (4 * s.oe.stepIndex),
            settle := .unsettled, settleTime := period, restart := false,
            time := s.xe.time, revolution := s.tracker.revolution },
          s.oe.activeTag⟩
        (s.sb.staged.length < 1024 →
          ∃ u, exec .settleTimerExpiry s = .next (settle u) ∧ Steady s u ∧ Steady u (settle u)
            ∧ s.sb.staged ++ [x] <+: u.sb.staged ∧ u.sf = f ∧ u.rc = s.rc
            ∧ u.qu = { s.qu with settle := .unsettled }
            ∧ (a.header.kind = some .scan →
              AcquiringEntered a.header
                { s.oe with
                  settle := .unsettled, settleTime := period, stepStart := s.xe.time, marker := none
                  flags := { s.oe.flags with unsettled := true } } s u
              ∧ (Quiet s → (∃ h, a.header.mask.get h = true ∧ s.oe.excluded.get h = false) → settle u = u)))
        ∧ (1024 ≤ s.sb.staged.length → exec .settleTimerExpiry s = .next (settle { s with
            sf := f
            oe := { s.oe with settle := .unsettled, settleTime := period, marker := some x.record } })))
    ∧ (s.sf.handshake ≠ .idle → s.sf.settleTimer = .running b period → a.header.flags.unsettledOk = false →
        s.oe.engine.running = true → s.oe.endSlot = none → s.uc.unit ≠ .starting →
        ∃ u, exec .settleTimerExpiry s = .next u ∧ Steady s u ∧ u.oe.engine = .closing
          ∧ u.oe.endSlot = some ⟨.settleTimeout, s.oe.stepIndex⟩ ∧ u.sf.stepReq = false ∧ u.sf.handshake = .idle)
    ∧ (s.sf.fixture = .matching → s.sf.fixtureTimer = .running b period → s.oe.engine.running = true →
        s.oe.endSlot = none → s.uc.unit ≠ .starting →
        ∃ u, exec .fixtureTimerExpiry s = .next u ∧ Steady s u ∧ u.oe.engine = .closing
          ∧ u.oe.endSlot = some ⟨.fixtureTimeout, 0⟩ ∧ u.sf.capture = s.sf.f)
    ∧ (s.sf.handshake = .idle → exec .settleTimerExpiry s = .next s)
    ∧ (s.sf.fixture ≠ .matching → exec .fixtureTimerExpiry s = .next s)

/-- O32. Following a link parks, holds, reads the named block's status, or fetches the order, by what is
found. That an ABORT holds the unit only when the read in progress has ended is the model's choice (log 60). The
model's choices and readings in it: log 5, log 24, log 53, log 60. -/
def Obligations.FollowedLinkActsOnWhatItFinds : Prop :=
  ∀ (s : State) (holder block : Addr) (bytes : List Byte),
    let value : Addr := BitVec.ofNat 64 (leNat bytes 0 8)
    let parked (t : State) : Prop := t.uc.unit = .parked ∧ t.oe.park = some holder ∧ t.oe.engine = .idle
      ∧ t.oe.doing = .none ∧ t.notice .parked = true ∧ t.oe.chain = s.oe.chain ∧ SameRegisters s t
    let held (t : State) (r : HeldReason) : Prop := t.uc.unit = .held ∧ t.oe.heldReason = some r
      ∧ t.oe.heldPoint = some holder ∧ t.oe.engine = .idle ∧ t.oe.doing = .none ∧ t.notice .held = true
      ∧ t.oe.chain = s.oe.chain ∧ SameRegisters s t
    let stopped (t : State) : Prop := t.uc.unit = .stopped ∧ t.uc.stopping = true ∧ t.oe.engine = .idle
      ∧ t.oe.doing = .none ∧ t.oe.park = none ∧ t.oe.chain = s.oe.chain ∧ SameRegisters s t
    let ended (kind : BusKind) (again : Bool) : State := { s with
      oe := { s.oe with
        engine := if again then .idle else s.oe.engine
        doing := if again then .link holder else .none
        recheck := false }
      xe := { s.xe with
        bus := s.xe.bus ++ [.ended kind] ++ (if again then [.read .link holder 8] else []) } }
    let running := s.uc.unit = .running
    let following := running ∨ s.uc.unit = .parked
    let link := s.isStray .link = false ∧ s.oe.doing = .link holder
    let status := s.isStray .blockStatus = false ∧ s.oe.doing = .status holder block
    (s.oe.abortPending = false →
      (link →
        (running → value = 0 → ∃ t, exec (.linkRead (.data bytes)) s = .next t ∧ parked t)
        ∧ (s.uc.unit = .parked → value = 0 →
            exec (.linkRead (.data bytes)) s = .next (ended .link s.oe.recheck))
        ∧ (following → value.toNat % 64 ≠ 0 →
            ∃ t, exec (.linkRead (.data bytes)) s = .next t ∧ held t .staleOrder)
        ∧ (following → value ≠ 0 → value.toNat % 64 = 0 → exec (.linkRead (.data bytes)) s = .next { s with
            oe := { s.oe with doing := .status holder value }
            xe := { s.xe with bus := s.xe.bus ++ [.ended .link] ++ [.read .blockStatus (value + 8) 1] } })
        ∧ (following → ∃ t, exec (.linkRead .error) s = .next t ∧ held t .readError))
      ∧ (status →
        (running → byteAt bytes 0 = 0 → ∃ t, exec (.blockStatusRead (.data bytes)) s = .next t ∧ parked t)
        ∧ (s.uc.unit = .parked → byteAt bytes 0 = 0 →
            exec (.blockStatusRead (.data bytes)) s = .next (ended .blockStatus s.oe.recheck))
        ∧ (running → byteAt bytes 0 = 1 → exec (.blockStatusRead (.data bytes)) s = .next { s with
            oe := { s.oe with
              engine := .fetching, chain := some block, park := none, recheck := false, early := false,
              abortMark := false, active := none, doing := .header }
            xe := { s.xe with bus := s.xe.bus ++ [.ended .blockStatus] ++ [.read .header block 336] } })
        ∧ (s.uc.unit = .parked → byteAt bytes 0 = 1 →
            ∃ t, exec (.blockStatusRead (.data bytes)) s = .next t ∧ t.uc = { s.uc with unit := .running }
              ∧ t.oe = { s.oe with
                  engine := .fetching, chain := some block, park := none, recheck := false, early := false,
                  abortMark := false, active := none, doing := .header }
              ∧ s.xe.bus ++ [.ended .blockStatus] ++ [.read .header block 336] <+: t.xe.bus ∧ SameRegisters s t)
        ∧ (following → byteAt bytes 0 ≠ 0 → byteAt bytes 0 ≠ 1 →
            ∃ t, exec (.blockStatusRead (.data bytes)) s = .next t ∧ held t .staleOrder)
        ∧ (following → ∃ t, exec (.blockStatusRead .error) s = .next t ∧ held t .readError)))
    ∧ ∀ r : ReadResult,
      (s.oe.abortPending = true → running →
        (link → ∃ t, exec (.linkRead r) s = .next t ∧ held t .orderAborted)
        ∧ (status → ∃ t, exec (.blockStatusRead r) s = .next t ∧ held t .orderAborted))
      ∧ (s.uc.unit = .halting →
        (link → ∃ t, exec (.linkRead r) s = .next t ∧ stopped t)
        ∧ (status → ∃ t, exec (.blockStatusRead r) s = .next t ∧ stopped t))

/-- O33. Before LOADING the first failed check or read ends the order, its completion written whole. The
model's choices and readings in it: log 1, log 5, log 24, log 50, log 57, log 58. -/
def Obligations.FirstFailedCheckEndsOrder : Prop :=
  ∀ (s : State) (bytes : List Byte), s.uc.unit ≠ .starting → s.uc.fault = none → s.oe.abortPending = false →
    s.oe.engine.running = false →
    let ended (kind : BusEvent) (slot : EndSlot) (t : State) : Prop :=
      t.oe.early = true ∧ t.oe.endSlot = some slot ∧ t.oe.doing = .completion ∧ t.oe.chain = s.oe.chain
      ∧ s.xe.bus ++ [kind] ++ [.write .completion
          (earlyCompletionWrites s.block slot s.xe.time s.tracker.revolution)] <+: t.xe.bus
      ∧ Steady s t
    let hd := readOrderHeader bytes
    let a : ActiveOrder := { header := hd, zones := none, tables := .all .identity }
    let u : State := { s with
      oe := { s.oe with engine := .validating, doing := .none, active := some a }
      xe := { s.xe with bus := s.xe.bus ++ [.ended .header] } }
    (s.isStray .header = false → s.oe.doing = .header → s.oe.engine = .fetching →
      let fails (n : Nat) : Prop :=
        ∃ t, exec (.headerRead (.data bytes)) s = .next t ∧ ended (.ended .header) ⟨.validation, n⟩ t
      let c3 : Prop := (∀ h, hd.mask.get h = false)
        ∨ ∃ h, hd.mask.get h = true ∧ ((s.ports.get h).config.map (·.present)).getD false = false
      let c4 : Prop := hd.stepCount = 0 ∨ 64 < hd.stepCount
      let c5 : Prop := hd.revolutions = 0 ∨ 16 < hd.revolutions
      let c6 : Prop := 4 < hd.revisitLimit
      let c7 : Prop := ∃ h, hd.replaceMask.get h = true ∧ ∀ c, (s.ports.get h).config = some c →
        c.present = false ∨ (hd.replacement h).present ≠ c.present ∨ (hd.replacement h).mount ≠ c.mount
        ∨ (hd.replacement h).timeout = 0 ∨ 15 < (hd.replacement h).blank ∨ (hd.replacement h).action = none
      (∃ t, exec (.headerRead .error) s = .next t ∧ ended (.failed .header) ⟨.readError, 16⟩ t)
      ∧ (hd.kind = none → fails 1)
      ∧ (hd.kind ≠ none → hd.format = none → fails 2)
      ∧ (hd.kind = some .scan → hd.format ≠ none →
          (∀ n, ((c3 ∧ n = 3) ∨ (¬c3 ∧ c4 ∧ n = 4) ∨ (¬c3 ∧ ¬c4 ∧ c5 ∧ n = 5) ∨ (¬c3 ∧ ¬c4 ∧ ¬c5 ∧ c6 ∧ n = 6)) →
            fails n)
          ∧ (¬c3 → ¬c4 → ¬c5 → ¬c6 →
            ((hd.zoneAddr = 0 ∨ hd.zoneAddr.toNat % 8 ≠ 0) →
              ∃ t, exec (.headerRead (.data bytes)) s = .next t ∧ ended (.ended .header) ⟨.readError, 17⟩ t)
            ∧ (hd.zoneAddr ≠ 0 → hd.zoneAddr.toNat % 8 = 0 →
              ∃ t, exec (.headerRead (.data bytes)) s = .next t ∧ t.oe.doing = .zoneTable ∧ t.oe.active = some a
                ∧ t.oe.engine = .validating
                ∧ s.xe.bus ++ [.ended .header] ++ [.read .zoneTable hd.zoneAddr 8] <+: t.xe.bus ∧ Steady s t)))
      ∧ (hd.kind = some .calibrateReference → hd.format ≠ none →
          (c3 → fails 3) ∧ (¬c3 → c5 → fails 5)
          ∧ (¬c3 → ¬c5 → exec (.headerRead (.data bytes)) s = .next (settle (readCorrections a hd.mask.members u))))
      ∧ (hd.kind = some .settings → hd.format ≠ none →
          (c7 → fails 7) ∧ (¬c7 → exec (.headerRead (.data bytes)) s = .next (settle (enterLoading a u))))
      ∧ (hd.kind = some .mark → hd.format ≠ none →
          exec (.headerRead (.data bytes)) s = .next (settle (enterLoading a u))
          ∧ Steady (enterLoading a u) (settle (enterLoading a u))))
    ∧ (∀ a, s.isStray .zoneTable = false → s.oe.doing = .zoneTable → s.oe.active = some a →
      (∃ t, exec (.zoneTableRead .error) s = .next t ∧ ended (.failed .zoneTable) ⟨.readError, 17⟩ t)
      ∧ (¬(1 ≤ zoneCount bytes ∧ zoneCount bytes ≤ 32) →
          ∃ t, exec (.zoneTableRead (.data bytes)) s = .next t ∧ ended (.ended .zoneTable) ⟨.validation, 8⟩ t)
      ∧ ∀ n, zoneTableCheck s.cpr (zoneCount bytes) (readZoneTable bytes) a.header.mask
            a.header.flags.referenceChecks s.rc.config = some n →
          ∃ t, exec (.zoneTableRead (.data bytes)) s = .next t ∧ t.oe.early = true
            ∧ t.oe.endSlot = some ⟨.validation, n⟩ ∧ t.oe.doing = .completion ∧ t.oe.chain = s.oe.chain
            ∧ Steady s t)
    ∧ (∀ a h, s.isStray .correctionTable = false → s.oe.doing = .correction h → s.oe.active = some a →
      (∃ t, exec (.correctionTableRead .error) s = .next t
        ∧ ended (.failed .correctionTable) ⟨.readError, 32 + h.num⟩ t)
      ∧ (correctionTableValid bytes h = false →
          ∃ t, exec (.correctionTableRead (.data bytes)) s = .next t
            ∧ ended (.ended .correctionTable) ⟨.tableCheck, 14⟩ t))

/-- O34. Tables that pass are kept in the active copy and the next one is read, or LOADING is entered after
the last. The model's choices and readings in it: log 1, log 5, log 24, log 50, log 57, log 58. -/
def Obligations.TablesPassedGoOnToNext : Prop :=
  ∀ (s : State) (a : ActiveOrder) (h : Head) (bytes : List Byte), s.uc.fault = none →
    s.oe.abortPending = false → s.oe.active = some a →
    let kept : ActiveOrder := { a with zones := some (readZoneTable bytes) }
    let copied : ActiveOrder := { a with tables := a.tables.set h (.points (correctionPoints bytes)) }
    let zoned : State := { s with
      oe := { s.oe with doing := .none, active := some kept }
      xe := { s.xe with bus := s.xe.bus ++ [.ended .zoneTable]
        ++ [.read .zoneTable (a.header.zoneAddr + 8) (16 * zoneCount bytes)] ++ [.ended .zoneTable] } }
    let corrected : State := { s with
      oe := { s.oe with doing := .none, active := some copied }
      xe := { s.xe with bus := s.xe.bus ++ [.ended .correctionTable] } }
    (s.isStray .zoneTable = false → s.oe.doing = .zoneTable →
      zoneTableCheck s.cpr (zoneCount bytes) (readZoneTable bytes) a.header.mask
        a.header.flags.referenceChecks s.rc.config = none →
      exec (.zoneTableRead (.data bytes)) s = .next (settle (readCorrections kept a.header.mask.members zoned)))
    ∧ (s.isStray .correctionTable = false → s.oe.doing = .correction h → correctionTableValid bytes h = true →
      exec (.correctionTableRead (.data bytes)) s
        = .next (settle (readCorrections copied (headsAfter a.header.mask h) corrected)))
    ∧ ∀ (b : ActiveOrder) (hs : List Head) (u : State),
      let next := hs.find? fun j => decide (b.header.correctionAddr.get j ≠ 0)
      (next = none → readCorrections b hs u = enterLoading b u)
      ∧ (∀ k, next = some k → (b.header.correctionAddr.get k).toNat % 8 = 0 →
        let t : State := { u with
          oe := { u.oe with doing := .correction k }
          xe := { u.xe with bus := u.xe.bus ++ [.read .correctionTable (b.header.correctionAddr.get k) 1036] } }
        readCorrections b hs u = t ∧ Steady t (settle t)
        ∧ (u.uc.unit ≠ .starting → u.oe.engine.running = false →
            (settle t).oe.doing = .correction k ∧ (settle t).oe.active = u.oe.active))
      ∧ (∀ k, next = some k → (b.header.correctionAddr.get k).toNat % 8 ≠ 0 → readCorrections b hs u = { u with
          oe := { u.oe with doing := .completion, early := true, endSlot := some ⟨.readError, 32 + k.num⟩ }
          xe := { u.xe with bus := u.xe.bus ++ [.write .completion
            (earlyCompletionWrites u.block ⟨.readError, 32 + k.num⟩ u.xe.time u.tracker.revolution)] } })

/-- O35. At LOADING the order's counts, flags and marks are cleared, its tables installed and IN_PROGRESS
written. The model's choices and readings in it: log 5, log 58. -/
def Obligations.LoadingStartsOrder : Prop :=
  (∀ (s : State) (a : ActiveOrder),
    (a.header.kind = some .scan ∨ a.header.kind = some .calibrateReference) →
    let t := enterLoading a s
    t.oe.engine = .loading ∧ t.oe.active = some a ∧ t.oe.counts = .zero ∧ t.oe.flags = .clear
    ∧ t.oe.stepIndex = 0 ∧ t.oe.restarts = 0 ∧ t.oe.excluded = .all false ∧ t.oe.endSlot = none
    ∧ t.oe.abortMark = false ∧ t.oe.startTime = s.xe.time ∧ t.oe.startRevolution = s.tracker.revolution
    ∧ t.oe.activeTag = a.header.tag ∧ t.oe.chain = s.oe.chain
    ∧ t.xe = { s.xe with bus := s.xe.bus ++ [.write .loading
        [⟨s.block + 0x180, leBytes 8 s.xe.time.toNat⟩, ⟨s.block + 0x190, leBytes 4 s.tracker.revolution.toNat⟩,
         ⟨s.block + 8, [2]⟩]] }
    ∧ t.tg = { s.tg with zones := a.zones } ∧ t.sf = { s.sf with capture := 0 }
    ∧ t.sb = { s.sb with dropFlag := false, stallCount := 0 }
    ∧ t.rw = { s.rw with segments := [], overflow := false }
    ∧ t.rc = { s.rc with heads := s.rc.heads.map fun r => { r with due := 0 } }
    ∧ t.ru = s.ru ∧ t.uc = s.uc ∧ t.tracker = s.tracker ∧ t.light = s.light ∧ t.pending = s.pending
    ∧ (∀ h, t.qu.heads.get h = if a.header.mask.get h = true then
        { s.qu.heads.get h with table := a.tables.get h, classInUse := none, blank := 0, filter := 0 }
        else s.qu.heads.get h)
    ∧ ∀ h, ((a.header.mask.get h = false ∨ (s.ports.get h).state = .waking ∨ (s.ports.get h).state = .ready
          ∨ (s.ports.get h).state = .forcedOff) → t.ports.get h = s.ports.get h)
      ∧ ∀ c, a.header.mask.get h = true → s.light.present = false → (s.ports.get h).config = some c →
          ((s.ports.get h).state = .off ∨ (s.ports.get h).state = .fault) →
          t.ports.get h = { s.ports.get h with
            state := .waking, wakePending := false, seqCounter := 0, wakeTimer := .running s.xe.time 100000
            timeoutInForce := c.timeout, sent := (s.ports.get h).sent ++ [.wake c.codes c.timeout] })
    ∧ ∀ (s : State) (a : ActiveOrder) (kind : OrderKind) (format : RecordFormat),
    a.header.kind = some kind → (kind = .mark ∨ kind = .settings) → a.header.format = some format →
    let t := enterLoading a s
    let begins : Record := .orderBegin
      { kind := kind, tag := a.header.tag, mask := a.header.mask, format := format,
        stepCount := a.header.stepCount, revolutions := a.header.revolutions,
        revisitLimit := a.header.revisitLimit, flags := a.header.flags, time := s.xe.time,
        revolution := s.tracker.revolution }
    t.oe.active = some a ∧ ((∀ h, (s.ports.get h).inFlight = []) → t.oe.counts = .zero) ∧ t.oe.flags = .clear
    ∧ t.oe.excluded = .all false ∧ t.oe.abortMark = false ∧ t.oe.activeTag = a.header.tag ∧ t.oe.chain = s.oe.chain
    ∧ t.uc = s.uc
    ∧ s.xe.bus ++ [.write .loading
        [⟨s.block + 0x180, leBytes 8 s.xe.time.toNat⟩, ⟨s.block + 0x190, leBytes 4 s.tracker.revolution.toNat⟩,
         ⟨s.block + 8, [2]⟩]] <+: t.xe.bus
    ∧ (1024 ≤ s.sb.staged.length → t.oe.engine = .loading ∧ t.oe.marker = some begins ∧ t.oe.beginTaken = false
        ∧ t.ports = s.ports ∧ t.sb.staged = s.sb.staged)
    ∧ (s.sb.staged.length < 1024 → s.sb.staged ++ [⟨begins, a.header.tag⟩] <+: t.sb.staged
      ∧ t.oe.beginTaken = true ∧ t.oe.marker = none
      ∧ (kind = .mark → t.oe.engine = .closing ∧ t.oe.endSlot = some ⟨.complete, 0⟩)
      ∧ (kind = .settings → t.oe.engine = .loading ∧ t.oe.endSlot = none ∧ ∀ h,
        let p := s.ports.get h
        let new := a.header.replacement h
        let changed : Prop := ∀ c, p.config = some c → c.codes ≠ new.codes ∨ c.timeout ≠ new.timeout
        (a.header.replaceMask.get h = false → t.ports.get h = p ∧ t.oe.rewoken.get h = false)
        ∧ (a.header.replaceMask.get h = true → ¬changed →
            t.ports.get h = { p with config := some new } ∧ t.oe.rewoken.get h = false)
        ∧ (a.header.replaceMask.get h = true → changed → t.oe.rewoken.get h = true
          ∧ (t.ports.get h).config = some new
          ∧ (s.light.present = false → (p.state = .off ∨ p.state = .fault ∨ p.state = .waking) →
            t.ports.get h = { p with
              config := some new, state := .waking, wakePending := false, seqCounter := 0
              wakeTimer := .running s.xe.time 100000, timeoutInForce := new.timeout
              sent := p.sent ++ [.wake new.codes new.timeout] })
          ∧ (s.light.present = false → p.state = .ready →
            (t.ports.get h).state = .waking ∧ (t.ports.get h).inFlight = []
            ∧ (t.ports.get h).timeoutInForce = new.timeout
            ∧ (t.ports.get h).sent = p.sent ++ [.wake new.codes new.timeout]))))

/-- O36. LOADING ends when no wake of the mask is outstanding, with the ORDER-begin record, or HEADS_LOST. The
model's choices and readings in it: log 1, log 14. -/
def Obligations.LoadingEndsWithOrderBegin : Prop :=
  ∀ (s : State) (a : ActiveOrder) (kind : OrderKind) (format : RecordFormat), s.oe.engine = .loading →
    s.oe.marker = none → s.oe.active = some a → a.header.kind = some kind →
    a.header.format = some format →
    (s.oe.beginTaken = false → (kind = .scan ∨ kind = .calibrateReference) →
      ((∃ h, a.header.mask.get h = true ∧ (s.ports.get h).state = .waking) → exec .loadingEnd s = .next s)
      ∧ ((∀ h, a.header.mask.get h = true → (s.ports.get h).state ≠ .waking) →
        ((∃ h, a.header.mask.get h = true ∧ s.oe.excluded.get h = false) →
          let begins : Record := .orderBegin
            { kind := kind, tag := a.header.tag, mask := a.header.mask, format := format,
              stepCount := a.header.stepCount, revolutions := a.header.revolutions,
              revisitLimit := a.header.revisitLimit, flags := a.header.flags, time := s.oe.startTime,
              revolution := s.oe.startRevolution }
          let oe : OrderEngine := { s.oe with marker := none, beginTaken := true }
          let matching (c : SpanConfig) : Prop := ∀ n : Fin 8, c.fixtureMask.getLsbD n.val = true →
            s.sf.f.getLsbD n.val = c.fixtureCompare.getLsbD n.val
          let matched : Span := { s.sf with capture := s.sf.f, fixture := .watching, fixtureTimer := .stopped }
          (s.sb.staged.length < 1024 →
            ∃ u, exec .loadingEnd s = .next (settle u) ∧ Steady s u ∧ Steady u (settle u)
              ∧ s.sb.staged ++ [⟨begins, s.oe.activeTag⟩] <+: u.sb.staged
              ∧ (a.header.flags.checkFixture = false → ArmingEnded a.header oe s.sf s u
                ∧ (kind = .scan → a.header.flags.referenceChecks = false → Quiet s → settle u = u))
              ∧ ∀ c, a.header.flags.checkFixture = true → s.sf.config = some c →
                (matching c → ArmingEnded a.header oe matched s u)
                ∧ (¬matching c → c.fixtureWait = 0 → s.oe.endSlot = none → u.oe.engine = .closing
                  ∧ u.oe.endSlot = some ⟨.fixtureTimeout, 0⟩ ∧ u.sf.capture = s.sf.f ∧ u.sf.fixture = .off)
                ∧ (¬matching c → c.fixtureWait ≠ 0 → u.oe = { oe with engine := .arming } ∧ u.tg = s.tg
                  ∧ u.ru = s.ru ∧ u.rc = s.rc ∧ u.sf = { s.sf with
                    fixture := .matching, fixtureTimer := .running s.xe.time (c.fixtureWait * 100000) }))
          ∧ (1024 ≤ s.sb.staged.length → exec .loadingEnd s
              = .next (settle { s with oe := { s.oe with marker := some begins } })))
        ∧ ((∀ h, a.header.mask.get h = true → s.oe.excluded.get h = true) → s.oe.endSlot = none →
          s.uc.unit ≠ .starting →
          ∃ t, exec .loadingEnd s = .next t ∧ Steady s t ∧ t.oe.engine = .closing
            ∧ t.oe.endSlot = some ⟨.headsLost, 0⟩)))
    ∧ (s.oe.beginTaken = true → kind = .settings →
      ((∃ h, s.oe.rewoken.get h = true ∧ (s.ports.get h).state = .waking) → exec .loadingEnd s = .next s)
      ∧ ((∀ h, s.oe.rewoken.get h = true → (s.ports.get h).state ≠ .waking) → s.uc.unit ≠ .starting →
        ∃ t, exec .loadingEnd s = .next t ∧ Steady s t ∧ t.oe.engine = .closing
          ∧ t.oe.endSlot = some ⟨.complete, 0⟩))

/-- O37. LIGHT_WAIT is left without a restart, with a RESTART record, or, after two restarts, with LIGHT_LOST.
The model's choices and readings in it: log 1, log 51. -/
def Obligations.LightWaitIsLeft : Prop :=
  ∀ (s : State) (a : ActiveOrder), s.oe.engine = .lightWait → s.oe.marker = none → s.oe.active = some a →
    let busy : Prop := s.light.present = true ∨ ∃ h, a.header.mask.get h = true ∧ s.oe.excluded.get h = false
      ∧ ((s.ports.get h).state = .waking ∨ (s.ports.get h).state = .forcedOff)
    (busy → exec .lightWaitDeparture s = .next s)
    ∧ (¬busy → s.oe.interrupting = false →
      exec .lightWaitDeparture s = .next (settle (enterAcquiring s)) ∧ (enterAcquiring s).oe.engine = .acquiring
      ∧ Steady s (settle (enterAcquiring s))
      ∧ (a.header.kind = some .scan → AcquiringEntered a.header s.oe s (enterAcquiring s))
      ∧ (a.header.kind = some .calibrateReference →
          enterAcquiring s = { s with oe := { s.oe with engine := .acquiring } }))
    ∧ (¬busy → s.oe.interrupting = true → s.oe.restarts < 2 →
      let x : Staged := ⟨.stepBegin
          { tag := a.header.tag, step := s.oe.stepIndex, position := leInt32 a.header.span (4 * s.oe.stepIndex),
            settle := s.oe.settle, settleTime := s.oe.settleTime, restart := true,
            time := s.xe.time, revolution := s.tracker.revolution },
          s.oe.activeTag⟩
      let cleared (q : HeadQual) : HeadQual := { q with blank := 0, filter := 0, classInUse := none }
      (s.sb.staged.length < 1024 →
        ∃ u, exec .lightWaitDeparture s = .next (settle u) ∧ Steady s u ∧ Steady u (settle u)
          ∧ s.sb.staged ++ [x] <+: u.sb.staged
          ∧ (a.header.kind = some .scan →
            u.oe = { s.oe with
              engine := .acquiring, stepStart := s.xe.time, marker := none
              restarts := s.oe.restarts + 1, stepRestarts := s.oe.stepRestarts + 1
              counts := { s.oe.counts with stepRestarts := s.oe.counts.stepRestarts + 1 }
              flags := { s.oe.flags with restarted := true } }
            ∧ PassesArmed a.header s u
            ∧ (∀ h, ¬(a.header.mask.get h = true ∧ s.oe.excluded.get h = false) → (u.scan h).state = .notArmed)
            ∧ u.qu.settle = s.oe.settle
            ∧ (∀ h, u.qu.heads.get h = if a.header.mask.get h then cleared (s.qu.heads.get h)
                else s.qu.heads.get h)
            ∧ u.rc = s.rc ∧ u.sf = s.sf
            ∧ (s.rc.mode = .off → s.uc.unit ≠ .starting →
                (∃ h, a.header.mask.get h = true ∧ s.oe.excluded.get h = false) → settle u = u)))
      ∧ (1024 ≤ s.sb.staged.length → exec .lightWaitDeparture s
          = .next (settle { s with oe := { s.oe with marker := some x.record } })))
    ∧ (¬busy → s.oe.interrupting = true → 2 ≤ s.oe.restarts → s.oe.endSlot = none → s.uc.unit ≠ .starting →
      ∃ t, exec .lightWaitDeparture s = .next t ∧ Steady s t ∧ t.oe.engine = .closing
        ∧ t.oe.endSlot = some ⟨.lightLost, 0⟩)

/-- O38. The light grace, the output stall limit and an overdue reference check end the order with their
reasons. The model's choices and readings in it: log 1. -/
def Obligations.RevolutionLimitsEndOrder : Prop :=
  ∀ s : State, s.oe.engine.running = true → s.oe.endSlot = none → s.uc.unit ≠ .starting →
    let closes (e : Instr) (slot : EndSlot) : Prop := ∃ t, exec e s = .next t ∧ Steady s t
      ∧ t.oe.engine = .closing ∧ t.oe.endSlot = some slot
    (∀ g, s.oe.engine = .lightWait → s.oe.marker = none → s.oe.lightGrace = some g →
      (g ≤ s.oe.grace → closes .lightGraceExpiry ⟨.lightLost, 0⟩)
      ∧ (s.oe.grace < g → exec .lightGraceExpiry s = .next s))
    ∧ (∀ k, s.sb.stallLimit = some k →
      (k ≤ s.sb.stallCount → closes .outputStall ⟨.outputStall, k⟩)
      ∧ (s.sb.stallCount < k → exec .outputStall s = .next s))
    ∧ (∀ (h : Head) (c : RefConfig), s.rc.mode = .checking → s.rc.config = some c → s.mask.get h = true →
      s.oe.excluded.get h = false →
      (c.interval + 8 ≤ (s.rc.heads.get h).due → closes (.referenceOverdue h) ⟨.referenceOverdue, h.num⟩)
      ∧ ((s.rc.heads.get h).due < c.interval + 8 → exec (.referenceOverdue h) s = .next s))

/-- O39. The first end condition of a loaded order fills the end slot and starts CLOSING; a later one changes
nothing. -/
def Obligations.FirstEndConditionDecides : Prop :=
  ∀ (s : State) (slot : EndSlot),
    ((s.oe.engine.running = true ∧ s.oe.endSlot = none) →
      let t := endCondition slot s
      t.oe.engine = .closing ∧ t.oe.endSlot = some slot ∧ Steady s t
      ∧ (∀ h, (t.scan h).state = .notArmed ∧ (t.ref h).state = .notArmed ∧ (t.rc.heads.get h).passage ≠ .opened)
      ∧ t.ru.current = [] ∧ t.ru.next = [] ∧ t.ru.phase = .idle ∧ t.rc.mode = .off
      ∧ t.sf.handshake = .idle ∧ t.sf.stepReq = false ∧ t.sf.fixture = .off)
    ∧ (¬(s.oe.engine.running = true ∧ s.oe.endSlot = none) → endCondition slot s = s)

/-- O40. After the drain the pending gaps and the ORDER-end record are staged; after the completion the
terminal status is written. The model's choices and readings in it: log 1, log 5, log 6, log 45, log 46. -/
def Obligations.DrainedOrderWritesItsEnd : Prop :=
  ∀ (s : State) (slot : EndSlot), s.oe.endSlot = some slot →
    let status : Terminal := if slot.reason = .complete then .done
      else if slot.reason = .abortCommand then .aborted else .failed
    let pending : List Staged := Head.all.filterMap fun h =>
      match (s.ports.get h).gap, (s.ports.get h).gapWaits with
      | some g, false => some ⟨.gap
          { head := h, reason := .gap, step := g.step, zone := 0, firstPass := g.firstPass, lastPass := g.lastPass,
            causes := .none, attempts := 0, first := g.first, last := g.last, count := g.count }, s.oe.activeTag⟩
      | _, _ => none
    ((s.oe.engine = .closing ∧ s.oe.stage = .drain ∧ s.oe.marker = none ∧ s.sb.staged.length ≤ 1019
        ∧ (∀ h, (s.rc.heads.get h).held = none)
        ∧ ∀ h, ∀ e ∈ (s.ports.get h).inFlight, e.abandoned = true ∨ e.pass.kind = .reference) →
      ∃ t gaps, exec .drainComplete s = .next t ∧ Steady s t ∧ t.oe.stage = .records ∧ t.oe.engine = .closing
        ∧ gaps.Perm pending
        ∧ (∀ h, (s.ports.get h).gapWaits = false → (t.ports.get h).gap = none)
        ∧ t.sb.staged = s.sb.staged ++ gaps ++ [⟨.orderEnd
          { tag := s.oe.activeTag, status := status, reason := slot.reason, detail := slot.detail,
            time := s.xe.time, revolution := s.tracker.revolution }, s.oe.activeTag⟩])
    ∧ (((∃ h, (s.rc.heads.get h).held ≠ none)
        ∨ ∃ h, ∃ e ∈ (s.ports.get h).inFlight, e.abandoned = false ∧ e.pass.kind ≠ .reference) →
      exec .drainComplete s = .next s)
    ∧ (s.isStray .completion = false → s.oe.doing = .completion →
      exec .completionWritten s = .next { s with
        oe := { s.oe with stage := .terminal, doing := .terminal }
        xe := { s.xe with bus := s.xe.bus ++ [.ended .completion]
          ++ [.write .terminal [⟨s.oe.chain.getD 0 + 8, [BitVec.ofNat 8 status.code]⟩]] } }
      ∧ status.code = if slot.reason = .complete then 3 else if slot.reason = .abortCommand then 5 else 4)

/-- O41. After the terminal status ORDER_END is set and the unit is faulted, stopped, held or led on along the
link. The model's choices and readings in it: log 5, log 25. -/
def Obligations.TerminalStatusRoutesUnit : Prop :=
  ∀ (s : State) (a : ActiveOrder) (block : Addr) (slot : EndSlot), s.isStray .terminal = false →
    s.oe.doing = .terminal → s.oe.active = some a → s.oe.early = false → s.oe.chain = some block →
    s.oe.endSlot = some slot → (s.uc.unit = .running ∨ s.uc.unit = .halting) →
    ∃ t, exec .terminalStatusWritten s = .next t ∧ SameRegisters s t ∧ t.notice .orderEnd = true
      ∧ (slot.reason ≠ .complete → t.notice .orderFail = true) ∧ t.oe.active = none ∧ t.oe.engine = .idle
      ∧ (if s.uc.fault.isSome then t.uc.unit = .faulted ∧ t.uc.cause = s.uc.fault
        else if s.uc.unit = .halting then t.uc.unit = .stopped ∧ t.uc.stopping = true
        else if slot.reason = .abortCommand ∨ s.oe.abortMark = true then
          t.uc.unit = .held ∧ t.oe.heldReason = some .orderAborted ∧ t.oe.heldPoint = some block
        else if slot.reason ≠ .complete ∧ a.header.flags.continueOnFail = false then
          t.uc.unit = .held ∧ t.oe.heldReason = some .orderFailed ∧ t.oe.heldPoint = some block
        else t.uc.unit = .running ∧ t.oe.doing = .link block ∧ ∃ page : List BusEvent,
          (∀ e ∈ page, ∃ w, e = .write .statusPage w)
          ∧ s.xe.bus ++ [.ended .terminal] ++ page ++ [.read .link block 8] <+: t.xe.bus)

/-- O42. A free entry goes to a waiting port's oldest-ranked record first, then to the other producers. The
model's choices and readings in it: log 1, log 45, log 55. -/
def Obligations.FreedEntryGoesToWaitingProducer : Prop :=
  ∀ s : State,
    let waits (h : Head) : Prop := ((s.ports.get h).gapWaits = true ∧ (s.ports.get h).gap ≠ none)
      ∨ (s.ports.get h).heldSuspended ≠ none ∨ (s.ports.get h).heldHeadLost ≠ none
    let taken (p : Producer) (r : Record) : Prop := ∃ t, exec (.entryGrant p) s = .next t ∧ Steady s t
      ∧ s.sb.staged ++ [⟨r, s.oe.activeTag⟩] <+: t.sb.staged
    (1024 ≤ s.sb.staged.length → ∀ p, exec (.entryGrant p) s = .next s)
    ∧ (s.sb.staged.length < 1024 →
      (∀ h g, (s.ports.get h).gapWaits = true → (s.ports.get h).gap = some g →
        taken (.port h) (.gap
          { head := h, reason := .gap, step := g.step, zone := 0, firstPass := g.firstPass, lastPass := g.lastPass,
            causes := .none, attempts := 0, first := g.first, last := g.last, count := g.count }))
      ∧ (∀ h r, ((s.ports.get h).gapWaits = false ∨ (s.ports.get h).gap = none) →
        (s.ports.get h).heldSuspended = some r → taken (.port h) (.gap r))
      ∧ (∀ h r, ((s.ports.get h).gapWaits = false ∨ (s.ports.get h).gap = none) →
        (s.ports.get h).heldSuspended = none → (s.ports.get h).heldHeadLost = some r → taken (.port h) (.gap r))
      ∧ (∀ h, ¬waits h → exec (.entryGrant (.port h)) s = .next s)
      ∧ (s.oe.marker = none → exec (.entryGrant .orderEngine) s = .next s)
      ∧ (s.ru.held = none → exec (.entryGrant .revisit) s = .next s)
      ∧ ((∀ h, (s.rc.heads.get h).held = none) → exec (.entryGrant .referenceCheck) s = .next s)
      ∧ ((∃ h, waits h) → exec (.entryGrant .referenceCheck) s = .next s
          ∧ exec (.entryGrant .revisit) s = .next s ∧ exec (.entryGrant .orderEngine) s = .next s)
      ∧ ((∀ h, ¬waits h) →
        (∀ r, s.oe.marker = some r → r.isSample = false → ∃ t, exec (.entryGrant .orderEngine) s = .next t
          ∧ s.sb.staged ++ [⟨r, s.oe.activeTag⟩] <+: t.sb.staged
          ∧ ((s.orderKind ≠ some .settings ∨ s.oe.engine = .closing ∨ ∀ x, r ≠ .orderBegin x) → Steady s t))
        ∧ (∀ r, s.ru.held = some r → taken .revisit (.gap r))
        ∧ (∀ x h, Head.all.find? (fun k => (s.rc.heads.get k).held.isSome) = some h →
            (s.rc.heads.get h).held = some x → taken .referenceCheck (.reference x))))

/-- O43. A take reads entries from the cursor round to the first OFFERED one, fills it, closes it with FAULT,
or starves. The model's choices and readings in it: log 5, log 24, log 26, log 41, log 49, log 54, log 59. -/
def Obligations.SegmentTakeFollowsEntry : Prop :=
  ∀ (s : State) (bytes : List Byte),
    let e := readSegmentEntry bytes
    let n := s.rw.entry
    let g : Segment := { index := n, address := e.address, length := e.length, fill := 0, count := 0, firstTag := 0 }
    let usable : Prop := e.address.toNat % 8 = 0 ∧ e.address ≠ 0 ∧ 4096 ≤ e.length ∧ e.length ≤ 1048576
      ∧ e.length % 4096 = 0
    let ended : List BusEvent := s.xe.bus ++ [.ended .segmentEntry]
    let whole : List BusEvent := s.xe.bus ++ issuedAfter .segmentEntry s.rw.rest ++ [.ended .segmentEntry]
    let stateRead (k : Nat) : BusEvent := .read .segmentEntry (entryAddr s.xbase k) 1
    let offerRead (k : Nat) : BusEvent := .read .segmentEntry (entryAddr s.xbase k + 8) 12
    let take : List BusEvent := (takeWrites s.xbase g).map fun w => .write .take [w]
    let fault : List BusEvent :=
      [⟨entryAddr s.xbase n + 0x14, leBytes 4 0⟩, ⟨entryAddr s.xbase n + 0x04, leBytes 4 0⟩,
        ⟨entryAddr s.xbase n + 0x18, leBytes 4 0⟩, ⟨entryAddr s.xbase n + 1, leBytes 1 CloseReason.fault.code⟩,
        ⟨entryAddr s.xbase n, [2]⟩, ⟨entryAddr s.xbase n, [3]⟩].map fun (w : HostWrite) => .write .full [w]
    (s.isStray .segmentEntry = false → s.rw.doing = .entry →
      (e.state ≠ 1 → 2 ≤ s.rw.left → exec (.segmentEntryRead bytes) s = .next { s with
        rw := { s.rw with
          doing := .entry, entry := (n + 1) % 64, left := s.rw.left - 1, rest := [offerRead ((n + 1) % 64)] }
        xe := { s.xe with bus := ended ++ [stateRead ((n + 1) % 64)] } })
      ∧ (e.state ≠ 1 → s.rw.left ≤ 1 → ∃ t, exec (.segmentEntryRead bytes) s = .next t
        ∧ (s.rw.recheck = false → t.rw = { s.rw with phase := .starved, doing := .none, rest := [] }
            ∧ t.xe.bus = ended)
        ∧ (s.rw.recheck = true → t.rw = { s.rw with
              phase := .starved, doing := .entry, entry := s.rw.cursor, left := 64, recheck := false
              rest := [offerRead s.rw.cursor] }
            ∧ t.xe.bus = ended ++ [stateRead s.rw.cursor])
        ∧ (s.rw.phase ≠ .starved → t.notice .segStarved = true) ∧ t.sb = s.sb ∧ t.oe = s.oe ∧ SameRegisters s t)
      ∧ (e.state = 1 → usable → exec (.segmentEntryRead bytes) s = .next { s with
        rw := { s.rw with doing := .take, target := some g, rest := take.drop 1 }
        xe := { s.xe with bus := whole ++ take.take 1 } })
      ∧ (e.state = 1 → ¬usable → exec (.segmentEntryRead bytes) s = .next { s with
        rw := { s.rw with doing := .full .fault, rest := fault.drop 1 }
        xe := { s.xe with bus := whole ++ fault.take 1 } }))
    ∧ (∀ f, s.isStray .take = false → s.rw.doing = .take → s.rw.target = some f →
      let bus := s.xe.bus ++ issuedAfter .take s.rw.rest ++ [.ended .take]
      ∃ t, exec .segmentTakeWritten s = .next t ∧ t.rw.filling = some f ∧ t.rw.target = none
        ∧ t.rw.recheck = false ∧ t.rw.cursor = (f.index + 1) % 64 ∧ t.rw.segments = s.rw.segments ∧ t.sb = s.sb
        ∧ bus <+: t.xe.bus ∧ t.oe = s.oe ∧ SameRegisters s t
        ∧ (s.sb.staged = [] → t.rw.phase = .idle ∧ t.rw.doing = .none ∧ t.xe.bus = bus)
        ∧ ∀ x rest, s.sb.staged = x :: rest → f.fill + x.record.length ≤ f.length →
            t.rw.phase = .writing ∧ t.rw.doing = .record ∧ t.rw.rest = []
            ∧ t.xe.bus = bus ++ [.write .record [⟨f.address + BitVec.ofNat 64 f.fill, x.record.bytes⟩]])

/-- O44. A written record leaves the head of the buffer and advances the segment; fill updates follow STEP-end
and ORDER-end. The model's choices and readings in it: log 1, log 5, log 6, log 37, log 50, log 58, log 59. -/
def Obligations.WrittenRecordLeavesBuffer : Prop :=
  ∀ (s : State) (g : Segment) (x : Staged) (rest : List Staged), s.rw.filling = some g →
    let advanced : Segment := { g with
      fill := g.fill + x.record.length
      count := g.count + 1
      firstTag := if g.count = 0 then x.tag else g.firstTag }
    let written : State := { s with
      sb := { s.sb with staged := rest }
      rw := { s.rw with
        doing := .none
        filling := some advanced
        segments := if s.rw.segments.getLast? = some g.index ∨ 32 ≤ s.rw.segments.length
            then s.rw.segments else s.rw.segments ++ [g.index]
        overflow := s.rw.overflow
            || decide (s.rw.segments.getLast? ≠ some g.index ∧ 32 ≤ s.rw.segments.length) }
      xe := { s.xe with bus := s.xe.bus ++ [.ended .record] } }
    let update : List BusEvent := (fillWrites s.xbase advanced).map fun w => .write .fillUpdate [w]
    let updates : Prop := ∃ r, x.record = .stepEnd r ∨ ∃ r', x.record = .orderEnd r'
    let filled : List BusEvent := s.xe.bus ++ issuedAfter .fillUpdate s.rw.rest ++ [.ended .fillUpdate]
    let close : List BusEvent := (closeWrites s.xbase g .orderEnd).map fun w => .write .full [w]
    let lastWritten : Prop := s.oe.engine = .closing ∧ s.oe.stage = .records
      ∧ ∀ y ∈ s.sb.staged, ∀ r, y.record ≠ .orderEnd r
    (s.isStray .record = false → s.rw.doing = .record → s.sb.staged = x :: rest →
      (updates → exec .recordWritten s = .next (settle (grantFreed { written with
        rw := { written.rw with doing := .fillUpdate, rest := update.drop 1 }
        xe := { written.xe with bus := written.xe.bus ++ update.take 1 } })))
      ∧ (¬updates → exec .recordWritten s = .next (settle (grantFreed (writerNext written))))
      ∧ ∃ t, exec .recordWritten s = .next t ∧ t.rw.filling = some advanced ∧ rest <+: t.sb.staged
        ∧ t.rw.segments = written.rw.segments ∧ t.rw.overflow = written.rw.overflow
        ∧ s.xe.bus ++ [.ended .record] <+: t.xe.bus ∧ SameRegisters s t)
    ∧ (∀ a, s.isStray .fillUpdate = false → s.rw.doing = .fillUpdate → s.oe.active = some a →
      (lastWritten → a.header.flags.closeAtEnd = false →
        ∃ t, exec .fillUpdateWritten s = .next t ∧ t.oe.doing = .completion ∧ t.oe.stage = .completion
          ∧ t.rw.filling = some g ∧ t.sb = s.sb ∧ SameRegisters s t
          ∧ filled ++ [.write .completion (completionWrites s.block s.slot s.oe.flags s.rw.overflow s.oe.counts
              s.sf.capture s.rw.segments s.xe.time s.tracker.revolution)] <+: t.xe.bus)
      ∧ (lastWritten → a.header.flags.closeAtEnd = true → exec .fillUpdateWritten s = .next { s with
          oe := { s.oe with stage := .segment }
          rw := { s.rw with phase := .closingSegment, doing := .full .orderEnd, rest := close.drop 1 }
          xe := { s.xe with bus := filled ++ close.take 1 } })
      ∧ (¬lastWritten → exec .fillUpdateWritten s = .next (writerNext { s with
          rw := { s.rw with doing := .none, rest := [] }
          xe := { s.xe with bus := filled } })))
    ∧ ∀ u : State,
      (u.sb.staged = [] → writerNext u = { u with rw := { u.rw with phase := .idle, doing := .none } })
      ∧ ∀ y ys, u.sb.staged = y :: ys →
        (u.rw.filling = none → writerNext u = { u with
          rw := { u.rw with
            phase := .taking, recheck := false, doing := .entry, entry := u.rw.cursor, left := 64
            rest := [.read .segmentEntry (entryAddr u.xbase u.rw.cursor + 8) 12] }
          xe := { u.xe with bus := u.xe.bus ++ [.read .segmentEntry (entryAddr u.xbase u.rw.cursor) 1] } })
        ∧ ∀ f, u.rw.filling = some f →
          (f.fill + y.record.length ≤ f.length → writerNext u = { u with
            rw := { u.rw with phase := .writing, doing := .record, rest := [] }
            xe := { u.xe with bus := u.xe.bus
              ++ [.write .record [⟨f.address + BitVec.ofNat 64 f.fill, y.record.bytes⟩]] } })
          ∧ (f.length < f.fill + y.record.length →
            let closing : List BusEvent := (closeWrites u.xbase f .length).map fun w => .write .full [w]
            writerNext u = { u with
              rw := { u.rw with phase := .closingSegment, doing := .full .length, rest := closing.drop 1 }
              xe := { u.xe with bus := u.xe.bus ++ closing.take 1 } })

/-- O45. A FULL write sets SEG_FULL and leaves no FILLING segment; after a FAULT close the take goes on. The
model's choices and readings in it: log 5, log 54. -/
def Obligations.FullSegmentIsReported : Prop :=
  ∀ (s : State) (reason : CloseReason), s.isStray .full = false → s.rw.doing = .full reason →
    let bus := s.xe.bus ++ issuedAfter .full s.rw.rest ++ [.ended .full]
    ∃ t, exec .fullWritten s = .next t ∧ t.notice .segFull = true ∧ t.sb = s.sb ∧ SameRegisters s t
      ∧ bus <+: t.xe.bus
      ∧ (reason ≠ .fault → t.rw.filling = none ∧ t.rw.cursor = s.rw.cursor)
      ∧ (reason = .orderEnd → s.oe.engine = .closing → s.oe.stage = .segment →
          t.oe.stage = .completion ∧ t.oe.doing = .completion)
      ∧ (reason = .fault → t.rw.cursor = (s.rw.entry + 1) % 64)
      ∧ (reason = .fault → 2 ≤ s.rw.left → t.rw.doing = .entry ∧ t.rw.entry = (s.rw.entry + 1) % 64
          ∧ t.rw.left = s.rw.left - 1 ∧ t.rw.filling = s.rw.filling
          ∧ t.xe.bus = bus ++ [.read .segmentEntry (entryAddr s.xbase ((s.rw.entry + 1) % 64)) 1])
      ∧ (reason = .fault → s.rw.left ≤ 1 → t.rw.phase = .starved)

/-- O46. A write error faults the unit with BUS_WRITE; in STOPPED a failed page shows its cause; that of an
access let go of has no effect (the model's choice, log 19). The model's choices and readings in it: log 5,
log 6, log 19, log 21, log 35. -/
def Obligations.FailedWriteFaultsUnit : Prop :=
  ∀ (s : State) (source : BusSource),
    let of (k : BusKind) : Prop := match source with
      | .resultWriter => k = .segmentEntry ∨ k = .take ∨ k = .record ∨ k = .fillUpdate ∨ k = .full
      | .orderEngine => k = .completion ∨ k = .terminal
      | .statusPage => k = .statusPage
    let order : Prop := s.oe.doing = .completion ∨ s.oe.doing = .terminal ∨ s.oe.engine.running = true
      ∨ s.oe.engine = .closing
    (∀ k earlier later, s.xe.stray = earlier ++ k :: later → of k → (∀ j ∈ earlier, ¬of j) →
      exec (.busWrite source) s = .next { s with
        xe := { s.xe with stray := earlier ++ later, bus := s.xe.bus ++ [.failed k] } })
    ∧ ((∀ k ∈ s.xe.stray, ¬of k) →
      ((s.uc.unit ≠ .faulted ∧ ((source = .resultWriter ∧ s.rw.doing ≠ .none)
          ∨ (source = .orderEngine ∧ order)
          ∨ (source = .statusPage ∧ s.xe.pageBusy = true ∧ s.uc.unit ≠ .stopped))) →
        ∃ t, exec (.busWrite source) s = .next t ∧ t.uc.unit = .faulted ∧ t.uc.cause = some .busWrite
          ∧ t.uc.fault = none
          ∧ t.notice .unitFault = true ∧ t.rw.phase = .stoppedByFault ∧ t.rw.doing = .none
          ∧ (s.rw.doing ≠ .none → t.rw.rest = [])
          ∧ t.xe.pageBusy = false ∧ t.xe.pageQueued = false ∧ s.sb.staged <+: t.sb.staged
          ∧ t.rw.filling = s.rw.filling ∧ t.oe.engine = .idle ∧ t.oe.active = none ∧ SameRegisters s t)
      ∧ (∀ k, source = .resultWriter → s.rw.doing.kind = some k →
        ∃ t n, exec (.busWrite source) s = .next t ∧ n ≤ s.rw.rest.length
          ∧ s.xe.bus ++ issuedAfter k (s.rw.rest.take n) ++ [.failed k] <+: t.xe.bus)
      ∧ ((s.uc.unit = .faulted ∧ ((source = .resultWriter ∧ s.rw.doing ≠ .none)
          ∨ (source = .orderEngine ∧ order) ∨ (source = .statusPage ∧ s.xe.pageBusy = true))) →
        ∃ t, exec (.busWrite source) s = .next t ∧ t.uc = s.uc ∧ t.sb = s.sb ∧ t.ports = s.ports
          ∧ t.rw.phase = .stoppedByFault ∧ t.rw.doing = .none ∧ t.rw.filling = s.rw.filling ∧ SameRegisters s t
          ∧ (source = .statusPage → t.xe.pageQueued = false
            ∧ t.xe.pageBusy = (s.xe.pageQueued && s.uc.cause != some .busWrite)))
      ∧ (s.uc.unit = .stopped → source = .statusPage → s.xe.pageBusy = true →
        ∃ t, exec (.busWrite source) s = .next t ∧ t.uc.unit = .stopped ∧ t.uc.cause = some .busWrite
          ∧ t.notice .unitFault = s.notice .unitFault ∧ t.sb = s.sb ∧ t.rw = s.rw ∧ SameRegisters s t)
      ∧ (((source = .resultWriter ∧ s.rw.doing = .none) ∨ (source = .orderEngine ∧ ¬order)
          ∨ (source = .statusPage ∧ s.xe.pageBusy = false)) →
        exec (.busWrite source) s = .next s))

/-- O47. START reads the Cell Record and STARTING begins; its checks fail into CELL_INVALID or start homing
and the wakes. The model's choices and readings in it: log 5, log 14, log 24, log 25. -/
def Obligations.StartTakesCellRecord : Prop :=
  ∀ (s : State) (bytes : List Byte),
    let c := readCellRecord bytes
    ((s.uc.unit = .stopped ∧ s.uc.stopping = false) →
      ∃ t, exec .start s = .next t ∧ t.xe.ucmdCode = 1 ∧ t.xe.ucmdResult = .accepted
        ∧ t.tracker.revolution = 0 ∧ ((∀ h, (s.ports.get h).gap = none) → t.sb.highWater = 0)
        ∧ t.rw.cursor = 0 ∧ t.oe.activeTag = 0
        ∧ t.notice .powerOn = false ∧ t.xe.xbaseL = s.xe.xbaseL ∧ t.xe.xbaseH = s.xe.xbaseH
        ∧ t.xe.noteEn = s.xe.noteEn ∧ t.xe.time = s.xe.time ∧ t.pending = s.pending
        ∧ (s.xbase ≠ 0 → t.uc.unit = .starting ∧ t.uc.cause = none ∧ t.uc.cellReading = true
            ∧ t.ports = s.ports ∧ t.sb.staged = s.sb.staged
            ∧ ∃ page : List BusEvent, (∀ e ∈ page, ∃ w, e = .write .statusPage w)
              ∧ t.xe.bus = s.xe.bus ++ page ++ [.read .cellRecord s.xbase 1024])
        ∧ (s.xbase = 0 → t.uc.unit = .faulted ∧ t.uc.cause = some .cellInvalid ∧ t.notice .unitFault = true))
    ∧ (s.isStray .cellRecord = false → s.uc.cellReading = true → s.uc.unit = .starting →
      (∀ r, (r = .error ∨ (r = .data bytes ∧ c.valid = false)) →
        ∃ t, exec (.cellRecordRead r) s = .next t ∧ t.uc.unit = .faulted ∧ t.uc.cause = some .cellInvalid
          ∧ t.notice .unitFault = true ∧ SameRegisters s t)
      ∧ (c.valid = true →
        ∃ t sense, exec (.cellRecordRead (.data bytes)) s = .next t ∧ c.sense = some sense
          ∧ t.uc.unit = .starting ∧ t.uc.cellReading = false ∧ SameRegisters s t
          ∧ t.tracker = { s.tracker with
              state := .seeking, rawCount := 0, travel := none, indexWatch := .stopped
              homingTimer := .running s.xe.time (1000 * c.maxPeriod)
              config := some { cpr := c.cpr, origin := c.origin, sense := sense, maxPeriod := c.maxPeriod } }
          ∧ t.sf.config = some c.span
          ∧ (∀ h, t.uc.startWakes.get h = true ↔ (c.heads.get h).present = true ∧ (t.ports.get h).state = .waking)
          ∧ ∀ h, (t.ports.get h).config = some (c.heads.get h)
            ∧ ((c.heads.get h).present = false → (t.ports.get h).state = (s.ports.get h).state)
            ∧ ((c.heads.get h).present = true → s.light.present = false → (s.ports.get h).state = .off →
                (t.ports.get h).state = .waking ∧ (t.ports.get h).timeoutInForce = (c.heads.get h).timeout
                ∧ (t.ports.get h).sent = (s.ports.get h).sent
                    ++ [.wake (c.heads.get h).codes (c.heads.get h).timeout])))

/-- O48. STARTING ends in RUNNING with the Chain Anchor followed; STOPPED is complete when the close and the
page have ended. The model's choices and readings in it: log 1, log 5, log 14, log 25, log 58. -/
def Obligations.UnitEntriesComplete : Prop :=
  ∀ s : State,
    let ready : Prop := s.uc.unit = .starting ∧ s.uc.cellReading = false ∧ s.tracker.state = .tracking
      ∧ ∀ h, s.uc.startWakes.get h = false
    let complete : Prop := s.uc.stopping = true ∧ s.uc.unit = .stopped ∧ s.rw.doing = .none
      ∧ s.xe.pageBusy = false ∧ s.xe.pageQueued = false
    (ready → ∃ t, exec .unitRunning s = .next t ∧ t.uc = { s.uc with unit := .running }
      ∧ t.oe = { s.oe with engine := .idle, chain := some (s.xbase + 0x400), doing := .link (s.xbase + 0x400) }
      ∧ s.xe.bus ++ [.read .link (s.xbase + 0x400) 8] <+: t.xe.bus ∧ t.ports = s.ports ∧ t.sb = s.sb
      ∧ t.rw = s.rw ∧ t.tracker = s.tracker ∧ SameRegisters s t)
    ∧ (¬ready → exec .unitRunning s = .next s)
    ∧ (complete → exec .stoppedEntryComplete s = .next { s with uc := { s.uc with stopping := false } })
    ∧ (¬complete → exec .stoppedEntryComplete s = .next s)
    ∧ (s.isStray .statusPage = false → s.xe.pageBusy = true →
      (s.xe.pageQueued = true → exec .statusPageWritten s = .next { s with
      xe := { s.xe with
        pageQueued := false
        bus := s.xe.bus ++ [.ended .statusPage] ++ [.write .statusPage s.pageWrites] } })
      ∧ (s.xe.pageQueued = false → ∃ t, exec .statusPageWritten s = .next t
        ∧ t.xe = { s.xe with pageBusy := false, bus := s.xe.bus ++ [.ended .statusPage] }
        ∧ (s.uc.stopping = true → s.uc.unit = .stopped → s.rw.doing = .none → t.uc.stopping = false)
        ∧ t.oe = s.oe ∧ t.rw = s.rw ∧ t.sb = s.sb ∧ t.ports = s.ports))

/-- O49. A command is accepted in its unit states with its effect; refused, it changes UCMD's read-back alone.
That an ABORT taken with the Order Engine IDLE is kept for the end of the read in progress, and the unit stays as it
is until then, is the model's choice (log 60). The model's choices and readings in it: log 5, log 53, log 60. -/
def Obligations.CommandsJudgedByUnitState : Prop :=
  ∀ s : State,
    let answered (code : Nat) (r : CommandResult) : State :=
      { s with xe := { s.xe with ucmdCode := code, ucmdResult := r } }
    (¬(s.uc.unit = .stopped ∧ s.uc.stopping = false) → exec .start s = .next (answered 1 .refusedState))
    ∧ ((s.uc.unit = .stopped ∨ s.uc.unit = .starting ∨ s.uc.unit = .faulted) →
        exec .halt s = .next (answered 2 .refusedState))
    ∧ ((s.uc.unit = .stopped ∨ s.uc.unit = .parked ∨ s.uc.unit = .held ∨ s.uc.unit = .faulted) →
        exec .abort s = .next (answered 3 .refusedState))
    ∧ (s.uc.unit ≠ .held → exec .resume s = .next (answered 4 .refusedState))
    ∧ ((s.uc.unit = .starting ∨ s.uc.unit = .running ∨ s.uc.unit = .halting) →
        exec .stop s = .next (answered 5 .refusedState))
    ∧ (s.uc.unit = .stopped → exec .stop s = .next (answered 5 .accepted))
    ∧ (s.uc.unit = .halting → exec .halt s = .next (answered 2 .accepted))
    ∧ (s.uc.unit = .running → ∃ t, exec .halt s = .next t ∧ t.uc = { s.uc with unit := .halting }
        ∧ t.oe = s.oe ∧ t.rw = s.rw ∧ t.sb = s.sb ∧ t.ports = s.ports ∧ SameRegisters (answered 2 .accepted) t)
    ∧ ((s.uc.unit = .running ∨ s.uc.unit = .halting) →
        (s.oe.engine.running = true → s.oe.endSlot = none →
          ∃ t, exec .abort s = .next t ∧ t.oe.engine = .closing ∧ t.oe.endSlot = some ⟨.abortCommand, 0⟩
            ∧ Steady (answered 3 .accepted) t)
        ∧ ((s.oe.engine = .idle ∨ (s.oe.engine = .fetching ∧ s.oe.early = false)
              ∨ (s.oe.engine = .validating ∧ s.oe.early = false)) →
          ∃ t, exec .abort s = .next t ∧ t.oe.abortPending = true ∧ t.oe.engine = s.oe.engine
            ∧ t.oe.doing = s.oe.doing ∧ Steady (answered 3 .accepted) t)
        ∧ (s.oe.engine = .closing →
          ∃ t, exec .abort s = .next t ∧ t.oe.abortMark = true ∧ t.oe.engine = .closing
            ∧ t.oe.endSlot = s.oe.endSlot ∧ Steady (answered 3 .accepted) t))
    ∧ (∀ p, s.uc.unit = .held → s.oe.heldPoint = some p →
        ∃ t, exec .resume s = .next t ∧ t.uc = { s.uc with unit := .running }
          ∧ t.oe = { s.oe with engine := .idle, heldReason := none, heldPoint := none, doing := .link p }
          ∧ s.xe.bus ++ [.read .link p 8] <+: t.xe.bus ∧ SameRegisters (answered 4 .accepted) t)

/-- O50. STOP, HALT and ABORT enter STOPPED: heads OFF, tracker IDLE, buffer discarded, segment closed with
STOP. That the STOP close begins before the Status Page write is the model's choice (log 43); what the
accesses before it may be follows from log 5 and log 6. The model's choices and readings in it: log 5, log 6,
log 19, log 31, log 34, log 43, log 59. -/
def Obligations.StoppedEntryDisarmsEveryBlock : Prop :=
  ∀ (s : State) (e : Instr) (code : Nat),
    (((s.uc.unit = .parked ∨ s.uc.unit = .held ∨ s.uc.unit = .faulted) ∧ e = .stop ∧ code = 5)
      ∨ ((s.uc.unit = .parked ∨ s.uc.unit = .held) ∧ e = .halt ∧ code = 2)
      ∨ (s.uc.unit = .starting ∧ e = .abort ∧ code = 3)) →
    ∃ t, exec e s = .next t ∧ t.uc.unit = .stopped ∧ t.uc.stopping = true ∧ t.uc.cause = s.uc.cause
      ∧ (∀ h, (t.ports.get h).state = .off ∧ (t.ports.get h).inFlight = [] ∧ (t.ports.get h).wakeTimer = .stopped
          ∧ (t.ports.get h).wakePending = false ∧ (t.ports.get h).gap = none ∧ (t.ports.get h).gapWaits = false
          ∧ (t.ports.get h).heldSuspended = none ∧ (t.ports.get h).heldHeadLost = none
          ∧ (t.ports.get h).faultRecord = (s.ports.get h).faultRecord
          ∧ (t.ports.get h).sent = (s.ports.get h).sent
              ++ (if (s.ports.get h).state = .off then [] else [.sleep]))
      ∧ t.ru.held = none ∧ t.oe.marker = none ∧ t.oe.active = none
      ∧ t.tracker = { s.tracker with
          state := .idle, travel := none, homingTimer := .stopped, indexWatch := .stopped }
      ∧ t.tg.zones = none ∧ (∀ h, (t.scan h).state = .notArmed ∧ (t.ref h).state = .notArmed)
      ∧ t.sf.stepReq = false ∧ t.sf.handshake = .idle ∧ t.sf.fixture = .off ∧ t.rc.mode = .off
      ∧ (∀ h, (t.rc.heads.get h).drift = (s.rc.heads.get h).drift
          ∧ (t.rc.heads.get h).nominal = (s.rc.heads.get h).nominal ∧ (t.rc.heads.get h).held = none)
      ∧ t.sb.staged = [] ∧ t.sb.discarded = s.sb.staged.length ∧ t.sb.highWater = s.sb.highWater
      ∧ t.oe.engine = .idle ∧ t.oe.chain = s.oe.chain ∧ t.oe.park = none ∧ t.oe.heldPoint = none
      ∧ t.oe.doing = .none ∧ t.rw.cursor = s.rw.cursor ∧ t.rw.segments = []
      ∧ (∀ g, s.rw.filling = some g → s.rw.phase ≠ .stoppedByFault → s.rw.phase ≠ .closingSegment →
          t.rw.doing = .full .stop ∧ t.rw.filling = some g
          ∧ ∃ w ws mid, closeWrites s.xbase g .stop = w :: ws
            ∧ (∀ k xs, BusEvent.write k xs ∈ mid → BusEvent.write k xs ∈ s.rw.rest)
            ∧ s.xe.bus ++ mid ++ [.write .full [w]] <+: t.xe.bus
            ∧ t.rw.rest = ws.map fun x => .write .full [x])
      ∧ (s.rw.filling = none → s.rw.phase ≠ .stoppedByFault → s.rw.phase ≠ .closingSegment →
          t.rw.phase = .idle ∧ t.rw.doing = .none)
      ∧ (s.rw.phase = .closingSegment → t.rw.phase = .closingSegment ∧ t.rw.doing = s.rw.doing
          ∧ t.rw.filling = s.rw.filling ∧ t.rw.rest = s.rw.rest)
      ∧ (let order : List BusKind := match s.oe.doing with
           | .none => []
           | .link _ => [.link]
           | .status _ _ => [.blockStatus]
           | .header => [.header]
           | .zoneTable => [.zoneTable]
           | .correction _ => [.correctionTable]
           | .completion => [.completion]
           | .terminal => [.terminal]
         let writer : List BusKind := match s.rw.doing with
           | .none => []
           | .entry => [.segmentEntry]
           | .take => [.take]
           | .record => [.record]
           | .fillUpdate => [.fillUpdate]
           | .full _ => [.full]
         let cell : List BusKind := if s.uc.cellReading then [.cellRecord] else []
         t.uc.cellReading = false
         ∧ ((s.rw.phase = .stoppedByFault ∨ s.rw.phase = .closingSegment) →
           t.xe.stray = s.xe.stray ++ order ++ cell)
         ∧ (s.rw.phase ≠ .stoppedByFault → s.rw.phase ≠ .closingSegment →
           t.xe.stray = s.xe.stray ++ order ++ cell ++ writer))
      ∧ (s.rw.phase = .stoppedByFault → t.rw.phase = .idle ∧ t.rw.filling = none)
      ∧ SameRegisters { s with xe := { s.xe with ucmdCode := code, ucmdResult := .accepted } } t

/-- O51. A soft reset is taken in every state and keeps XBASE, NOTE_EN, the Time Base, two notices and the
reference values. The model's choices and readings in it: log 5, log 9, log 22, log 38. -/
def Obligations.SoftResetKeepsNamedValues : Prop :=
  ∀ (s : State) (levels : Levels),
    ∃ t, exec (.softReset levels) s = .next t ∧ t.uc = UnitControl.reset ∧ t.xe.ucmdCode = 6
      ∧ t.xe.ucmdResult = .accepted ∧ t.xe.xbaseL = s.xe.xbaseL ∧ t.xe.xbaseH = s.xe.xbaseH
      ∧ t.xe.noteEn = s.xe.noteEn ∧ t.xe.time = s.xe.time ∧ t.pending = s.pending
      ∧ (∀ n, t.notice n = (s.notice n && (n == .lightLow || n == .powerOn)))
      ∧ t.rc.config = none ∧ t.rc.mode = .off
      ∧ (∀ h, t.rc.heads.get h = { HeadRef.reset with
          nominal := (s.rc.heads.get h).nominal, nominalValid := (s.rc.heads.get h).nominalValid
          drift := (s.rc.heads.get h).drift })
      ∧ (∀ h, (t.ports.get h).state = .off ∧ (t.ports.get h).faultRecord = .none
          ∧ (t.ports.get h).inFlight = [] ∧ (t.ports.get h).config = none ∧ (t.ports.get h).seqCounter = 0
          ∧ (t.ports.get h).sent = (s.ports.get h).sent
              ++ (if (s.ports.get h).state = .off then [] else [.sleep]))
      ∧ t.sb = Staging.reset ∧ t.oe = OrderEngine.reset ∧ t.rw = Writer.reset ∧ t.qu = Qualifier.reset
      ∧ t.ru = Revisit.reset ∧ t.light = Light.reset ∧ t.tg = TriggerGen.reset ∧ t.sf = Span.reset levels
      ∧ t.mon0 = MonOutput.reset ∧ t.mon1 = MonOutput.reset ∧ t.tracker.state = .idle ∧ t.tracker.config = none
      ∧ t.tracker.revolution = 0
      ∧ t.xe.pageBusy = false ∧ t.xe.pageQueued = false ∧ s.xe.bus <+: t.xe.bus
      ∧ ∀ kind writes, BusEvent.write kind writes ∈ t.xe.bus →
          BusEvent.write kind writes ∈ s.xe.bus ∨ BusEvent.write kind writes ∈ s.rw.rest

/-- O52. A cold reset brings every register to its reset value and every block to its reset state. The model's
choices and readings in it: log 5, log 6, log 8, log 9, log 10, log 11, log 22, log 38, log 48. -/
def Obligations.ColdResetGivesResetState : Prop :=
  (∀ (s : State) (levels : Levels), exec (.coldReset levels) s = .next { State.reset with
        tracker := { Tracker.reset with encA := s.tracker.encA, encB := s.tracker.encB, index := s.tracker.index }
        ports := s.ports.map fun p => { Port.reset with sent := p.sent }
        sf := Span.reset levels
        xe := { Exchange.reset with bus := s.xe.bus }
        free := s.free
        pending := s.pending })
    ∧ State.reset.readRegister 0x04 = 0 ∧ State.reset.readRegister 0x08 = 0 ∧ State.reset.readRegister 0x0C = 0
    ∧ State.reset.readRegister 0x10 = 0 ∧ State.reset.readRegister 0x18 = 0x1000
    ∧ State.reset.readRegister 0x1C = 0 ∧ State.reset.xe.time = 0 ∧ State.reset.interrupt = false
    ∧ State.reset.uc.unit = .stopped ∧ State.reset.uc.cause = none ∧ State.reset.uc.stopping = false
    ∧ State.reset.tracker.state = .idle ∧ State.reset.tracker.config = none ∧ State.reset.tg.zones = none
    ∧ State.reset.sb.staged = [] ∧ State.reset.rw.phase = .idle ∧ State.reset.oe.engine = .idle
    ∧ State.reset.oe.chain = none ∧ State.reset.light.judgement = .unknown ∧ State.reset.light.present = false
    ∧ State.reset.ru.phase = .idle ∧ State.reset.rc.mode = .off
    ∧ ∀ h, (State.reset.ports.get h).state = .off ∧ (State.reset.ports.get h).faultRecord = .none
      ∧ (State.reset.ports.get h).seqCounter = 0 ∧ (State.reset.ports.get h).inFlight = []
      ∧ (State.reset.scan h).state = .notArmed ∧ (State.reset.rc.heads.get h).nominalValid = false

/-- O53. A nudge rechecks the park point in PARKED and the Segment Table in STARVED, whatever value it
carries. The model's choices and readings in it: log 5. -/
def Obligations.NudgeReachesItsReceivers : Prop :=
  ∀ (s : State) (v : Word),
    let atPark (o : OrderEngine) (bus : List BusEvent) : Prop :=
      (s.uc.unit = .parked ∧ s.oe.doing = .none ∧ ∃ p, s.oe.park = some p
        ∧ o = { s.oe with engine := .idle, doing := .link p } ∧ bus = [.read .link p 8])
      ∨ (s.uc.unit = .parked ∧ s.oe.doing ≠ .none ∧ o = { s.oe with recheck := true } ∧ bus = [])
      ∨ ((s.uc.unit ≠ .parked ∨ (s.oe.doing = .none ∧ s.oe.park = none)) ∧ o = s.oe ∧ bus = [])
    let atTable (w : Writer) (bus : List BusEvent) : Prop :=
      (s.rw.phase = .starved ∧ s.rw.doing = .none
        ∧ w = { s.rw with
          recheck := false, doing := .entry, entry := s.rw.cursor, left := 64
          rest := [.read .segmentEntry (entryAddr s.xbase s.rw.cursor + 8) 12] }
        ∧ bus = [.read .segmentEntry (entryAddr s.xbase s.rw.cursor) 1])
      ∨ ((s.rw.phase = .taking ∨ (s.rw.phase = .starved ∧ s.rw.doing ≠ .none))
        ∧ w = { s.rw with recheck := true } ∧ bus = [])
      ∨ (s.rw.phase ≠ .starved ∧ s.rw.phase ≠ .taking ∧ w = s.rw ∧ bus = [])
    (∃ o link w entry, atPark o link ∧ atTable w entry)
    ∧ (∀ o link w entry, atPark o link → atTable w entry →
      exec (.nudge v) s = .next { s with
        oe := o
        rw := w
        xe := { s.xe with bus := s.xe.bus ++ link ++ entry } })
    ∧ ∀ w : Word, exec (.nudge v) s = exec (.nudge w) s

/-- O54. Notice writes clear their bits, NOTE_EN takes its 13, and the interrupt follows both. The model's
choices and readings in it: log 14. -/
def Obligations.NoticesAndInterrupt : Prop :=
  (∀ (s : State) (v : Word),
    let cleared : State := { s with
    xe := { s.xe with noteRaw := s.xe.noteRaw &&& ~~~(
      if s.light.judgement = .good then v.setWidth 13 else v.setWidth 13 &&& 0x1DFF) } }
    let clears : Prop := v.getLsbD 9 = true ∧ s.light.judgement = .good ∧ s.light.mode = .latched
      ∧ s.light.present = true
    (∀ n, cleared.notice n = (s.notice n && !(v.getLsbD n.bit && (n != .lightLow || s.light.judgement == .good))))
    ∧ (¬clears → exec (.noteRawWrite v) s = .next cleared)
    ∧ (clears → ∃ t, exec (.noteRawWrite v) s = .next t ∧
        Steady { cleared with
          light := { s.light with present := false }
          ports := s.ports.map fun p =>
            match p.config with
            | some c =>
              if p.state = .forcedOff ∧ p.wakePending = true then
                { p with
                  state := .waking
                  wakePending := false
                  wakeTimer := .running s.xe.time 100000
                  seqCounter := 0
                  timeoutInForce := c.timeout
                  sent := p.sent ++ [.wake c.codes c.timeout] }
              else p
            | none => p } t)
    ∧ exec (.noteEnWrite v) s = .next { s with xe := { s.xe with noteEn := v.setWidth 13 } })
    ∧ (∀ s : State,
    (s.interrupt = true ↔ ∃ i, s.xe.noteRaw.getLsbD i = true ∧ s.xe.noteEn.getLsbD i = true)
    ∧ (s.xe.noteEn = 0 → s.interrupt = false)
    ∧ ∀ (n : Notice) (v : Word), s.notice n = true → v.getLsbD n.bit = true →
        ∃ t, exec (.noteEnWrite v) s = .next t ∧ t.interrupt = true)

/-- O55. XBASE takes full writes in a completed STOPPED, 4 KiB aligned; every other write of the row is
ignored. The model's choices and readings in it: log 23. -/
def Obligations.BaseWrittenInStoppedOnly : Prop :=
  ∀ (s : State) (offset : BitVec 12) (enables : BitVec 4) (v : Word),
    let open_ : Prop := enables = 15 ∧ s.uc.unit = .stopped ∧ s.uc.stopping = false
    (open_ → offset = 4 → exec (.registerWrite offset enables v) s
        = .next { s with xe := { s.xe with xbaseL := BitVec.ofNat 32 (v.toNat / 4096 * 4096) } })
    ∧ (open_ → offset = 8 → exec (.registerWrite offset enables v) s
        = .next { s with xe := { s.xe with xbaseH := v } })
    ∧ ((¬open_ ∨ (offset ≠ 4 ∧ offset ≠ 8)) → exec (.registerWrite offset enables v) s = .next s)

/-- O56. Every record is written in exactly the bytes its type gives, beginning with its type code, and all
lengths are multiples of 8. -/
def Obligations.RecordLengthsMatchTheirBytes : Prop :=
  ∀ r : Record,
    r.bytes.length = r.length
    ∧ (r.length, r.typeCode) = (match r with
      | .sample x => (match x.body with
        | .raw _ => (8, 1)
        | .compact _ _ => (8, 2)
        | .standard _ => (16, 3)
        | .extended _ _ _ _ => (24, 4))
      | .orderBegin _ => (24, 8)
      | .orderEnd _ => (24, 9)
      | .stepBegin _ => (32, 10)
      | .stepEnd _ => (24, 11)
      | .gap _ => (24, 12)
      | .reference _ => (40, 13))
    ∧ ∃ b, r.bytes[0]? = some b ∧ b.toNat % 16 = r.typeCode

/-- O57. No step passes a capacity of the buffer or the lists, or takes the base off its alignment. -/
def Obligations.InvariantsKeptByEveryStep : Prop :=
  (∀ s : State, bufferWithin s.sb.staged → flightsWithin s.ports → listsWithin s.ru → segmentsWithin s.rw →
    ∃ t, step s = .next t ∧ bufferWithin t.sb.staged ∧ flightsWithin t.ports ∧ listsWithin t.ru
      ∧ segmentsWithin t.rw)
    ∧ (∀ s : State, baseAligned s.xe.xbaseL → ∃ t, step s = .next t ∧ baseAligned t.xe.xbaseL)

/-- O58. No step lets the writer take a segment while another is FILLING, or write a record or a close for LENGTH,
ORDER_END or STOP without one. That a FAULT close stands in TAKING or STARVED, with no FILLING segment, is the
model's reading of R160 (log 26). The model's choices and readings in it: log 26. -/
def Obligations.OneSegmentFillsAtATime : Prop :=
  ∀ s : State, WriterSound s.rw → ∃ t, step s = .next t ∧ WriterSound t.rw

/-- O59. No step unbalances an order: issued is accepted, rejected, dropped, abandoned and the groups still
open. The model's choices and readings in it: log 37. -/
def Obligations.OrderCountsStayBalanced : Prop :=
  ∀ s : State,
    (FlightsSound s → ∃ t, step s = .next t ∧ FlightsSound t
      ∧ (s.countsOrder → s.balanced → t.oe.active.isSome = true → t.balanced))
    ∧ (s.balanced → s.drained = true →
        s.oe.counts.issued = s.oe.counts.accepted + s.oe.counts.rejected + s.oe.counts.dropped
          + s.oe.counts.abandoned)

/-- O60. The reset state is within every capacity, its base aligned, its writer and lists sound, and no
command waits. The model's choices and readings in it: log 22. -/
def Obligations.ResetMeetsInvariants : Prop :=
  bufferWithin State.reset.sb.staged ∧ flightsWithin State.reset.ports ∧ listsWithin State.reset.ru
    ∧ segmentsWithin State.reset.rw ∧ baseAligned State.reset.xe.xbaseL
    ∧ WriterSound State.reset.rw ∧ FlightsSound State.reset ∧ State.reset.pending = []
end

