-- ==== Sys2Proof/Laws/State.lean ====
section
/-! SUPPORT. What each update of one part leaves of the other parts, and reading back a head's part. -/

namespace Sys2Proof.Machine

/-! ## One thing per head -/

/-- The part set is the part read. -/
@[simp] theorem get_set_same {α : Type} (p : PerHead α) (h : Head) (x : α) : (p.set h x).get h = x := by
  cases h <;> rfl

/-- Another head's part is left. -/
theorem get_set_other {α : Type} (p : PerHead α) {h k : Head} (x : α) (hk : k ≠ h) :
    (p.set h x).get k = p.get k := by
  cases h <;> cases k <;> first | rfl | exact absurd rfl hk

/-- A part of the quadruple made from one function. -/
@[simp] theorem get_of {α : Type} (f : Head → α) (h : Head) : (PerHead.of f).get h = f h := by cases h <;> rfl

/-- A part of the quadruple changed throughout. -/
@[simp] theorem get_map {α β : Type} (f : α → β) (p : PerHead α) (h : Head) : (p.map f).get h = f (p.get h) := by
  cases h <;> rfl

/-- A part of the quadruple of equal parts. -/
@[simp] theorem get_all {α : Type} (x : α) (h : Head) : (PerHead.all x).get h = x := by cases h <;> rfl

/-! ## onPort -/

section
variable (s : State) (h : Head) (f : Port → Port)

@[simp] theorem onPort_tracker : (s.onPort h f).tracker = s.tracker := rfl
@[simp] theorem onPort_tg : (s.onPort h f).tg = s.tg := rfl
@[simp] theorem onPort_ports : (s.onPort h f).ports = s.ports.set h (f (s.ports.get h)) := rfl
@[simp] theorem onPort_light : (s.onPort h f).light = s.light := rfl
@[simp] theorem onPort_mon0 : (s.onPort h f).mon0 = s.mon0 := rfl
@[simp] theorem onPort_mon1 : (s.onPort h f).mon1 = s.mon1 := rfl
@[simp] theorem onPort_qu : (s.onPort h f).qu = s.qu := rfl
@[simp] theorem onPort_ru : (s.onPort h f).ru = s.ru := rfl
@[simp] theorem onPort_rc : (s.onPort h f).rc = s.rc := rfl
@[simp] theorem onPort_sf : (s.onPort h f).sf = s.sf := rfl
@[simp] theorem onPort_oe : (s.onPort h f).oe = s.oe := rfl
@[simp] theorem onPort_sb : (s.onPort h f).sb = s.sb := rfl
@[simp] theorem onPort_rw : (s.onPort h f).rw = s.rw := rfl
@[simp] theorem onPort_xe : (s.onPort h f).xe = s.xe := rfl
@[simp] theorem onPort_uc : (s.onPort h f).uc = s.uc := rfl
@[simp] theorem onPort_free : (s.onPort h f).free = s.free := rfl
@[simp] theorem onPort_pending : (s.onPort h f).pending = s.pending := rfl

end

/-! ## onPasses -/

section
variable (s : State) (h : Head) (f : HeadPasses → HeadPasses)

@[simp] theorem onPasses_tracker : (s.onPasses h f).tracker = s.tracker := rfl
@[simp] theorem onPasses_tg : (s.onPasses h f).tg = { s.tg with heads := s.tg.heads.set h (f (s.tg.heads.get h)) } := rfl
@[simp] theorem onPasses_ports : (s.onPasses h f).ports = s.ports := rfl
@[simp] theorem onPasses_light : (s.onPasses h f).light = s.light := rfl
@[simp] theorem onPasses_mon0 : (s.onPasses h f).mon0 = s.mon0 := rfl
@[simp] theorem onPasses_mon1 : (s.onPasses h f).mon1 = s.mon1 := rfl
@[simp] theorem onPasses_qu : (s.onPasses h f).qu = s.qu := rfl
@[simp] theorem onPasses_ru : (s.onPasses h f).ru = s.ru := rfl
@[simp] theorem onPasses_rc : (s.onPasses h f).rc = s.rc := rfl
@[simp] theorem onPasses_sf : (s.onPasses h f).sf = s.sf := rfl
@[simp] theorem onPasses_oe : (s.onPasses h f).oe = s.oe := rfl
@[simp] theorem onPasses_sb : (s.onPasses h f).sb = s.sb := rfl
@[simp] theorem onPasses_rw : (s.onPasses h f).rw = s.rw := rfl
@[simp] theorem onPasses_xe : (s.onPasses h f).xe = s.xe := rfl
@[simp] theorem onPasses_uc : (s.onPasses h f).uc = s.uc := rfl
@[simp] theorem onPasses_free : (s.onPasses h f).free = s.free := rfl
@[simp] theorem onPasses_pending : (s.onPasses h f).pending = s.pending := rfl

end

/-! ## onScan -/

section
variable (s : State) (h : Head) (f : PassRecord → PassRecord)

@[simp] theorem onScan_tracker : (s.onScan h f).tracker = s.tracker := rfl
@[simp] theorem onScan_ports : (s.onScan h f).ports = s.ports := rfl
@[simp] theorem onScan_light : (s.onScan h f).light = s.light := rfl
@[simp] theorem onScan_mon0 : (s.onScan h f).mon0 = s.mon0 := rfl
@[simp] theorem onScan_mon1 : (s.onScan h f).mon1 = s.mon1 := rfl
@[simp] theorem onScan_qu : (s.onScan h f).qu = s.qu := rfl
@[simp] theorem onScan_ru : (s.onScan h f).ru = s.ru := rfl
@[simp] theorem onScan_rc : (s.onScan h f).rc = s.rc := rfl
@[simp] theorem onScan_sf : (s.onScan h f).sf = s.sf := rfl
@[simp] theorem onScan_oe : (s.onScan h f).oe = s.oe := rfl
@[simp] theorem onScan_sb : (s.onScan h f).sb = s.sb := rfl
@[simp] theorem onScan_rw : (s.onScan h f).rw = s.rw := rfl
@[simp] theorem onScan_xe : (s.onScan h f).xe = s.xe := rfl
@[simp] theorem onScan_uc : (s.onScan h f).uc = s.uc := rfl
@[simp] theorem onScan_free : (s.onScan h f).free = s.free := rfl
@[simp] theorem onScan_pending : (s.onScan h f).pending = s.pending := rfl

end

/-! ## onRef -/

section
variable (s : State) (h : Head) (f : PassRecord → PassRecord)

@[simp] theorem onRef_tracker : (s.onRef h f).tracker = s.tracker := rfl
@[simp] theorem onRef_ports : (s.onRef h f).ports = s.ports := rfl
@[simp] theorem onRef_light : (s.onRef h f).light = s.light := rfl
@[simp] theorem onRef_mon0 : (s.onRef h f).mon0 = s.mon0 := rfl
@[simp] theorem onRef_mon1 : (s.onRef h f).mon1 = s.mon1 := rfl
@[simp] theorem onRef_qu : (s.onRef h f).qu = s.qu := rfl
@[simp] theorem onRef_ru : (s.onRef h f).ru = s.ru := rfl
@[simp] theorem onRef_rc : (s.onRef h f).rc = s.rc := rfl
@[simp] theorem onRef_sf : (s.onRef h f).sf = s.sf := rfl
@[simp] theorem onRef_oe : (s.onRef h f).oe = s.oe := rfl
@[simp] theorem onRef_sb : (s.onRef h f).sb = s.sb := rfl
@[simp] theorem onRef_rw : (s.onRef h f).rw = s.rw := rfl
@[simp] theorem onRef_xe : (s.onRef h f).xe = s.xe := rfl
@[simp] theorem onRef_uc : (s.onRef h f).uc = s.uc := rfl
@[simp] theorem onRef_free : (s.onRef h f).free = s.free := rfl
@[simp] theorem onRef_pending : (s.onRef h f).pending = s.pending := rfl

end

/-! ## onQual -/

section
variable (s : State) (h : Head) (f : HeadQual → HeadQual)

@[simp] theorem onQual_tracker : (s.onQual h f).tracker = s.tracker := rfl
@[simp] theorem onQual_tg : (s.onQual h f).tg = s.tg := rfl
@[simp] theorem onQual_ports : (s.onQual h f).ports = s.ports := rfl
@[simp] theorem onQual_light : (s.onQual h f).light = s.light := rfl
@[simp] theorem onQual_mon0 : (s.onQual h f).mon0 = s.mon0 := rfl
@[simp] theorem onQual_mon1 : (s.onQual h f).mon1 = s.mon1 := rfl
@[simp] theorem onQual_qu : (s.onQual h f).qu = { s.qu with heads := s.qu.heads.set h (f (s.qu.heads.get h)) } := rfl
@[simp] theorem onQual_ru : (s.onQual h f).ru = s.ru := rfl
@[simp] theorem onQual_rc : (s.onQual h f).rc = s.rc := rfl
@[simp] theorem onQual_sf : (s.onQual h f).sf = s.sf := rfl
@[simp] theorem onQual_oe : (s.onQual h f).oe = s.oe := rfl
@[simp] theorem onQual_sb : (s.onQual h f).sb = s.sb := rfl
@[simp] theorem onQual_rw : (s.onQual h f).rw = s.rw := rfl
@[simp] theorem onQual_xe : (s.onQual h f).xe = s.xe := rfl
@[simp] theorem onQual_uc : (s.onQual h f).uc = s.uc := rfl
@[simp] theorem onQual_free : (s.onQual h f).free = s.free := rfl
@[simp] theorem onQual_pending : (s.onQual h f).pending = s.pending := rfl

end

/-! ## onHeadRef -/

section
variable (s : State) (h : Head) (f : HeadRef → HeadRef)

@[simp] theorem onHeadRef_tracker : (s.onHeadRef h f).tracker = s.tracker := rfl
@[simp] theorem onHeadRef_tg : (s.onHeadRef h f).tg = s.tg := rfl
@[simp] theorem onHeadRef_ports : (s.onHeadRef h f).ports = s.ports := rfl
@[simp] theorem onHeadRef_light : (s.onHeadRef h f).light = s.light := rfl
@[simp] theorem onHeadRef_mon0 : (s.onHeadRef h f).mon0 = s.mon0 := rfl
@[simp] theorem onHeadRef_mon1 : (s.onHeadRef h f).mon1 = s.mon1 := rfl
@[simp] theorem onHeadRef_qu : (s.onHeadRef h f).qu = s.qu := rfl
@[simp] theorem onHeadRef_ru : (s.onHeadRef h f).ru = s.ru := rfl
@[simp] theorem onHeadRef_rc : (s.onHeadRef h f).rc = { s.rc with heads := s.rc.heads.set h (f (s.rc.heads.get h)) } := rfl
@[simp] theorem onHeadRef_sf : (s.onHeadRef h f).sf = s.sf := rfl
@[simp] theorem onHeadRef_oe : (s.onHeadRef h f).oe = s.oe := rfl
@[simp] theorem onHeadRef_sb : (s.onHeadRef h f).sb = s.sb := rfl
@[simp] theorem onHeadRef_rw : (s.onHeadRef h f).rw = s.rw := rfl
@[simp] theorem onHeadRef_xe : (s.onHeadRef h f).xe = s.xe := rfl
@[simp] theorem onHeadRef_uc : (s.onHeadRef h f).uc = s.uc := rfl
@[simp] theorem onHeadRef_free : (s.onHeadRef h f).free = s.free := rfl
@[simp] theorem onHeadRef_pending : (s.onHeadRef h f).pending = s.pending := rfl

end

/-! ## onCounts -/

section
variable (s : State) (f : Counts → Counts)

@[simp] theorem onCounts_tracker : (s.onCounts f).tracker = s.tracker := rfl
@[simp] theorem onCounts_tg : (s.onCounts f).tg = s.tg := rfl
@[simp] theorem onCounts_ports : (s.onCounts f).ports = s.ports := rfl
@[simp] theorem onCounts_light : (s.onCounts f).light = s.light := rfl
@[simp] theorem onCounts_mon0 : (s.onCounts f).mon0 = s.mon0 := rfl
@[simp] theorem onCounts_mon1 : (s.onCounts f).mon1 = s.mon1 := rfl
@[simp] theorem onCounts_qu : (s.onCounts f).qu = s.qu := rfl
@[simp] theorem onCounts_ru : (s.onCounts f).ru = s.ru := rfl
@[simp] theorem onCounts_rc : (s.onCounts f).rc = s.rc := rfl
@[simp] theorem onCounts_sf : (s.onCounts f).sf = s.sf := rfl
@[simp] theorem onCounts_oe : (s.onCounts f).oe = { s.oe with counts := f s.oe.counts } := rfl
@[simp] theorem onCounts_sb : (s.onCounts f).sb = s.sb := rfl
@[simp] theorem onCounts_rw : (s.onCounts f).rw = s.rw := rfl
@[simp] theorem onCounts_xe : (s.onCounts f).xe = s.xe := rfl
@[simp] theorem onCounts_uc : (s.onCounts f).uc = s.uc := rfl
@[simp] theorem onCounts_free : (s.onCounts f).free = s.free := rfl
@[simp] theorem onCounts_pending : (s.onCounts f).pending = s.pending := rfl

end

/-! ## onOrder -/

section
variable (s : State) (f : OrderEngine → OrderEngine)

@[simp] theorem onOrder_tracker : (s.onOrder f).tracker = s.tracker := rfl
@[simp] theorem onOrder_tg : (s.onOrder f).tg = s.tg := rfl
@[simp] theorem onOrder_ports : (s.onOrder f).ports = s.ports := rfl
@[simp] theorem onOrder_light : (s.onOrder f).light = s.light := rfl
@[simp] theorem onOrder_mon0 : (s.onOrder f).mon0 = s.mon0 := rfl
@[simp] theorem onOrder_mon1 : (s.onOrder f).mon1 = s.mon1 := rfl
@[simp] theorem onOrder_qu : (s.onOrder f).qu = s.qu := rfl
@[simp] theorem onOrder_ru : (s.onOrder f).ru = s.ru := rfl
@[simp] theorem onOrder_rc : (s.onOrder f).rc = s.rc := rfl
@[simp] theorem onOrder_sf : (s.onOrder f).sf = s.sf := rfl
@[simp] theorem onOrder_oe : (s.onOrder f).oe = f s.oe := rfl
@[simp] theorem onOrder_sb : (s.onOrder f).sb = s.sb := rfl
@[simp] theorem onOrder_rw : (s.onOrder f).rw = s.rw := rfl
@[simp] theorem onOrder_xe : (s.onOrder f).xe = s.xe := rfl
@[simp] theorem onOrder_uc : (s.onOrder f).uc = s.uc := rfl
@[simp] theorem onOrder_free : (s.onOrder f).free = s.free := rfl
@[simp] theorem onOrder_pending : (s.onOrder f).pending = s.pending := rfl

end

/-! ## onFlags -/

section
variable (s : State) (f : CompletionFlags → CompletionFlags)

@[simp] theorem onFlags_tracker : (s.onFlags f).tracker = s.tracker := rfl
@[simp] theorem onFlags_tg : (s.onFlags f).tg = s.tg := rfl
@[simp] theorem onFlags_ports : (s.onFlags f).ports = s.ports := rfl
@[simp] theorem onFlags_light : (s.onFlags f).light = s.light := rfl
@[simp] theorem onFlags_mon0 : (s.onFlags f).mon0 = s.mon0 := rfl
@[simp] theorem onFlags_mon1 : (s.onFlags f).mon1 = s.mon1 := rfl
@[simp] theorem onFlags_qu : (s.onFlags f).qu = s.qu := rfl
@[simp] theorem onFlags_ru : (s.onFlags f).ru = s.ru := rfl
@[simp] theorem onFlags_rc : (s.onFlags f).rc = s.rc := rfl
@[simp] theorem onFlags_sf : (s.onFlags f).sf = s.sf := rfl
@[simp] theorem onFlags_oe : (s.onFlags f).oe = { s.oe with flags := f s.oe.flags } := rfl
@[simp] theorem onFlags_sb : (s.onFlags f).sb = s.sb := rfl
@[simp] theorem onFlags_rw : (s.onFlags f).rw = s.rw := rfl
@[simp] theorem onFlags_xe : (s.onFlags f).xe = s.xe := rfl
@[simp] theorem onFlags_uc : (s.onFlags f).uc = s.uc := rfl
@[simp] theorem onFlags_free : (s.onFlags f).free = s.free := rfl
@[simp] theorem onFlags_pending : (s.onFlags f).pending = s.pending := rfl

end

/-! ## onSpan -/

section
variable (s : State) (g : Span → Span)

@[simp] theorem onSpan_tracker : (s.onSpan g).tracker = s.tracker := rfl
@[simp] theorem onSpan_tg : (s.onSpan g).tg = s.tg := rfl
@[simp] theorem onSpan_ports : (s.onSpan g).ports = s.ports := rfl
@[simp] theorem onSpan_light : (s.onSpan g).light = s.light := rfl
@[simp] theorem onSpan_mon0 : (s.onSpan g).mon0 = s.mon0 := rfl
@[simp] theorem onSpan_mon1 : (s.onSpan g).mon1 = s.mon1 := rfl
@[simp] theorem onSpan_qu : (s.onSpan g).qu = s.qu := rfl
@[simp] theorem onSpan_ru : (s.onSpan g).ru = s.ru := rfl
@[simp] theorem onSpan_rc : (s.onSpan g).rc = s.rc := rfl
@[simp] theorem onSpan_sf : (s.onSpan g).sf = g s.sf := rfl
@[simp] theorem onSpan_oe : (s.onSpan g).oe = s.oe := rfl
@[simp] theorem onSpan_sb : (s.onSpan g).sb = s.sb := rfl
@[simp] theorem onSpan_rw : (s.onSpan g).rw = s.rw := rfl
@[simp] theorem onSpan_xe : (s.onSpan g).xe = s.xe := rfl
@[simp] theorem onSpan_uc : (s.onSpan g).uc = s.uc := rfl
@[simp] theorem onSpan_free : (s.onSpan g).free = s.free := rfl
@[simp] theorem onSpan_pending : (s.onSpan g).pending = s.pending := rfl

end

/-! ## endWake -/

section
variable (h : Head) (s : State)

@[simp] theorem endWake_tracker : (endWake h s).tracker = s.tracker := rfl
@[simp] theorem endWake_tg : (endWake h s).tg = s.tg := rfl
@[simp] theorem endWake_ports : (endWake h s).ports = s.ports := rfl
@[simp] theorem endWake_light : (endWake h s).light = s.light := rfl
@[simp] theorem endWake_mon0 : (endWake h s).mon0 = s.mon0 := rfl
@[simp] theorem endWake_mon1 : (endWake h s).mon1 = s.mon1 := rfl
@[simp] theorem endWake_qu : (endWake h s).qu = s.qu := rfl
@[simp] theorem endWake_ru : (endWake h s).ru = s.ru := rfl
@[simp] theorem endWake_rc : (endWake h s).rc = s.rc := rfl
@[simp] theorem endWake_sf : (endWake h s).sf = s.sf := rfl
@[simp] theorem endWake_oe : (endWake h s).oe = s.oe := rfl
@[simp] theorem endWake_sb : (endWake h s).sb = s.sb := rfl
@[simp] theorem endWake_rw : (endWake h s).rw = s.rw := rfl
@[simp] theorem endWake_xe : (endWake h s).xe = s.xe := rfl
@[simp] theorem endWake_uc : (endWake h s).uc = { s.uc with startWakes := s.uc.startWakes.set h false } := rfl
@[simp] theorem endWake_free : (endWake h s).free = s.free := rfl
@[simp] theorem endWake_pending : (endWake h s).pending = s.pending := rfl

end

/-! ## endGroup -/

section
variable (k : BusKind) (s : State)

@[simp] theorem endGroup_tracker : (endGroup k s).tracker = s.tracker := rfl
@[simp] theorem endGroup_tg : (endGroup k s).tg = s.tg := rfl
@[simp] theorem endGroup_ports : (endGroup k s).ports = s.ports := rfl
@[simp] theorem endGroup_light : (endGroup k s).light = s.light := rfl
@[simp] theorem endGroup_mon0 : (endGroup k s).mon0 = s.mon0 := rfl
@[simp] theorem endGroup_mon1 : (endGroup k s).mon1 = s.mon1 := rfl
@[simp] theorem endGroup_qu : (endGroup k s).qu = s.qu := rfl
@[simp] theorem endGroup_ru : (endGroup k s).ru = s.ru := rfl
@[simp] theorem endGroup_rc : (endGroup k s).rc = s.rc := rfl
@[simp] theorem endGroup_sf : (endGroup k s).sf = s.sf := rfl
@[simp] theorem endGroup_oe : (endGroup k s).oe = s.oe := rfl
@[simp] theorem endGroup_sb : (endGroup k s).sb = s.sb := rfl
@[simp] theorem endGroup_rw : (endGroup k s).rw = { s.rw with rest := [] } := rfl
@[simp] theorem endGroup_xe : (endGroup k s).xe = { s.xe with bus := s.xe.bus ++ issuedAfter k s.rw.rest ++ [.ended k] } := rfl
@[simp] theorem endGroup_uc : (endGroup k s).uc = s.uc := rfl
@[simp] theorem endGroup_free : (endGroup k s).free = s.free := rfl
@[simp] theorem endGroup_pending : (endGroup k s).pending = s.pending := rfl

end

/-! ## beginGroup -/

section
variable (e : BusEvent) (rest : List BusEvent) (s : State)

@[simp] theorem beginGroup_tracker : (beginGroup (e :: rest) s).tracker = s.tracker := rfl
@[simp] theorem beginGroup_tg : (beginGroup (e :: rest) s).tg = s.tg := rfl
@[simp] theorem beginGroup_ports : (beginGroup (e :: rest) s).ports = s.ports := rfl
@[simp] theorem beginGroup_light : (beginGroup (e :: rest) s).light = s.light := rfl
@[simp] theorem beginGroup_mon0 : (beginGroup (e :: rest) s).mon0 = s.mon0 := rfl
@[simp] theorem beginGroup_mon1 : (beginGroup (e :: rest) s).mon1 = s.mon1 := rfl
@[simp] theorem beginGroup_qu : (beginGroup (e :: rest) s).qu = s.qu := rfl
@[simp] theorem beginGroup_ru : (beginGroup (e :: rest) s).ru = s.ru := rfl
@[simp] theorem beginGroup_rc : (beginGroup (e :: rest) s).rc = s.rc := rfl
@[simp] theorem beginGroup_sf : (beginGroup (e :: rest) s).sf = s.sf := rfl
@[simp] theorem beginGroup_oe : (beginGroup (e :: rest) s).oe = s.oe := rfl
@[simp] theorem beginGroup_sb : (beginGroup (e :: rest) s).sb = s.sb := rfl
@[simp] theorem beginGroup_rw : (beginGroup (e :: rest) s).rw = { s.rw with rest := rest } := rfl
@[simp] theorem beginGroup_xe : (beginGroup (e :: rest) s).xe = { s.xe with bus := s.xe.bus ++ [e] } := rfl
@[simp] theorem beginGroup_uc : (beginGroup (e :: rest) s).uc = s.uc := rfl
@[simp] theorem beginGroup_free : (beginGroup (e :: rest) s).free = s.free := rfl
@[simp] theorem beginGroup_pending : (beginGroup (e :: rest) s).pending = s.pending := rfl

end

end Sys2Proof.Machine
end

