-- ==== Sys2Proof/Laws/Steady.lean ====
section
/-! SUPPORT. The steps at the end of an event leave alone what Steady names: one lemma for each operation they go through. -/

namespace Sys2Proof.Machine

/-! ## The relation -/

theorem SameLink.refl (p : Port) : SameLink p p := ⟨rfl, rfl, rfl, rfl, rfl, rfl, rfl, rfl, rfl, rfl⟩

theorem SameLink.trans {p q r : Port} (a : SameLink p q) (c : SameLink q r) : SameLink p r :=
  ⟨c.state.trans a.state, c.faultRecord.trans a.faultRecord, c.wakeTimer.trans a.wakeTimer,
    c.wakePending.trans a.wakePending, c.seqCounter.trans a.seqCounter, c.config.trans a.config,
    c.timeoutInForce.trans a.timeoutInForce, c.linkWatch.trans a.linkWatch, c.sent.trans a.sent,
    c.inFlight.trans a.inFlight⟩

/-- An abandoned mark is no other change. -/
theorem marked_link (p : Port) (test : InFlight → Bool) : SameLink p (p.marked test) := by
  refine ⟨rfl, rfl, rfl, rfl, rfl, rfl, rfl, rfl, rfl, ?_⟩
  simp only [Port.marked, List.map_map]
  refine List.map_congr_left fun e _ => ?_
  simp only [Function.comp]
  split <;> rfl

theorem Steady.refl (s : State) : Steady s s where
  tracker := rfl
  ports := fun _ => SameLink.refl _
  light := rfl
  mon0 := rfl
  mon1 := rfl
  tables := fun _ => rfl
  reference := rfl
  waitLines := rfl
  fixtureLines := rfl
  lineConfig := rfl
  activeTag := rfl
  dropFlag := rfl
  stallCount := rfl
  discarded := rfl
  staged := List.prefix_refl _
  highWater := Nat.le_refl _
  cursor := rfl
  segments := rfl
  overflow := rfl
  filling := rfl
  xbaseL := rfl
  xbaseH := rfl
  ucmdCode := rfl
  ucmdResult := rfl
  noteEn := rfl
  time := rfl
  stray := rfl
  notices := fun _ h => h
  bus := List.prefix_refl _
  cause := rfl
  stopping := rfl
  fault := rfl
  cellReading := rfl
  startWakes := rfl
  unit := Or.inl rfl
  pending := rfl

variable {b s t : State}

/-- A change outside what Steady names keeps it. -/
theorem Steady.same (h : Steady b s) (tracker : t.tracker = s.tracker) (ports : t.ports = s.ports)
    (light : t.light = s.light) (mon0 : t.mon0 = s.mon0) (mon1 : t.mon1 = s.mon1)
    (tables : ∀ k, (t.qu.heads.get k).table = (s.qu.heads.get k).table) (reference : t.rc.config = s.rc.config)
    (waitLines : t.sf.w = s.sf.w) (fixtureLines : t.sf.f = s.sf.f) (lineConfig : t.sf.config = s.sf.config)
    (activeTag : t.oe.activeTag = s.oe.activeTag) (sb : t.sb = s.sb) (cursor : t.rw.cursor = s.rw.cursor)
    (segments : t.rw.segments = s.rw.segments) (overflow : t.rw.overflow = s.rw.overflow)
    (filling : t.rw.filling = s.rw.filling) (xe : t.xe = s.xe)
    (uc : t.uc = s.uc) (pending : t.pending = s.pending) : Steady b t where
  tracker := tracker.trans h.tracker
  ports := fun k => by rw [ports]; exact h.ports k
  light := light.trans h.light
  mon0 := mon0.trans h.mon0
  mon1 := mon1.trans h.mon1
  tables := fun k => (tables k).trans (h.tables k)
  reference := reference.trans h.reference
  waitLines := waitLines.trans h.waitLines
  fixtureLines := fixtureLines.trans h.fixtureLines
  lineConfig := lineConfig.trans h.lineConfig
  activeTag := activeTag.trans h.activeTag
  dropFlag := by rw [sb]; exact h.dropFlag
  stallCount := by rw [sb]; exact h.stallCount
  discarded := by rw [sb]; exact h.discarded
  staged := by rw [sb]; exact h.staged
  highWater := by rw [sb]; exact h.highWater
  cursor := cursor.trans h.cursor
  segments := segments.trans h.segments
  overflow := overflow.trans h.overflow
  filling := filling.trans h.filling
  xbaseL := by rw [xe]; exact h.xbaseL
  xbaseH := by rw [xe]; exact h.xbaseH
  ucmdCode := by rw [xe]; exact h.ucmdCode
  ucmdResult := by rw [xe]; exact h.ucmdResult
  noteEn := by rw [xe]; exact h.noteEn
  time := by rw [xe]; exact h.time
  stray := by rw [xe]; exact h.stray
  notices := fun n hn => by
    have := h.notices n hn
    unfold State.notice at this ⊢
    rw [xe]; exact this
  bus := by rw [xe]; exact h.bus
  cause := by rw [uc]; exact h.cause
  stopping := by rw [uc]; exact h.stopping
  fault := by rw [uc]; exact h.fault
  cellReading := by rw [uc]; exact h.cellReading
  startWakes := by rw [uc]; exact h.startWakes
  unit := by rw [uc]; exact h.unit
  pending := pending.trans h.pending

/-! ## The operations that add to what Steady names -/

theorem setNotice_steady (n : Notice) (h : Steady b s) : Steady b (setNotice n s) :=
  { h with
    notices := fun m hm => by
      have := h.notices m hm
      simp only [State.notice, setNotice, BitVec.getLsbD_or, Bool.or_eq_true] at this ⊢
      exact Or.inl this }

theorem logBus_steady (e : BusEvent) (h : Steady b s) : Steady b (logBus e s) :=
  { h with bus := h.bus.trans (List.prefix_append _ _) }

theorem beginRead_steady (k : BusKind) (a : Addr) (n : Nat) (h : Steady b s) :
    Steady b (beginRead k a n s) := logBus_steady _ h

theorem beginWrite_steady (k : BusKind) (w : List HostWrite) (h : Steady b s) :
    Steady b (beginWrite k w s) := logBus_steady _ h

theorem pageFlags_steady (x y : Bool) (h : Steady b s) :
    Steady b { s with xe := { s.xe with pageBusy := x, pageQueued := y } } := { h with }

theorem onPort_steady (k : Head) (f : Port → Port) (hf : ∀ p, SameLink p (f p)) (h : Steady b s) :
    Steady b (s.onPort k f) :=
  { h with
    ports := fun j => by
      refine (h.ports j).trans ?_
      by_cases hj : j = k
      · subst hj; simpa using hf _
      · rw [onPort_ports, get_set_other _ _ hj]; exact SameLink.refl _ }

theorem onQual_steady (k : Head) (f : HeadQual → HeadQual) (hf : ∀ q, (f q).table = q.table) (h : Steady b s) :
    Steady b (s.onQual k f) :=
  { h with
    tables := fun j => by
      refine Eq.trans ?_ (h.tables j)
      by_cases hj : j = k
      · subst hj; simpa using hf _
      · simp [get_set_other _ _ hj] }

theorem onHeadRef_steady (k : Head) (f : HeadRef → HeadRef) (h : Steady b s) : Steady b (s.onHeadRef k f) :=
  { h with }

theorem onPasses_steady (k : Head) (f : HeadPasses → HeadPasses) (h : Steady b s) :
    Steady b (s.onPasses k f) := { h with }

theorem onRef_steady (k : Head) (f : PassRecord → PassRecord) (h : Steady b s) : Steady b (s.onRef k f) :=
  { h with }

theorem onCounts_steady (f : Counts → Counts) (h : Steady b s) : Steady b (s.onCounts f) := { h with }

theorem onFlags_steady (f : CompletionFlags → CompletionFlags) (h : Steady b s) : Steady b (s.onFlags f) :=
  { h with }

theorem onOrder_steady (f : OrderEngine → OrderEngine) (hf : (f s.oe).activeTag = s.oe.activeTag)
    (h : Steady b s) : Steady b (s.onOrder f) := { h with activeTag := hf.trans h.activeTag }

theorem onSpan_steady (f : Span → Span) (hw : ∀ x, (f x).w = x.w) (hf : ∀ x, (f x).f = x.f)
    (hc : ∀ x, (f x).config = x.config) (h : Steady b s) : Steady b (s.onSpan f) :=
  { h with
    waitLines := (hw _).trans h.waitLines
    fixtureLines := (hf _).trans h.fixtureLines
    lineConfig := (hc _).trans h.lineConfig }

theorem forHeads_steady {f : Head → State → State} (hf : ∀ k s, Steady b s → Steady b (f k s))
    (h : Steady b s) : Steady b (forHeads f s) := hf _ _ (hf _ _ (hf _ _ (hf _ _ h)))

theorem chosen_steady (n : Nat) (h : Steady b s) : Steady b (s.chosen n) := by
  unfold State.chosen
  split
  · exact h
  · exact { h with }

theorem inFreeOrder_steady {α : Type} {f : α → State → State} (hf : ∀ k s, Steady b s → Steady b (f k s))
    (n : Nat) (xs : List α) (h : Steady b s) : Steady b (inFreeOrder f n xs s) := by
  induction n generalizing xs s with
  | zero => exact h
  | succ n ih =>
    unfold inFreeOrder
    split
    · exact h
    · exact ih _ (hf _ _ (chosen_steady _ h))

theorem forFree_steady {f : Head → State → State} (hf : ∀ k s, Steady b s → Steady b (f k s)) (hs : List Head)
    (h : Steady b s) : Steady b (forFree hs f s) := inFreeOrder_steady hf _ _ h

theorem foldl_steady {α : Type} {f : State → α → State} (hf : ∀ s x, Steady b s → Steady b (f s x)) (l : List α)
    (h : Steady b s) : Steady b (l.foldl f s) := by
  induction l generalizing s with
  | nil => exact h
  | cons x xs ih => exact ih (hf _ _ h)

theorem ite_steady {c : Prop} [Decidable c] (h : Steady b s) (k : Steady b t) : Steady b (if c then s else t) := by
  split
  · exact h
  · exact k

theorem tg_steady (x : TriggerGen) (h : Steady b s) : Steady b { s with tg := x } := { h with }

theorem ru_steady (x : Revisit) (h : Steady b s) : Steady b { s with ru := x } := { h with }

theorem rc_steady (x : RefCheck) (hx : x.config = s.rc.config) (h : Steady b s) : Steady b { s with rc := x } :=
  { h with reference := hx.trans h.reference }

theorem qu_steady (x : Qualifier) (hx : x.heads = s.qu.heads) (h : Steady b s) : Steady b { s with qu := x } :=
  { h with tables := fun k => by rw [← h.tables k]; exact congrArg (fun q => (q.get k).table) hx }

theorem rw_steady (x : Writer) (hc : x.cursor = s.rw.cursor) (hs : x.segments = s.rw.segments)
    (ho : x.overflow = s.rw.overflow) (hf : x.filling = s.rw.filling) (h : Steady b s) :
    Steady b { s with rw := x } :=
  { h with
    cursor := hc.trans h.cursor
    segments := hs.trans h.segments
    overflow := ho.trans h.overflow
    filling := hf.trans h.filling }

theorem beginGroup_steady (g : List BusEvent) (h : Steady b s) : Steady b (beginGroup g s) := by
  cases g
  · exact h
  · exact logBus_steady _ (rw_steady _ rfl rfl rfl rfl h)

/-! ## Every operation the steps go through -/

theorem beginPage_steady (h : Steady b s) : Steady b (beginPage s) :=
  beginWrite_steady _ _ (pageFlags_steady _ _ h)

theorem requestPage_steady (h : Steady b s) : Steady b (requestPage s) := by
  unfold requestPage
  repeat' split
  · exact h
  · exact pageFlags_steady _ _ h
  · exact beginPage_steady h

theorem readEntry_steady (n left : Nat) (hb : Steady b s) : Steady b (readEntry n left s) := by
  unfold readEntry
  repeat' first
    | with_reducible assumption | with_reducible rfl | with_reducible refine beginGroup_steady _ ?_
    | with_reducible refine rw_steady _ ?_ ?_ ?_ ?_ ?_

theorem beginTake_steady (hb : Steady b s) : Steady b (beginTake s) := by
  unfold beginTake
  repeat' first
    | with_reducible assumption | with_reducible rfl | with_reducible refine readEntry_steady _ _ ?_
    | with_reducible refine rw_steady _ ?_ ?_ ?_ ?_ ?_

theorem beginClose_steady (reason : CloseReason) (g : Segment) (hb : Steady b s) :
    Steady b (beginClose reason g s) := by
  unfold beginClose
  repeat' first
    | with_reducible assumption | with_reducible rfl | with_reducible refine beginGroup_steady _ ?_
    | with_reducible refine rw_steady _ ?_ ?_ ?_ ?_ ?_

theorem beginRecord_steady (r : Record) (g : Segment) (hb : Steady b s) : Steady b (beginRecord r g s) := by
  unfold beginRecord
  repeat' first
    | with_reducible assumption | with_reducible rfl | with_reducible refine beginGroup_steady _ ?_
    | with_reducible refine rw_steady _ ?_ ?_ ?_ ?_ ?_

theorem writerNext_steady (hb : Steady b s) : Steady b (writerNext s) := by
  unfold writerNext
  repeat' first
    | with_reducible assumption | with_reducible rfl | with_reducible refine beginRecord_steady _ _ ?_
    | with_reducible refine beginClose_steady _ _ ?_ | with_reducible refine beginTake_steady ?_
    | with_reducible refine ite_steady ?_ ?_ | split | with_reducible refine rw_steady _ ?_ ?_ ?_ ?_ ?_

theorem wakeWriter_steady (hb : Steady b s) : Steady b (wakeWriter s) := by
  unfold wakeWriter
  repeat' first
    | with_reducible assumption | with_reducible refine writerNext_steady ?_
    | with_reducible refine ite_steady ?_ ?_

theorem joinRecord_steady (r : Record) (h : Steady b s) : Steady b (joinRecord r s) := by
  unfold joinRecord
  refine wakeWriter_steady ?_
  have joined : Steady b { s with sb := s.sb.append r s.oe.activeTag } :=
    { h with
      staged := h.staged.trans (List.prefix_append _ _)
      highWater := Nat.le_trans h.highWater (Nat.le_max_left _ _) }
  split
  · exact setNotice_steady _ joined
  · exact joined

theorem takeRecord_steady (r : Record) (h : Steady b s) : Steady b (takeRecord r s) := by
  unfold takeRecord
  split
  · exact joinRecord_steady r h
  · exact h

theorem emptyLists_steady (phase : ListPhase) (hb : Steady b s) : Steady b (emptyLists phase s) := by
  unfold emptyLists
  repeat' first
    | with_reducible assumption | with_reducible refine ru_steady _ ?_

theorem listsAcquiring_steady (hb : Steady b s) : Steady b (listsAcquiring s) := by
  unfold listsAcquiring
  repeat' first
    | with_reducible assumption | with_reducible refine ru_steady _ ?_

theorem unawait_steady (h : Head) (hb : Steady b s) : Steady b (unawait h s) := by
  unfold unawait
  repeat' first
    | with_reducible assumption | with_reducible refine ru_steady _ ?_

theorem takeGap_steady (h : Head) (g : PendingGap) (hb : Steady b s) : Steady b (takeGap h g s) := by
  unfold takeGap
  repeat' first
    | with_reducible assumption | (intro _; exact ⟨rfl, rfl, rfl, rfl, rfl, rfl, rfl, rfl, rfl, rfl⟩)
    | with_reducible refine takeRecord_steady _ ?_ | with_reducible refine onPort_steady _ _ ?_ ?_

theorem offerGap_steady (h : Head) (hb : Steady b s) : Steady b (offerGap h s) := by
  unfold offerGap
  repeat' first
    | with_reducible assumption | (intro _; exact ⟨rfl, rfl, rfl, rfl, rfl, rfl, rfl, rfl, rfl, rfl⟩)
    | with_reducible refine takeGap_steady _ _ ?_ | with_reducible refine onPort_steady _ _ ?_ ?_
    | with_reducible refine ite_steady ?_ ?_ | split

theorem disarmScanOnly_steady (h : Head) (hb : Steady b s) : Steady b (disarmScanOnly h s) := by
  unfold disarmScanOnly
  repeat' first
    | with_reducible assumption | with_reducible refine onPasses_steady _ _ ?_

theorem disarmRef_steady (h : Head) (hb : Steady b s) : Steady b (disarmRef h s) := by
  unfold disarmRef
  repeat' first
    | with_reducible assumption | (intro _; exact marked_link _ _)
    | with_reducible refine onRef_steady _ _ ?_ | with_reducible refine onPort_steady _ _ ?_ ?_

theorem offerGaps_steady (hb : Steady b s) : Steady b (offerGaps s) := by
  unfold offerGaps
  repeat' first
    | with_reducible assumption | with_reducible refine offerGap_steady _ ?_
    | with_reducible refine forFree_steady (fun _ _ _ => ?_) _ ?_

theorem disarmScans_steady (hb : Steady b s) : Steady b (disarmScans s) := by
  unfold disarmScans
  repeat' first
    | with_reducible assumption | with_reducible refine offerGaps_steady ?_
    | with_reducible refine disarmScanOnly_steady _ ?_
    | with_reducible refine forHeads_steady (fun _ _ _ => ?_) ?_

theorem endPassage_steady (h : Head) (hb : Steady b s) : Steady b (endPassage h s) := by
  unfold endPassage
  repeat' first
    | with_reducible assumption | with_reducible refine disarmRef_steady _ ?_
    | with_reducible refine onHeadRef_steady _ _ ?_ | with_reducible refine ite_steady ?_ ?_

theorem armScan_steady (pass : PassId) (passes : Nat) (h : Head) (hb : Steady b s) :
    Steady b (armScan pass passes h s) := by
  unfold armScan
  repeat' first
    | with_reducible assumption | with_reducible refine onPasses_steady _ _ ?_

theorem armNormal_steady (h : Head) (hb : Steady b s) : Steady b (armNormal h s) := by
  unfold armNormal
  repeat' first
    | with_reducible assumption | with_reducible refine armScan_steady _ _ _ ?_

theorem armRevisit_steady (round : Nat) (h : Head) (hb : Steady b s) : Steady b (armRevisit round h s) := by
  unfold armRevisit
  repeat' first
    | with_reducible assumption | with_reducible refine armScan_steady _ _ _ ?_

theorem armReference_steady (h : Head) (hb : Steady b s) : Steady b (armReference h s) := by
  unfold armReference
  repeat' first
    | with_reducible assumption | with_reducible refine onPasses_steady _ _ ?_ | split

theorem clearCounters_steady (hb : Steady b s) : Steady b (clearCounters s) := by
  unfold clearCounters
  repeat' first
    | with_reducible assumption | (intro _; rfl)
    | with_reducible refine forHeads_steady (fun _ _ _ => ?_) ?_
    | with_reducible refine onQual_steady _ _ ?_ ?_ | with_reducible refine ite_steady ?_ ?_

theorem setSettle_steady (x : SettleState) (hb : Steady b s) : Steady b (setSettle x s) := by
  unfold setSettle
  repeat' first
    | with_reducible assumption | with_reducible rfl | with_reducible refine qu_steady _ ?_ ?_

theorem enterEngine_steady (e : EngineState) (hb : Steady b s) : Steady b (enterEngine e s) := by
  unfold enterEngine
  repeat' first
    | with_reducible assumption | with_reducible rfl | with_reducible refine onOrder_steady _ ?_ ?_

theorem holdMarker_steady (r : Record) (hb : Steady b s) : Steady b (holdMarker r s) := by
  unfold holdMarker
  repeat' first
    | with_reducible assumption | with_reducible rfl | with_reducible refine onOrder_steady _ ?_ ?_

theorem openClosing_steady (hb : Steady b s) : Steady b (openClosing s) := by
  unfold openClosing
  repeat' first
    | with_reducible assumption | with_reducible rfl | with_reducible refine holdMarker_steady _ ?_
    | with_reducible refine onOrder_steady _ ?_ ?_ | with_reducible refine takeRecord_steady _ ?_
    | with_reducible refine ite_steady ?_ ?_ | split

theorem closePassage_steady (h : Head) (hb : Steady b s) : Steady b (closePassage h s) := by
  unfold closePassage
  repeat' first
    | with_reducible assumption | with_reducible refine endPassage_steady _ ?_
    | with_reducible refine disarmRef_steady _ ?_

theorem referenceOff_steady (hb : Steady b s) : Steady b (referenceOff s) := by
  unfold referenceOff
  repeat' first
    | with_reducible assumption | with_reducible rfl | with_reducible refine rc_steady _ ?_ ?_

theorem enterClosing_steady (slot : EndSlot) (hb : Steady b s) : Steady b (enterClosing slot s) := by
  unfold enterClosing
  dsimp only
  repeat' first
    | with_reducible assumption | with_reducible rfl | (intro _; rfl)
    | with_reducible refine referenceOff_steady ?_ | with_reducible refine closePassage_steady _ ?_
    | with_reducible refine openClosing_steady ?_ | with_reducible refine onOrder_steady _ ?_ ?_
    | with_reducible refine onSpan_steady _ ?_ ?_ ?_ ?_ | with_reducible refine disarmScans_steady ?_
    | with_reducible refine forHeads_steady (fun _ _ _ => ?_) ?_

theorem endCondition_steady (slot : EndSlot) (hb : Steady b s) : Steady b (endCondition slot s) := by
  unfold endCondition
  repeat' first
    | with_reducible assumption | with_reducible refine enterClosing_steady _ ?_
    | with_reducible refine emptyLists_steady _ ?_ | with_reducible refine ite_steady ?_ ?_

theorem offerOrderEnd_steady (hb : Steady b s) : Steady b (offerOrderEnd s) := by
  unfold offerOrderEnd
  repeat' first
    | with_reducible assumption | with_reducible rfl | with_reducible refine holdMarker_steady _ ?_
    | with_reducible refine onOrder_steady _ ?_ ?_ | with_reducible refine takeRecord_steady _ ?_
    | with_reducible refine ite_steady ?_ ?_

theorem completeDrain_steady (hb : Steady b s) : Steady b (completeDrain s) := by
  unfold completeDrain
  repeat' first
    | with_reducible assumption | with_reducible rfl | with_reducible refine offerOrderEnd_steady ?_
    | with_reducible refine onOrder_steady _ ?_ ?_ | with_reducible refine offerGaps_steady ?_

theorem settleDrain_steady (hb : Steady b s) : Steady b (settleDrain s) := by
  unfold settleDrain
  repeat' first
    | with_reducible assumption | with_reducible refine completeDrain_steady ?_
    | with_reducible refine ite_steady ?_ ?_

theorem enterStepMove_steady (hb : Steady b s) : Steady b (enterStepMove s) := by
  unfold enterStepMove
  refine onSpan_steady _ ?_ ?_ ?_ (onOrder_steady _ rfl hb)
  all_goals
    intro x
    unfold Span.requested
    dsimp only
    split <;> rfl

theorem enterLightWait_steady (interrupting : Bool) (hb : Steady b s) :
    Steady b (enterLightWait interrupting s) := by
  unfold enterLightWait
  repeat' first
    | with_reducible assumption | with_reducible rfl | with_reducible refine onOrder_steady _ ?_ ?_
    | with_reducible refine disarmScans_steady ?_

theorem forWorking_steady {f : Head → State → State} (hf : ∀ k s, Steady b s → Steady b (f k s))
    (h : Steady b s) : Steady b (forWorking f s) :=
  forHeads_steady (fun k s h => ite_steady (hf k s h) h) h

theorem enterAcquiring_steady (hb : Steady b s) : Steady b (enterAcquiring s) := by
  unfold enterAcquiring
  repeat' first
    | with_reducible assumption | with_reducible refine forWorking_steady (fun _ _ _ => ?_) ?_
    | with_reducible refine enterLightWait_steady _ ?_ | with_reducible refine enterEngine_steady _ ?_
    | with_reducible refine armNormal_steady _ ?_ | with_reducible refine listsAcquiring_steady ?_
    | with_reducible refine ite_steady ?_ ?_

theorem stepEndTaken_steady (hb : Steady b s) : Steady b (stepEndTaken s) := by
  unfold stepEndTaken
  dsimp only
  repeat' first
    | with_reducible assumption | with_reducible rfl | with_reducible refine enterStepMove_steady ?_
    | with_reducible refine enterClosing_steady _ ?_ | with_reducible refine onOrder_steady _ ?_ ?_
    | with_reducible refine requestPage_steady ?_ | with_reducible refine onCounts_steady _ ?_
    | with_reducible refine ite_steady ?_ ?_

theorem offerStepEnd_steady (hb : Steady b s) : Steady b (offerStepEnd s) := by
  unfold offerStepEnd
  repeat' first
    | with_reducible assumption | with_reducible refine stepEndTaken_steady ?_
    | with_reducible refine holdMarker_steady _ ?_ | with_reducible refine takeRecord_steady _ ?_
    | with_reducible refine ite_steady ?_ ?_

theorem listsClosed_steady (hb : Steady b s) : Steady b (listsClosed s) := by
  unfold listsClosed
  dsimp only
  repeat' first
    | with_reducible assumption | with_reducible refine offerStepEnd_steady ?_
    | with_reducible refine onFlags_steady _ ?_ | with_reducible refine ite_steady ?_ ?_ | split
    | with_reducible refine ru_steady _ ?_

theorem takeUnresolved_steady (r : GapRecord) (rest : List Entry) (hb : Steady b s) :
    Steady b (takeUnresolved r rest s) := by
  unfold takeUnresolved
  repeat' first
    | with_reducible assumption | with_reducible refine takeRecord_steady _ ?_
    | with_reducible refine onCounts_steady _ ?_ | with_reducible refine ru_steady _ ?_

theorem stageUnresolved_steady (l : List Entry) (h : Steady b s) : Steady b (stageUnresolved l s) := by
  induction l generalizing s with
  | nil => exact listsClosed_steady h
  | cons e es ih =>
    unfold stageUnresolved
    split
    · exact ih (takeUnresolved_steady _ _ h)
    · exact { h with }

theorem enterStepClose_steady (hb : Steady b s) : Steady b (enterStepClose s) := by
  unfold enterStepClose
  repeat' first
    | with_reducible assumption | with_reducible refine stageUnresolved_steady _ ?_
    | with_reducible refine enterEngine_steady _ ?_ | with_reducible refine ru_steady _ ?_

theorem startRound_steady (hb : Steady b s) : Steady b (startRound s) := by
  unfold startRound
  dsimp only
  repeat' first
    | with_reducible assumption | with_reducible refine enterEngine_steady _ ?_
    | with_reducible refine armRevisit_steady _ _ ?_
    | with_reducible refine forHeads_steady (fun _ _ _ => ?_) ?_
    | with_reducible refine ite_steady ?_ ?_ | split | with_reducible refine ru_steady _ ?_

theorem roundDecision_steady (hb : Steady b s) : Steady b (roundDecision s) := by
  unfold roundDecision
  repeat' first
    | with_reducible assumption | with_reducible refine startRound_steady ?_
    | with_reducible refine enterStepClose_steady ?_ | with_reducible refine ite_steady ?_ ?_

theorem closeSeries_steady (h : Head) (hb : Steady b s) : Steady b (closeSeries h s) := by
  unfold closeSeries
  repeat' first
    | with_reducible assumption | with_reducible refine unawait_steady _ ?_
    | with_reducible refine onPasses_steady _ _ ?_

theorem settleSeries_steady (h : Head) (hb : Steady b s) : Steady b (settleSeries h s) := by
  unfold settleSeries
  repeat' first
    | with_reducible assumption | with_reducible refine closeSeries_steady _ ?_
    | with_reducible refine ite_steady ?_ ?_

theorem endPasses_steady (hb : Steady b s) : Steady b (endPasses s) := by
  unfold endPasses
  repeat' first
    | with_reducible assumption | with_reducible refine roundDecision_steady ?_
    | with_reducible refine ru_steady _ ?_

theorem restartTaken_steady (time : Time) (hb : Steady b s) : Steady b (restartTaken time s) := by
  unfold restartTaken
  dsimp only
  repeat' first
    | with_reducible assumption | with_reducible rfl | with_reducible refine enterAcquiring_steady ?_
    | with_reducible refine onFlags_steady _ ?_ | with_reducible refine onOrder_steady _ ?_ ?_
    | with_reducible refine setSettle_steady _ ?_ | with_reducible refine clearCounters_steady ?_
    | with_reducible refine disarmScans_steady ?_ | with_reducible refine listsAcquiring_steady ?_
    | with_reducible refine onCounts_steady _ ?_

theorem departLightWait_steady (hb : Steady b s) : Steady b (departLightWait s) := by
  unfold departLightWait
  dsimp only
  repeat' first
    | with_reducible assumption | with_reducible refine restartTaken_steady _ ?_
    | with_reducible refine enterAcquiring_steady ?_ | with_reducible refine endCondition_steady _ ?_
    | with_reducible refine holdMarker_steady _ ?_ | with_reducible refine takeRecord_steady _ ?_
    | with_reducible refine ite_steady ?_ ?_ | split

theorem endArming_steady (hb : Steady b s) : Steady b (endArming s) := by
  unfold endArming
  dsimp only
  repeat' first
    | with_reducible assumption | with_reducible rfl | with_reducible refine enterAcquiring_steady ?_
    | with_reducible refine enterStepMove_steady ?_
    | with_reducible refine forHeads_steady (fun _ _ _ => ?_) ?_
    | with_reducible refine onHeadRef_steady _ _ ?_ | with_reducible refine ite_steady ?_ ?_ | split
    | with_reducible refine rc_steady _ ?_ ?_

theorem matchRequest_steady (hb : Steady b s) : Steady b (matchRequest s) := by
  unfold matchRequest
  dsimp only
  repeat' first
    | with_reducible assumption | (intro _; rfl) | with_reducible refine endArming_steady ?_
    | with_reducible refine endCondition_steady _ ?_ | with_reducible refine onSpan_steady _ ?_ ?_ ?_ ?_
    | with_reducible refine ite_steady ?_ ?_

theorem enterArming_steady (hb : Steady b s) : Steady b (enterArming s) := by
  unfold enterArming
  dsimp only
  repeat' first
    | with_reducible assumption | with_reducible refine matchRequest_steady ?_
    | with_reducible refine endArming_steady ?_ | with_reducible refine enterEngine_steady _ ?_
    | with_reducible refine ite_steady ?_ ?_

/-- With no records of a SETTINGS order to install. -/
theorem orderBeginTaken_steady (hk : s.orderKind ≠ some .settings) (h : Steady b s) :
    Steady b (orderBeginTaken s) := by
  have taken : Steady b (s.onOrder fun o => { o with marker := none, beginTaken := true }) :=
    onOrder_steady _ rfl h
  unfold orderBeginTaken
  dsimp only
  split
  · exact taken
  · rename_i a ha
    have hkind : a.header.kind ≠ some .settings := by
      intro hs
      apply hk
      have ha : s.oe.active = some a := ha
      simp [State.orderKind, ha, hs]
    split
    · exact enterClosing_steady _ taken
    · exact absurd (by assumption) hkind
    · exact enterArming_steady taken

/-- Taking a record leaves the active order. -/
theorem takeRecord_active (r : Record) (s : State) : (takeRecord r s).oe = s.oe := by
  unfold takeRecord joinRecord wakeWriter
  repeat' split
  all_goals first
    | rfl
    | (unfold writerNext; repeat' split) <;> rfl

/-- With no records of a SETTINGS order to install. -/
theorem offerOrderBegin_steady (hk : s.orderKind ≠ some .settings) (h : Steady b s) :
    Steady b (offerOrderBegin s) := by
  unfold offerOrderBegin
  split
  · exact h
  · split
    · refine orderBeginTaken_steady ?_ (takeRecord_steady _ h)
      intro hs
      exact hk (by simpa only [State.orderKind, takeRecord_active] using hs)
    · exact holdMarker_steady _ h

theorem endLoading_steady (h : Steady b s) : Steady b (endLoading s) := by
  unfold endLoading
  split
  · exact enterClosing_steady _ h
  · split
    · exact endCondition_steady _ h
    · exact offerOrderBegin_steady (by assumption) h

theorem requestPassage_steady (h : Head) (hb : Steady b s) : Steady b (requestPassage h s) := by
  unfold requestPassage
  repeat' first
    | with_reducible assumption | with_reducible refine armReference_steady _ ?_
    | with_reducible refine onHeadRef_steady _ _ ?_

theorem settleRequest_steady (h : Head) (hb : Steady b s) : Steady b (settleRequest h s) := by
  unfold settleRequest
  repeat' first
    | with_reducible assumption | with_reducible refine requestPassage_steady _ ?_
    | with_reducible refine ite_steady ?_ ?_

theorem overLimitTaken_steady (h : Head) (hb : Steady b s) : Steady b (overLimitTaken h s) := by
  unfold overLimitTaken
  dsimp only
  repeat' first
    | with_reducible assumption | with_reducible refine endCondition_steady _ ?_
    | with_reducible refine onFlags_steady _ ?_ | with_reducible refine setNotice_steady _ ?_
    | with_reducible refine ite_steady ?_ ?_

theorem applyVerdict_steady (x : ReferenceRecord) (hb : Steady b s) : Steady b (applyVerdict x s) := by
  unfold applyVerdict
  dsimp only
  repeat' first
    | with_reducible assumption | with_reducible refine overLimitTaken_steady _ ?_
    | with_reducible refine onHeadRef_steady _ _ ?_ | with_reducible refine ite_steady ?_ ?_

theorem offerReference_steady (x : ReferenceRecord) (hb : Steady b s) : Steady b (offerReference x s) := by
  unfold offerReference
  repeat' first
    | with_reducible assumption | with_reducible refine applyVerdict_steady _ ?_
    | with_reducible refine takeRecord_steady _ ?_ | with_reducible refine onHeadRef_steady _ _ ?_
    | with_reducible refine ite_steady ?_ ?_

theorem completePassage_steady (h : Head) (hb : Steady b s) : Steady b (completePassage h s) := by
  unfold completePassage
  repeat' first
    | with_reducible assumption | with_reducible refine offerReference_steady _ ?_
    | with_reducible refine onHeadRef_steady _ _ ?_ | split

theorem settlePassages_steady (hb : Steady b s) : Steady b (settlePassages s) := by
  unfold settlePassages
  repeat' first
    | with_reducible assumption | with_reducible refine completePassage_steady _ ?_
    | with_reducible refine forFree_steady (fun _ _ _ => ?_) _ ?_

theorem judgeCalibration_steady (hb : Steady b s) : Steady b (judgeCalibration s) := by
  unfold judgeCalibration
  dsimp only
  repeat' first
    | with_reducible assumption | with_reducible refine offerReference_steady _ ?_
    | with_reducible refine endCondition_steady _ ?_ | with_reducible refine enterClosing_steady _ ?_
    | with_reducible refine foldl_steady (fun _ _ _ => ?_) _ ?_ | split

theorem followLink_steady (holder : Addr) (hb : Steady b s) : Steady b (followLink holder s) := by
  unfold followLink
  repeat' first
    | with_reducible assumption | with_reducible rfl | with_reducible refine onOrder_steady _ ?_ ?_
    | with_reducible refine beginRead_steady _ _ _ ?_

theorem settleEngine_steady (hb : Steady b s) : Steady b (settleEngine s) := by
  unfold settleEngine
  repeat' first
    | with_reducible assumption | with_reducible refine endPasses_steady ?_
    | with_reducible refine endLoading_steady ?_ | with_reducible refine departLightWait_steady ?_
    | with_reducible refine ite_steady ?_ ?_

theorem settleMeasured_steady (hb : Steady b s) : Steady b (settleMeasured s) :=
  ite_steady (judgeCalibration_steady hb) hb

theorem settleOrder_steady (hb : Steady b s) : Steady b (settleOrder s) :=
  settleMeasured_steady (settleEngine_steady hb)

/-- The entry to RUNNING goes from STARTING alone. -/
theorem settleUnit_steady (h : Steady b s) : Steady b (settleUnit s) := by
  unfold settleUnit
  split
  · rename_i hs
    have starting : s.uc.unit = .starting := by
      simp only [State.startEnded, Bool.and_eq_true, beq_iff_eq] at hs
      exact hs.1.1.1
    unfold enterRunning enterUnit
    refine requestPage_steady ?_
    have linked : Steady b (followLink s.anchor (s.onOrder fun o => { o with chain := some s.anchor })) :=
      followLink_steady _ (onOrder_steady _ rfl h)
    refine { linked with unit := Or.inr ⟨?_, rfl⟩ }
    rcases h.unit with hu | hu
    · exact hu ▸ starting
    · exact hu.1
  · exact h

theorem settle_steady (hb : Steady b s) : Steady b (settle s) := by
  unfold settle
  repeat' first
    | with_reducible assumption | with_reducible refine settleUnit_steady ?_
    | with_reducible refine settleOrder_steady ?_ | with_reducible refine settlePassages_steady ?_
    | with_reducible refine settleRequest_steady _ ?_ | with_reducible refine settleSeries_steady _ ?_
    | with_reducible refine settleDrain_steady ?_
    | with_reducible refine forHeads_steady (fun _ _ _ => ?_) ?_

end Sys2Proof.Machine
end

