-- ==== Sys2Proof/Laws/Spec.lean ====
section
/-! SUPPORT. What single operations do, said once: a record staged, a page asked for, an end condition, the entries to STOPPED and FAULTED, and what the steps at the end of an event leave when the engine runs no order. -/

namespace Sys2Proof.Machine

variable {b s t : State}

/-! ## A record staged -/

/-- The writer's waking changes the writer and the bus alone. -/
theorem wakeWriter_only (s : State) : ∃ w x, wakeWriter s = { s with rw := w, xe := x } := by
  unfold wakeWriter writerNext
  repeat' first | exact ⟨_, _, rfl⟩ | split

/-- A record that joins the buffer changes the buffer, the writer, the notices and the bus alone. -/
theorem joinRecord_only (r : Record) (s : State) :
    ∃ w x, joinRecord r s = { s with sb := s.sb.append r s.oe.activeTag, rw := w, xe := x } := by
  unfold joinRecord
  obtain ⟨w, x, e⟩ := wakeWriter_only
    ((if s.sb.staged.length = 511 then setNotice .stageHalf else id)
      { s with sb := s.sb.append r s.oe.activeTag })
  rw [e]
  split
  · exact ⟨w, x, rfl⟩
  · exact ⟨w, x, rfl⟩

section
variable (r : Record) (s : State)

@[simp] theorem joinRecord_tracker : (joinRecord r s).tracker = s.tracker := by
  obtain ⟨w, x, e⟩ := joinRecord_only r s
  rw [e]

@[simp] theorem joinRecord_tg : (joinRecord r s).tg = s.tg := by
  obtain ⟨w, x, e⟩ := joinRecord_only r s
  rw [e]

@[simp] theorem joinRecord_ports : (joinRecord r s).ports = s.ports := by
  obtain ⟨w, x, e⟩ := joinRecord_only r s
  rw [e]

@[simp] theorem joinRecord_light : (joinRecord r s).light = s.light := by
  obtain ⟨w, x, e⟩ := joinRecord_only r s
  rw [e]

@[simp] theorem joinRecord_mon0 : (joinRecord r s).mon0 = s.mon0 := by
  obtain ⟨w, x, e⟩ := joinRecord_only r s
  rw [e]

@[simp] theorem joinRecord_mon1 : (joinRecord r s).mon1 = s.mon1 := by
  obtain ⟨w, x, e⟩ := joinRecord_only r s
  rw [e]

@[simp] theorem joinRecord_qu : (joinRecord r s).qu = s.qu := by
  obtain ⟨w, x, e⟩ := joinRecord_only r s
  rw [e]

@[simp] theorem joinRecord_ru : (joinRecord r s).ru = s.ru := by
  obtain ⟨w, x, e⟩ := joinRecord_only r s
  rw [e]

@[simp] theorem joinRecord_rc : (joinRecord r s).rc = s.rc := by
  obtain ⟨w, x, e⟩ := joinRecord_only r s
  rw [e]

@[simp] theorem joinRecord_sf : (joinRecord r s).sf = s.sf := by
  obtain ⟨w, x, e⟩ := joinRecord_only r s
  rw [e]

@[simp] theorem joinRecord_oe : (joinRecord r s).oe = s.oe := by
  obtain ⟨w, x, e⟩ := joinRecord_only r s
  rw [e]

@[simp] theorem joinRecord_uc : (joinRecord r s).uc = s.uc := by
  obtain ⟨w, x, e⟩ := joinRecord_only r s
  rw [e]

@[simp] theorem joinRecord_free : (joinRecord r s).free = s.free := by
  obtain ⟨w, x, e⟩ := joinRecord_only r s
  rw [e]

@[simp] theorem joinRecord_pending : (joinRecord r s).pending = s.pending := by
  obtain ⟨w, x, e⟩ := joinRecord_only r s
  rw [e]

@[simp] theorem takeRecord_tracker : (takeRecord r s).tracker = s.tracker := by
  unfold takeRecord
  split <;> simp

@[simp] theorem takeRecord_tg : (takeRecord r s).tg = s.tg := by
  unfold takeRecord
  split <;> simp

@[simp] theorem takeRecord_ports : (takeRecord r s).ports = s.ports := by
  unfold takeRecord
  split <;> simp

@[simp] theorem takeRecord_light : (takeRecord r s).light = s.light := by
  unfold takeRecord
  split <;> simp

@[simp] theorem takeRecord_mon0 : (takeRecord r s).mon0 = s.mon0 := by
  unfold takeRecord
  split <;> simp

@[simp] theorem takeRecord_mon1 : (takeRecord r s).mon1 = s.mon1 := by
  unfold takeRecord
  split <;> simp

@[simp] theorem takeRecord_qu : (takeRecord r s).qu = s.qu := by
  unfold takeRecord
  split <;> simp

@[simp] theorem takeRecord_ru : (takeRecord r s).ru = s.ru := by
  unfold takeRecord
  split <;> simp

@[simp] theorem takeRecord_rc : (takeRecord r s).rc = s.rc := by
  unfold takeRecord
  split <;> simp

@[simp] theorem takeRecord_sf : (takeRecord r s).sf = s.sf := by
  unfold takeRecord
  split <;> simp

@[simp] theorem takeRecord_oe : (takeRecord r s).oe = s.oe := by
  unfold takeRecord
  split <;> simp

@[simp] theorem takeRecord_uc : (takeRecord r s).uc = s.uc := by
  unfold takeRecord
  split <;> simp

@[simp] theorem takeRecord_free : (takeRecord r s).free = s.free := by
  unfold takeRecord
  split <;> simp

@[simp] theorem takeRecord_pending : (takeRecord r s).pending = s.pending := by
  unfold takeRecord
  split <;> simp

end

/-- A record for which there is room stands at the end of the buffer. -/
theorem takeRecord_room (r : Record) (s : State) (h : s.hasRoom r = true) :
    (takeRecord r s).sb.staged = s.sb.staged ++ [⟨r, s.oe.activeTag⟩] := by
  unfold takeRecord
  rw [if_pos h]
  obtain ⟨w, x, e⟩ := joinRecord_only r s
  rw [e]
  rfl

/-! ## A page asked for -/

/-- A Status Page asked for changes its own marks and the bus alone. -/
theorem requestPage_only (s : State) :
    ∃ busy queued bus, requestPage s = { s with xe := { s.xe with pageBusy := busy, pageQueued := queued, bus := bus } }
      ∧ s.xe.bus <+: bus := by
  unfold requestPage
  split
  · exact ⟨_, _, _, rfl, List.prefix_refl _⟩
  · split
    · exact ⟨_, _, _, rfl, List.prefix_refl _⟩
    · exact ⟨_, _, _, rfl, List.prefix_append _ _⟩

section
variable (s : State)

@[simp] theorem requestPage_tracker : (requestPage s).tracker = s.tracker := by
  obtain ⟨_, _, _, e, _⟩ := requestPage_only s
  rw [e]

@[simp] theorem requestPage_tg : (requestPage s).tg = s.tg := by
  obtain ⟨_, _, _, e, _⟩ := requestPage_only s
  rw [e]

@[simp] theorem requestPage_ports : (requestPage s).ports = s.ports := by
  obtain ⟨_, _, _, e, _⟩ := requestPage_only s
  rw [e]

@[simp] theorem requestPage_light : (requestPage s).light = s.light := by
  obtain ⟨_, _, _, e, _⟩ := requestPage_only s
  rw [e]

@[simp] theorem requestPage_mon0 : (requestPage s).mon0 = s.mon0 := by
  obtain ⟨_, _, _, e, _⟩ := requestPage_only s
  rw [e]

@[simp] theorem requestPage_mon1 : (requestPage s).mon1 = s.mon1 := by
  obtain ⟨_, _, _, e, _⟩ := requestPage_only s
  rw [e]

@[simp] theorem requestPage_qu : (requestPage s).qu = s.qu := by
  obtain ⟨_, _, _, e, _⟩ := requestPage_only s
  rw [e]

@[simp] theorem requestPage_ru : (requestPage s).ru = s.ru := by
  obtain ⟨_, _, _, e, _⟩ := requestPage_only s
  rw [e]

@[simp] theorem requestPage_rc : (requestPage s).rc = s.rc := by
  obtain ⟨_, _, _, e, _⟩ := requestPage_only s
  rw [e]

@[simp] theorem requestPage_sf : (requestPage s).sf = s.sf := by
  obtain ⟨_, _, _, e, _⟩ := requestPage_only s
  rw [e]

@[simp] theorem requestPage_oe : (requestPage s).oe = s.oe := by
  obtain ⟨_, _, _, e, _⟩ := requestPage_only s
  rw [e]

@[simp] theorem requestPage_uc : (requestPage s).uc = s.uc := by
  obtain ⟨_, _, _, e, _⟩ := requestPage_only s
  rw [e]

@[simp] theorem requestPage_free : (requestPage s).free = s.free := by
  obtain ⟨_, _, _, e, _⟩ := requestPage_only s
  rw [e]

@[simp] theorem requestPage_pending : (requestPage s).pending = s.pending := by
  obtain ⟨_, _, _, e, _⟩ := requestPage_only s
  rw [e]

@[simp] theorem requestPage_sb : (requestPage s).sb = s.sb := by
  obtain ⟨_, _, _, e, _⟩ := requestPage_only s
  rw [e]

@[simp] theorem requestPage_rw : (requestPage s).rw = s.rw := by
  obtain ⟨_, _, _, e, _⟩ := requestPage_only s
  rw [e]

end
/-! ## The steps at the end of an event while the engine runs no order -/

/-- The engine, its chain, its access and its end stand, and so do the unit and the span interface. -/
structure AtRest (s t : State) : Prop where
  engine : t.oe.engine = s.oe.engine
  endSlot : t.oe.endSlot = s.oe.endSlot
  early : t.oe.early = s.oe.early
  chain : t.oe.chain = s.oe.chain
  park : t.oe.park = s.oe.park
  heldPoint : t.oe.heldPoint = s.oe.heldPoint
  heldReason : t.oe.heldReason = s.oe.heldReason
  recheck : t.oe.recheck = s.oe.recheck
  doing : t.oe.doing = s.oe.doing
  abortPending : t.oe.abortPending = s.oe.abortPending
  abortMark : t.oe.abortMark = s.oe.abortMark
  active : t.oe.active = s.oe.active
  beginTaken : t.oe.beginTaken = s.oe.beginTaken
  sf : t.sf = s.sf
  uc : t.uc = s.uc

theorem AtRest.refl (s : State) : AtRest s s := by constructor <;> rfl

theorem AtRest.trans (h : AtRest b s) (k : AtRest s t) : AtRest b t where
  engine := k.engine.trans h.engine
  endSlot := k.endSlot.trans h.endSlot
  early := k.early.trans h.early
  chain := k.chain.trans h.chain
  park := k.park.trans h.park
  heldPoint := k.heldPoint.trans h.heldPoint
  heldReason := k.heldReason.trans h.heldReason
  recheck := k.recheck.trans h.recheck
  doing := k.doing.trans h.doing
  abortPending := k.abortPending.trans h.abortPending
  abortMark := k.abortMark.trans h.abortMark
  active := k.active.trans h.active
  beginTaken := k.beginTaken.trans h.beginTaken
  sf := k.sf.trans h.sf
  uc := k.uc.trans h.uc

/-- A change outside the engine, the unit and the span interface. -/
theorem AtRest.same (oe : t.oe = s.oe) (sf : t.sf = s.sf) (uc : t.uc = s.uc) : AtRest s t := by
  constructor <;> first | exact sf | exact uc | rw [oe]

theorem forHeads_atRest (f : Head → State → State) (hf : ∀ h s, AtRest s (f h s)) (s : State) :
    AtRest s (forHeads f s) :=
  (((hf .h0 s).trans (hf .h1 _)).trans (hf .h2 _)).trans (hf .h3 _)

theorem chosen_atRest (n : Nat) (s : State) : AtRest s (s.chosen n) := by
  unfold State.chosen
  split
  · exact .refl s
  · exact .same rfl rfl rfl

theorem inFreeOrder_atRest {α : Type} (P : State → Prop) (f : α → State → State)
    (hf : ∀ x s, P s → AtRest s (f x s) ∧ P (f x s)) (hc : ∀ n s, P s → P (s.chosen n)) (n : Nat) (xs : List α)
    (s : State) (hs : P s) : AtRest s (inFreeOrder f n xs s) ∧ P (inFreeOrder f n xs s) := by
  induction n generalizing xs s with
  | zero => exact ⟨.refl s, hs⟩
  | succ n ih =>
    unfold inFreeOrder
    split
    · exact ⟨.refl s, hs⟩
    · rename_i x _
      obtain ⟨k, p⟩ := hf x _ (hc xs.length s hs)
      obtain ⟨k', p'⟩ := ih (xs.eraseIdx (s.choice xs.length)) _ p
      exact ⟨((chosen_atRest _ s).trans k).trans k', p'⟩

theorem offerGap_atRest (h : Head) (s : State) : AtRest s (offerGap h s) := by
  unfold offerGap takeGap
  repeat' first
    | exact .refl s
    | split
  · exact .same (takeRecord_oe ..) (takeRecord_sf ..) (takeRecord_uc ..)
  · exact .same rfl rfl rfl

theorem offerGaps_atRest (s : State) : AtRest s (offerGaps s) := by
  unfold offerGaps forFree
  exact (inFreeOrder_atRest (fun _ => True) offerGap (fun h s _ => ⟨offerGap_atRest h s, trivial⟩)
    (fun _ _ _ => trivial) _ _ s trivial).1

theorem settleSeries_atRest (h : Head) (s : State) : AtRest s (settleSeries h s) := by
  unfold settleSeries closeSeries unawait
  split
  · exact .same rfl rfl rfl
  · exact .refl s

theorem armReference_atRest (h : Head) (s : State) : AtRest s (armReference h s) := by
  unfold armReference
  split <;> exact .same rfl rfl rfl

theorem settleRequest_atRest (h : Head) (s : State) : AtRest s (settleRequest h s) := by
  unfold settleRequest requestPassage
  split
  · refine AtRest.trans ?_ (armReference_atRest h _)
    exact .same rfl rfl rfl
  · exact .refl s

/-- An end condition that finds no running order, or the end decided, changes nothing (R142). -/
theorem endCondition_not (slot : EndSlot) (s : State) (h : s.oe.engine.running = false ∨ s.oe.endSlot ≠ none) :
    endCondition slot s = s := by
  unfold endCondition
  rw [if_neg]
  rcases h with h | h
  · simp [h]
  · cases e : s.oe.endSlot
    · exact absurd e h
    · simp

theorem applyVerdict_atRest (x : ReferenceRecord) (s : State) (hr : s.oe.engine.running = false) :
    AtRest s (applyVerdict x s) := by
  unfold applyVerdict overLimitTaken State.onFlags
  dsimp only
  split
  · split
    · rw [endCondition_not _ (setNotice .drift (s.onHeadRef x.head fun r => r.verdictTaken x)) (.inl hr)]
      exact .same rfl rfl rfl
    · exact ⟨rfl, rfl, rfl, rfl, rfl, rfl, rfl, rfl, rfl, rfl, rfl, rfl, rfl, rfl, rfl⟩
  · exact .same rfl rfl rfl

theorem offerReference_atRest (x : ReferenceRecord) (s : State) (hr : s.oe.engine.running = false) :
    AtRest s (offerReference x s) := by
  unfold offerReference
  split
  · refine (AtRest.same (takeRecord_oe ..) (takeRecord_sf ..) (takeRecord_uc ..)).trans
      (applyVerdict_atRest x _ ?_)
    rw [takeRecord_oe]
    exact hr
  · exact .same rfl rfl rfl

theorem settlePassages_atRest (s : State) (hr : s.oe.engine.running = false) : AtRest s (settlePassages s) := by
  unfold settlePassages forFree
  refine (inFreeOrder_atRest (fun s => s.oe.engine.running = false) completePassage (fun h s hs => ?_)
    (fun n s hs => ?_) _ _ s hr).1
  · have k : AtRest s (completePassage h s) := by
      unfold completePassage
      split
      · exact offerReference_atRest _ _ hs
      · exact .same rfl rfl rfl
      · exact .refl s
    exact ⟨k, by rw [k.engine]; exact hs⟩
  · rw [(chosen_atRest n s).engine]
    exact hs

theorem offerOrderEnd_atRest (s : State) : AtRest s (offerOrderEnd s) := by
  unfold offerOrderEnd holdMarker
  split
  · refine AtRest.trans ?_ (.same (takeRecord_oe ..) (takeRecord_sf ..) (takeRecord_uc ..))
    exact ⟨rfl, rfl, rfl, rfl, rfl, rfl, rfl, rfl, rfl, rfl, rfl, rfl, rfl, rfl, rfl⟩
  · exact ⟨rfl, rfl, rfl, rfl, rfl, rfl, rfl, rfl, rfl, rfl, rfl, rfl, rfl, rfl, rfl⟩

theorem settleDrain_atRest (s : State) : AtRest s (settleDrain s) := by
  unfold settleDrain completeDrain
  split
  · refine AtRest.trans (AtRest.trans ?_ (offerGaps_atRest _)) (offerOrderEnd_atRest _)
    exact ⟨rfl, rfl, rfl, rfl, rfl, rfl, rfl, rfl, rfl, rfl, rfl, rfl, rfl, rfl, rfl⟩
  · exact .refl s

/-- The Order Engine takes no step of its own while it runs no order. -/
theorem settleOrder_not (s : State) (hr : s.oe.engine.running = false) : settleOrder s = s := by
  have engine : settleEngine s = s := by
    unfold settleEngine State.loadingEnded State.passesEnded State.waitEnded
    cases h : s.oe.engine <;> simp_all [EngineState.running]
  unfold settleOrder settleMeasured State.measured
  rw [engine]
  cases h : s.oe.engine <;> simp_all [EngineState.running]

/-- Outside STARTING the unit takes no step of its own. -/
theorem settleUnit_not (s : State) (hu : s.uc.unit ≠ .starting) : settleUnit s = s := by
  unfold settleUnit State.startEnded
  simp [hu]

/-- While the engine runs no order, outside STARTING, the steps at the end of an event leave the engine, the unit
and the span interface as they stand. -/
theorem settle_atRest (s : State) (hr : s.oe.engine.running = false) (hu : s.uc.unit ≠ .starting) :
    AtRest s (settle s) := by
  unfold settle
  have a := forHeads_atRest settleSeries settleSeries_atRest s
  have hra : (forHeads settleSeries s).oe.engine.running = false := by rw [a.engine]; exact hr
  have c := a.trans (settlePassages_atRest _ hra)
  have hrc : (settlePassages (forHeads settleSeries s)).oe.engine.running = false := by rw [c.engine]; exact hr
  rw [settleOrder_not _ hrc]
  have d := (c.trans (forHeads_atRest settleRequest settleRequest_atRest _)).trans (settleDrain_atRest _)
  rw [settleUnit_not _ (by rw [d.uc]; exact hu)]
  exact d

/-! ## Gaps offered, records disarmed -/

/-- `t` differs from `s` in ports, buffer, writer, notices, bus and free choices alone. -/
def OnlyStaging (s t : State) : Prop :=
  ∃ ports sb rw xe free, t = { s with ports := ports, sb := sb, rw := rw, xe := xe, free := free }

theorem OnlyStaging.refl (s : State) : OnlyStaging s s := ⟨_, _, _, _, _, rfl⟩

theorem OnlyStaging.trans (h : OnlyStaging b s) (k : OnlyStaging s t) : OnlyStaging b t := by
  obtain ⟨_, _, _, _, _, rfl⟩ := h
  obtain ⟨_, _, _, _, _, rfl⟩ := k
  exact ⟨_, _, _, _, _, rfl⟩

theorem takeRecord_onlyStaging (r : Record) (s : State) : OnlyStaging s (takeRecord r s) := by
  unfold takeRecord
  split
  · obtain ⟨w, x, e⟩ := joinRecord_only r s
    rw [e]
    exact ⟨_, _, _, _, _, rfl⟩
  · exact .refl s

theorem offerGap_onlyStaging (h : Head) (s : State) : OnlyStaging s (offerGap h s) := by
  unfold offerGap takeGap
  repeat' first
    | exact .refl s
    | split
  · exact OnlyStaging.trans ⟨_, _, _, _, _, rfl⟩ (takeRecord_onlyStaging _ _)
  · exact ⟨_, _, _, _, _, rfl⟩

theorem chosen_onlyStaging (n : Nat) (s : State) : OnlyStaging s (s.chosen n) := by
  unfold State.chosen
  split
  · exact .refl s
  · exact ⟨_, _, _, _, _, rfl⟩

theorem inFreeOrder_onlyStaging {α : Type} (f : α → State → State) (hf : ∀ x s, OnlyStaging s (f x s)) (n : Nat)
    (xs : List α) (s : State) : OnlyStaging s (inFreeOrder f n xs s) := by
  induction n generalizing xs s with
  | zero => exact .refl s
  | succ n ih =>
    unfold inFreeOrder
    split
    · exact .refl s
    · exact ((chosen_onlyStaging _ s).trans (hf _ _)).trans (ih _ _)

/-- The pending gaps offered change ports, buffer, writer, notices and bus alone. -/
theorem offerGaps_onlyStaging (s : State) : OnlyStaging s (offerGaps s) :=
  inFreeOrder_onlyStaging offerGap offerGap_onlyStaging _ _ s

/-- A property that the operation has for each head, where nothing of it is lost for the heads before, holds of
all heads. -/
theorem forHeads_all (P : Head → State → Prop) (f : Head → State → State) (s : State)
    (made : ∀ h s, P h (f h s)) (kept : ∀ h k s, P h s → P h (f k s)) (h : Head) : P h (forHeads f s) := by
  unfold forHeads
  cases h
  · exact kept _ _ _ (kept _ _ _ (kept _ _ _ (made _ _)))
  · exact kept _ _ _ (kept _ _ _ (made _ _))
  · exact kept _ _ _ (made _ _)
  · exact made _ _

/-- All scan records disarmed: the Trigger Generator changes, and what gaps offered change. -/
theorem disarmScans_only (s : State) :
    ∃ tg ports sb rw xe free,
      disarmScans s = { s with tg := tg, ports := ports, sb := sb, rw := rw, xe := xe, free := free }
      ∧ tg.zones = s.tg.zones ∧ ∀ h, (tg.heads.get h).scan.state = .notArmed
        ∧ (tg.heads.get h).ref = (s.tg.heads.get h).ref := by
  unfold disarmScans
  obtain ⟨ports, sb, rw, xe, free, e⟩ := offerGaps_onlyStaging (forHeads disarmScanOnly s)
  refine ⟨(forHeads disarmScanOnly s).tg, ports, sb, rw, xe, free, e, rfl, fun h => ?_⟩
  cases h <;> exact ⟨rfl, rfl⟩

/-- An open passage closed: its head's reference state, its record and its port's marks change. -/
theorem closePassage_only (h : Head) (s : State) :
    ∃ tg rc ports, closePassage h s = { s with tg := tg, rc := rc, ports := ports } := by
  unfold closePassage endPassage
  split <;> exact ⟨_, _, _, rfl⟩

/-- What the blocks do at the entry to CLOSING, before the ORDER-begin record is looked at. -/
theorem closingBlocks (s : State) :
    ∃ tg rc ports sb rw xe free,
      forHeads closePassage (referenceOff ((disarmScans s).onSpan Span.ended))
        = { s with tg := tg, rc := rc, ports := ports, sb := sb, rw := rw, xe := xe, free := free, sf := s.sf.ended }
      ∧ rc.mode = .off ∧ (∀ h, (tg.heads.get h).scan.state = .notArmed)
      ∧ (∀ h, (tg.heads.get h).ref.state = .notArmed) ∧ ∀ h, (rc.heads.get h).passage ≠ .opened := by
  obtain ⟨tg, ports, sb, rw, xe, free, e, _, scans⟩ := disarmScans_only s
  rw [e]
  have step : ∀ (h : Head) (u : State), ∃ tg rc ports, closePassage h u = { u with tg := tg, rc := rc, ports := ports }
      ∧ rc.mode = u.rc.mode
      ∧ (∀ k, (tg.heads.get k).scan = (u.tg.heads.get k).scan) ∧ (tg.heads.get h).ref.state = .notArmed
      ∧ (rc.heads.get h).passage ≠ .opened
      ∧ (∀ k, (u.tg.heads.get k).ref.state = .notArmed → (tg.heads.get k).ref.state = .notArmed)
      ∧ ∀ k, (u.rc.heads.get k).passage ≠ .opened → (rc.heads.get k).passage ≠ .opened := by
    intro h u
    unfold closePassage endPassage
    split
    · refine ⟨_, _, _, rfl, rfl, ?_, ?_, ?_, ?_, ?_⟩
      · intro k; cases h <;> cases k <;> rfl
      · cases h <;> rfl
      · cases h <;> exact nofun
      · intro k hk; cases h <;> cases k <;> first | rfl | exact hk
      · intro k hk; cases h <;> cases k <;> first | exact hk | exact nofun
    · rename_i closed
      refine ⟨_, _, _, rfl, rfl, ?_, ?_, closed, ?_, fun k hk => hk⟩
      · intro k; cases h <;> cases k <;> rfl
      · cases h <;> rfl
      · intro k hk; cases h <;> cases k <;> first | rfl | exact hk
  unfold forHeads
  obtain ⟨g0, r0, p0, e0, m0, s0, n0, o0, a0, b0⟩ := step .h0 (referenceOff
    (({ s with tg := tg, ports := ports, sb := sb, rw := rw, xe := xe, free := free } : State).onSpan Span.ended))
  rw [e0]
  obtain ⟨g1, r1, p1, e1, m1, s1, n1, o1, a1, b1⟩ := step .h1 _
  rw [e1]
  obtain ⟨g2, r2, p2, e2, m2, s2, n2, o2, a2, b2⟩ := step .h2 _
  rw [e2]
  obtain ⟨g3, r3, p3, e3, m3, s3, n3, o3, a3, b3⟩ := step .h3 _
  rw [e3]
  refine ⟨g3, r3, p3, sb, rw, xe, free, rfl, ?_, ?_, ?_, ?_⟩
  · rw [m3, show _ = _ from m2, show _ = _ from m1, show _ = _ from m0]
    rfl
  · intro k
    rw [s3 k, show _ = _ from s2 k, show _ = _ from s1 k, show _ = _ from s0 k]
    exact (scans k).1
  · intro k
    cases k
    · exact a3 _ (a2 _ (a1 _ n0))
    · exact a3 _ (a2 _ n1)
    · exact a3 _ n2
    · exact n3
  · intro k
    cases k
    · exact b3 _ (b2 _ (b1 _ o0))
    · exact b3 _ (b2 _ o1)
    · exact b3 _ o2
    · exact o3

/-- The entry to CLOSING (R143): the end slot filled, the blocks disarmed; the chain, the access in progress, the
active copy, the revisit lists and the unit stand. -/
theorem enterClosing_spec (slot : EndSlot) (s : State) :
    (enterClosing slot s).oe.engine = .closing ∧ (enterClosing slot s).oe.endSlot = some slot
    ∧ (enterClosing slot s).oe.chain = s.oe.chain ∧ (enterClosing slot s).oe.doing = s.oe.doing
    ∧ (enterClosing slot s).oe.active = s.oe.active ∧ (enterClosing slot s).oe.abortMark = s.oe.abortMark
    ∧ (enterClosing slot s).sf = s.sf.ended ∧ (enterClosing slot s).uc = s.uc ∧ (enterClosing slot s).ru = s.ru
    ∧ (enterClosing slot s).tracker = s.tracker ∧ (enterClosing slot s).rc.mode = .off
    ∧ (∀ h, ((enterClosing slot s).scan h).state = .notArmed ∧ ((enterClosing slot s).ref h).state = .notArmed
      ∧ ((enterClosing slot s).rc.heads.get h).passage ≠ .opened) := by
  unfold enterClosing
  obtain ⟨tg, rc, ports, sb, rw', xe, free, e, mode, scans, refs, closed⟩ := closingBlocks (s.onOrder fun o =>
    { o with engine := .closing, endSlot := some slot, stage := .orderBegin, interrupting := false,
             marker := keptMarker o.marker })
  dsimp only
  rw [e]
  unfold openClosing State.scan State.ref
  repeat' split
  all_goals
    refine ⟨?_, ?_, ?_, ?_, ?_, ?_, ?_, ?_, ?_, ?_, ?_, fun h => ⟨?_, ?_, ?_⟩⟩ <;>
    first
      | rfl
      | exact mode
      | exact scans h
      | exact refs h
      | exact closed h
      | (simp only [takeRecord_oe, takeRecord_sf, takeRecord_uc, takeRecord_ru, takeRecord_tracker, takeRecord_rc,
          takeRecord_tg]; first | rfl | exact mode | exact scans h | exact refs h | exact closed h)

/-- The first end condition of a running order is the entry to CLOSING with empty revisit lists (R142, R143). -/
theorem endCondition_taken (slot : EndSlot) (s : State) (hr : s.oe.engine.running = true)
    (he : s.oe.endSlot = none) : endCondition slot s = enterClosing slot (emptyLists .idle s) := by
  unfold endCondition
  rw [if_pos]
  simp [hr, he]

/-- After an end condition has been taken the steps at the end of the event leave the end as it was decided. -/
theorem settle_ended (slot : EndSlot) (s : State) (hr : s.oe.engine.running = true) (he : s.oe.endSlot = none)
    (hu : s.uc.unit ≠ .starting) :
    (settle (endCondition slot s)).oe.engine = .closing ∧ (settle (endCondition slot s)).oe.endSlot = some slot
    ∧ (settle (endCondition slot s)).sf = s.sf.ended ∧ (settle (endCondition slot s)).uc = s.uc := by
  rw [endCondition_taken slot s hr he]
  obtain ⟨e1, e2, _, _, _, _, e3, e4, _⟩ := enterClosing_spec slot (emptyLists .idle s)
  have k := settle_atRest (enterClosing slot (emptyLists .idle s)) (by rw [e1]; rfl) (by rw [e4]; exact hu)
  exact ⟨k.engine.trans e1, k.endSlot.trans e2, k.sf.trans e3, k.uc.trans e4⟩

/-! ## The writer that is not idle -/

/-- A writer that is not IDLE is not woken. -/
theorem wakeWriter_not (s : State) (h : s.rw.phase ≠ .idle) : wakeWriter s = s := if_neg h

/-- A record leaves a writer that is not IDLE as it is. -/
theorem joinRecord_rw (r : Record) (s : State) (h : s.rw.phase ≠ .idle) : (joinRecord r s).rw = s.rw := by
  unfold joinRecord
  split
  · rw [wakeWriter_not (setNotice .stageHalf { s with sb := s.sb.append r s.oe.activeTag }) h]
    rfl
  · rw [id, wakeWriter_not { s with sb := s.sb.append r s.oe.activeTag } h]

theorem offerGap_rw (h : Head) (s : State) (hp : s.rw.phase ≠ .idle) : (offerGap h s).rw = s.rw := by
  unfold offerGap takeGap takeRecord
  repeat' first
    | rfl
    | split
  exact joinRecord_rw _ _ hp

/-- The gaps offered leave a writer that is not IDLE as it is. -/
theorem offerGaps_rw (s : State) (hp : s.rw.phase ≠ .idle) : (offerGaps s).rw = s.rw := by
  unfold offerGaps forFree
  generalize s.gapHeads.length = n
  generalize s.gapHeads = hs
  suffices ∀ (n : Nat) (hs : List Head) (u : State), u.rw = s.rw → (inFreeOrder offerGap n hs u).rw = s.rw by
    exact this n hs s rfl
  intro n
  induction n with
  | zero => exact fun _ _ h => h
  | succ n ih =>
    intro hs u hu
    unfold inFreeOrder
    split
    · exact hu
    · refine ih _ _ ?_
      have hc : (u.chosen hs.length).rw = s.rw := by
        unfold State.chosen
        split <;> exact hu
      rw [offerGap_rw _ _ (by rw [hc]; exact hp), hc]

/-! ## Registers -/

theorem SameRegisters.refl (s : State) : SameRegisters s s := ⟨rfl, rfl, rfl, rfl, rfl, rfl, rfl⟩

theorem SameRegisters.trans (h : SameRegisters b s) (k : SameRegisters s t) : SameRegisters b t :=
  ⟨k.xbaseL.trans h.xbaseL, k.xbaseH.trans h.xbaseH, k.ucmdCode.trans h.ucmdCode,
    k.ucmdResult.trans h.ucmdResult, k.noteEn.trans h.noteEn, k.time.trans h.time, k.pending.trans h.pending⟩

/-- The steps at the end of an event leave the registers. -/
theorem Steady.registers (h : Steady s t) : SameRegisters s t :=
  ⟨h.xbaseL, h.xbaseH, h.ucmdCode, h.ucmdResult, h.noteEn, h.time, h.pending⟩

/-- What the scan goes on with leaves the registers. -/
theorem Onward.registers (h : Onward s t) : SameRegisters s t :=
  ⟨h.xbaseL, h.xbaseH, h.ucmdCode, h.ucmdResult, h.noteEn, h.time, h.pending⟩

/-- A page asked for leaves the registers. -/
theorem requestPage_registers (s : State) : SameRegisters s (requestPage s) := by
  obtain ⟨_, _, _, e, _⟩ := requestPage_only s
  rw [e]
  exact ⟨rfl, rfl, rfl, rfl, rfl, rfl, rfl⟩

@[simp] theorem requestPage_notice (s : State) (n : Notice) : (requestPage s).notice n = s.notice n := by
  obtain ⟨_, _, _, e, _⟩ := requestPage_only s
  rw [e]
  rfl

/-- No page is begun or kept in FAULTED with BUS_WRITE (R178). -/
theorem requestPage_not (s : State) (h : s.uc.unit = .faulted) (c : s.uc.cause = some .busWrite) :
    requestPage s = s := if_pos ⟨h, c⟩

/-- A notice stays set when another is set, and the one set is set. -/
theorem setNotice_notice (n m : Notice) (s : State) (h : s.notice m = true ∨ m = n) :
    (setNotice n s).notice m = true := by
  unfold State.notice setNotice at *
  simp only [BitVec.getLsbD_or, Bool.or_eq_true]
  rcases h with h | rfl
  · exact .inl h
  · right
    cases m <;> decide

/-- Accesses let go of leave all but the bus and its traces. -/
theorem letGo_only (kinds : List BusKind) (s : State) :
    ∃ bus stray, letGo kinds s = { s with xe := { s.xe with bus := bus, stray := stray } } ∧ s.xe.bus <+: bus := by
  unfold letGo
  split
  · exact ⟨_, _, rfl, List.prefix_refl _⟩
  · exact ⟨_, _, rfl, List.prefix_append _ _⟩

/-! ## Entering FAULTED (R178) -/

/-- Passages ended and records disarmed, at the entry to FAULTED: what Steady names stands, and so do the engine
and a writer that is not IDLE. -/
theorem disarmedAll_spec (s : State) :
    Steady s (forHeads endPassage (disarmScans s)) ∧ (forHeads endPassage (disarmScans s)).oe = s.oe
    ∧ (forHeads endPassage (disarmScans s)).uc = s.uc
    ∧ (s.rw.phase ≠ .idle → (forHeads endPassage (disarmScans s)).rw = s.rw) := by
  have keep : ∀ (h : Head) (u : State), (endPassage h u).oe = u.oe ∧ (endPassage h u).uc = u.uc
      ∧ (endPassage h u).rw = u.rw := by
    intro h u
    unfold endPassage
    split <;> exact ⟨rfl, rfl, rfl⟩
  have all : ∀ u : State, (forHeads endPassage u).oe = u.oe ∧ (forHeads endPassage u).uc = u.uc
      ∧ (forHeads endPassage u).rw = u.rw := by
    intro u
    unfold forHeads
    simp only [keep, and_self]
  obtain ⟨tg, ports, sb, rw', xe, free, e, _⟩ := disarmScans_only s
  refine ⟨?_, ?_, ?_, fun hp => ?_⟩
  · exact forHeads_steady (fun h u k => endPassage_steady h k) (disarmScans_steady (Steady.refl s))
  · rw [(all _).1, e]
  · rw [(all _).2.1, e]
  · rw [(all _).2.2]
    unfold disarmScans
    exact offerGaps_rw (forHeads disarmScanOnly s) hp

/-- The unit's entry to FAULTED (R178): unit, cause, tracker and notice; the engine IDLE without an active copy; the
staged records, the registers and a writer that is not IDLE stand. -/
theorem enterFaulted_spec (c : FaultCause) (s : State) (hu : s.uc.unit ≠ .faulted) :
    (enterFaulted c s).uc.unit = .faulted ∧ (enterFaulted c s).uc.cause = some c
    ∧ (enterFaulted c s).tracker = s.tracker.lost ∧ (enterFaulted c s).notice .unitFault = true
    ∧ (enterFaulted c s).oe.engine = .idle ∧ (enterFaulted c s).oe.active = none
    ∧ (enterFaulted c s).oe.doing = .none ∧ SameRegisters s (enterFaulted c s)
    ∧ s.sb.staged <+: (enterFaulted c s).sb.staged
    ∧ (∀ n, s.notice n = true → (enterFaulted c s).notice n = true)
    ∧ (enterFaulted c s).rw.filling = s.rw.filling
    ∧ (s.rw.phase ≠ .idle → (enterFaulted c s).rw = s.rw) := by
  unfold enterFaulted
  rw [if_neg hu]
  obtain ⟨bus, stray, e, more⟩ := letGo_only s.oe.doing.kind { s with oe := { s.oe with doing := .none } }
  unfold letGoCell letGoOrder
  rw [e]
  obtain ⟨bus', stray', e', more'⟩ := letGo_only (if s.uc.cellReading then [.cellRecord] else [])
    { s with
      oe := { s.oe with doing := .none }
      xe := { s.xe with bus := bus, stray := stray }
      uc := { s.uc with cellReading := false } }
  dsimp only at e' ⊢
  rw [e']
  generalize hs : ({ s with
      oe := { s.oe with doing := .none }
      xe := { s.xe with bus := bus', stray := stray' }
      uc := { s.uc with cellReading := false } } : State) = s1
  obtain ⟨k, oe, uc, rw'⟩ := disarmedAll_spec s1
  generalize forHeads endPassage (disarmScans s1) = s2 at *
  unfold enterUnit
  have regs : SameRegisters s s1 := by subst hs; exact ⟨rfl, rfl, rfl, rfl, rfl, rfl, rfl⟩
  have notes : ∀ n, s.notice n = true → s1.notice n = true := by subst hs; exact fun _ h => h
  have staged : s1.sb.staged = s.sb.staged := by subst hs; rfl
  have writer : s1.rw = s.rw := by subst hs; rfl
  have tracker : s1.tracker = s.tracker := by subst hs; rfl
  have doing : s1.oe.doing = .none := by subst hs; rfl
  refine ⟨?_, ?_, ?_, ?_, ?_, ?_, ?_, ?_, ?_, ?_, ?_, ?_⟩
  · simp only [requestPage_uc]
  · simp only [requestPage_uc]
    rfl
  · simp only [requestPage_tracker]
    exact congrArg Tracker.lost (k.tracker.trans tracker)
  · simp only [requestPage_notice]
    exact setNotice_notice _ _ _ (.inr rfl)
  · simp only [requestPage_oe]
    rfl
  · simp only [requestPage_oe]
    rfl
  · simp only [requestPage_oe]
    exact (congrArg OrderEngine.doing oe).trans doing
  · refine SameRegisters.trans (regs.trans k.registers) (SameRegisters.trans ?_ (requestPage_registers _))
    exact ⟨rfl, rfl, rfl, rfl, rfl, rfl, rfl⟩
  · simp only [requestPage_sb]
    rw [← staged]
    exact k.staged
  · intro n hn
    simp only [requestPage_notice]
    exact setNotice_notice _ _ _ (.inl (k.notices n (notes n hn)))
  · simp only [requestPage_rw]
    exact k.filling.trans (congrArg Writer.filling writer)
  · intro hp
    simp only [requestPage_rw]
    exact (rw' (by rw [writer]; exact hp)).trans writer

/-! ## Entering STOPPED (R177) -/

/-- A group of the Result Writer broken off changes its access, the bus and the free choices alone. -/
theorem breakGroup_only (k : BusKind) (s : State) :
    ∃ bus free, breakGroup k s = { s with
        rw := { s.rw with doing := .none, rest := [] }, xe := { s.xe with bus := bus }, free := free }
      ∧ s.xe.bus <+: bus := by
  unfold breakGroup State.chosen
  dsimp only
  split <;> exact ⟨_, _, rfl, List.prefix_append _ _⟩

/-- The Result Writer's access let go of changes the access, the bus and its traces and the free choices alone. -/
theorem letGoWriter_only (s : State) :
    ∃ rest bus stray free, letGoWriter s = { s with
        rw := { s.rw with doing := .none, rest := rest }, xe := { s.xe with bus := bus, stray := stray }, free := free }
      ∧ s.xe.bus <+: bus := by
  unfold letGoWriter
  split
  · rename_i hk
    have idle : s.rw.doing = .none := by
      cases hd : s.rw.doing <;> rw [hd] at hk <;> first | rfl | cases hk
    refine ⟨s.rw.rest, s.xe.bus, s.xe.stray, s.free, ?_, List.prefix_refl _⟩
    rw [← idle]
  · rename_i k _
    obtain ⟨bus, free, e, more⟩ := breakGroup_only k s
    obtain ⟨bus', stray, e', more'⟩ := letGo_only [k] (breakGroup k s)
    rw [e] at e' more'
    rw [e, e']
    exact ⟨_, _, _, _, rfl, more.trans more'⟩

/-- The Result Writer's part of the entry to STOPPED changes the writer, the bus and its traces and the free
choices alone. -/
theorem stopWriter_only (s : State) :
    ∃ w bus stray free,
      stopWriter s = { s with rw := w, xe := { s.xe with bus := bus, stray := stray }, free := free }
      ∧ s.xe.bus <+: bus ∧ w.cursor = s.rw.cursor ∧ w.segments = [] := by
  unfold stopWriter
  dsimp only
  split
  · exact ⟨_, _, _, _, rfl, List.prefix_refl _, rfl, rfl⟩
  · exact ⟨_, _, _, _, rfl, List.prefix_refl _, rfl, rfl⟩
  all_goals
    obtain ⟨rest, bus, stray, free, e, more⟩ := letGoWriter_only
      { s with rw := { s.rw with recheck := false, segments := [], overflow := false, target := none } }
    dsimp only at e more
    rw [e]
    dsimp only
    split
    · exact ⟨_, _, _, _, rfl, more.trans (List.prefix_append _ _), rfl, rfl⟩
    · exact ⟨_, _, _, _, rfl, more, rfl, rfl⟩

/-- The unit's entry to STOPPED (R177): every block's part of it, and what stands. -/
theorem enterStopped_spec (s : State) :
    (enterStopped s).uc.unit = .stopped ∧ (enterStopped s).uc.stopping = true
    ∧ (enterStopped s).uc.cause = s.uc.cause ∧ (enterStopped s).ports = s.ports.map Port.asleep
    ∧ (enterStopped s).tracker = s.tracker.stopped
    ∧ (enterStopped s).tg = { zones := none, heads := s.tg.heads.map HeadPasses.disarmed }
    ∧ (enterStopped s).sf = s.sf.ended ∧ (enterStopped s).rc.mode = .off
    ∧ (enterStopped s).rc.heads = s.rc.heads.map HeadRef.stopped ∧ (enterStopped s).sb = s.sb.stopped
    ∧ (enterStopped s).oe.engine = .idle ∧ (enterStopped s).oe.chain = s.oe.chain
    ∧ (enterStopped s).oe.active = none ∧ (enterStopped s).oe.doing = .none
    ∧ (enterStopped s).rw.cursor = s.rw.cursor ∧ (enterStopped s).rw.segments = []
    ∧ SameRegisters s (enterStopped s) ∧ ∀ n, (enterStopped s).notice n = s.notice n := by
  unfold enterStopped letGoCell letGoOrder
  obtain ⟨bus, stray, e, more⟩ := letGo_only s.oe.doing.kind { s with oe := { s.oe with doing := .none } }
  dsimp only at e ⊢
  rw [e]
  obtain ⟨bus', stray', e', more'⟩ := letGo_only (if s.uc.cellReading then [.cellRecord] else [])
    { s with
      oe := { s.oe with doing := .none }
      xe := { s.xe with bus := bus, stray := stray }
      uc := { s.uc with cellReading := false } }
  dsimp only at e' ⊢
  rw [e']
  dsimp only
  unfold enterUnit
  generalize hx : ({ s with
      ports := s.ports.map Port.asleep
      tracker := s.tracker.stopped
      tg := { zones := none, heads := s.tg.heads.map HeadPasses.disarmed }
      sf := s.sf.ended
      rc := { s.rc with mode := .off, heads := s.rc.heads.map HeadRef.stopped }
      sb := s.sb.stopped
      ru := .reset
      oe := ({ s.oe with doing := .none } : OrderEngine).stopped
      xe := { s.xe with bus := bus', stray := stray' }
      uc := { s.uc with cellReading := false, stopping := true, fault := none, startWakes := .all false } } : State) = s1
  obtain ⟨w, bus2, stray2, free2, e2, _, c2, g2⟩ := stopWriter_only s1
  rw [e2]
  subst hx
  refine ⟨?_, ?_, ?_, ?_, ?_, ?_, ?_, ?_, ?_, ?_, ?_, ?_, ?_, ?_, ?_, ?_, ?_, fun n => ?_⟩
  case refine_17 =>
    refine SameRegisters.trans ?_ (requestPage_registers _)
    exact ⟨rfl, rfl, rfl, rfl, rfl, rfl, rfl⟩
  case refine_18 => simp only [requestPage_notice]; rfl
  case refine_15 => simp only [requestPage_rw]; exact c2
  case refine_16 => simp only [requestPage_rw]; exact g2
  all_goals
    first
      | (simp only [requestPage_uc]; done)
      | exact (congrArg _ (requestPage_uc _)).trans rfl
      | (simp only [requestPage_ports]; done)
      | (simp only [requestPage_tracker]; done)
      | (simp only [requestPage_tg]; done)
      | (simp only [requestPage_sf]; done)
      | (simp only [requestPage_rc]; done)
      | (simp only [requestPage_sb]; done)
      | (simp only [requestPage_oe]; rfl)

/-! ## A handshake's result (R137) -/

theorem stepBeginTaken_steady (time : Time) (h : Steady b s) : Steady b (stepBeginTaken time s) := by
  unfold stepBeginTaken
  refine enterAcquiring_steady (setSettle_steady _ ?_)
  split
  · exact onFlags_steady _ (onOrder_steady _ rfl h)
  · exact onOrder_steady _ rfl h

/-- A handshake's result leaves alone what Steady names. -/
theorem handshakeResult_steady (x : SettleState) (settleTime : Nat) (h : Steady b s) :
    Steady b (handshakeResult x settleTime s) := by
  unfold handshakeResult
  split
  · exact h
  · have k := onOrder_steady (s := s) (fun o => { o with settle := x, settleTime := settleTime }) rfl h
    dsimp only
    split
    · exact stepBeginTaken_steady _ (takeRecord_steady _ k)
    · exact holdMarker_steady _ k

/-- A STEP-begin record taken keeps the records staged before it. -/
theorem stepBeginTaken_staged (time : Time) (s : State) : s.sb.staged <+: (stepBeginTaken time s).sb.staged :=
  (stepBeginTaken_steady time (Steady.refl s)).staged

/-- Fewer than 1,024 staged records leave room for a record that is no sample (R152). -/
theorem hasRoom_other (r : Record) (s : State) (hr : r.isSample = false) (h : s.sb.staged.length < 1024) :
    s.hasRoom r = true := by
  unfold State.hasRoom
  rw [hr]
  exact decide_eq_true h

/-- Fewer than 1,016 staged records leave room for a sample (R152). -/
theorem hasRoom_sample (r : SampleRecord) (s : State) (h : s.sb.staged.length < 1016) :
    s.hasRoom (.sample r) = true := decide_eq_true h

/-- With an active order and a free entry a handshake's result stages the STEP-begin record (R137). -/
theorem handshakeResult_staged (x : SettleState) (settleTime : Nat) (s : State) (a : ActiveOrder)
    (ha : s.oe.active = some a) (hr : s.sb.staged.length < 1024) :
    s.sb.staged ++ [⟨.stepBegin { s.stepBeginRecord a false with settle := x, settleTime := settleTime },
      s.oe.activeTag⟩] <+: (handshakeResult x settleTime s).sb.staged := by
  unfold handshakeResult
  split
  · rename_i h
    rw [ha] at h
    cases h
  · rename_i a' h
    rw [ha] at h
    cases h
    dsimp only
    split
    · rename_i room
      refine List.IsPrefix.trans ?_ (stepBeginTaken_staged _ _)
      rw [takeRecord_room _ _ room]
      exact List.prefix_refl _
    · rename_i full
      exact absurd (hasRoom_other _ (s.onOrder fun o => { o with settle := x, settleTime := settleTime }) rfl hr) full

/-! ## An order ended before LOADING (R133) -/

/-- An order that ends early writes its completion whole, and the steps at the end of the event leave that end. -/
theorem endEarly_settled (slot : EndSlot) (h : Steady b s) (hr : s.oe.engine.running = false)
    (hu : s.uc.unit ≠ .starting) (hc : s.oe.chain = b.oe.chain) :
    (settle (endEarly slot s)).oe.early = true ∧ (settle (endEarly slot s)).oe.endSlot = some slot
    ∧ (settle (endEarly slot s)).oe.doing = .completion ∧ (settle (endEarly slot s)).oe.chain = b.oe.chain
    ∧ s.xe.bus ++ [.write .completion (earlyCompletionWrites b.block slot b.xe.time b.tracker.revolution)]
      <+: (settle (endEarly slot s)).xe.bus
    ∧ Steady b (settle (endEarly slot s)) := by
  have h1 : (endEarly slot s).oe.engine.running = false := hr
  have h2 : (endEarly slot s).uc.unit ≠ .starting := hu
  have h3 : (endEarly slot s).oe.early = true := rfl
  have h4 : (endEarly slot s).oe.endSlot = some slot := rfl
  have h5 : (endEarly slot s).oe.doing = .completion := rfl
  have h6 : (endEarly slot s).oe.chain = b.oe.chain := hc
  have h7 : Steady b (endEarly slot s) := beginWrite_steady _ _ (onOrder_steady _ rfl h)
  have h8 : (endEarly slot s).xe.bus = s.xe.bus ++ [.write .completion
      (earlyCompletionWrites b.block slot b.xe.time b.tracker.revolution)] := by
    unfold endEarly beginWrite logBus State.onOrder State.block
    simp only [hc, h.time, h.tracker]
  generalize endEarly slot s = p at *
  have k := settle_atRest p h1 h2
  exact ⟨k.early.trans h3, k.endSlot.trans h4, k.doing.trans h5, k.chain.trans h6,
    h8 ▸ (settle_steady (Steady.refl p)).bus, settle_steady h7⟩

/-- A read's end leaves alone what Steady names. -/
theorem endRead_steady (kind : BusKind) (r : ReadResult) (h : Steady b s) : Steady b (endRead kind r s) := by
  unfold endRead
  split <;> exact logBus_steady _ h

theorem accessDone_steady (h : Steady b s) : Steady b (accessDone s) := onOrder_steady _ rfl h

theorem zoneEntriesRead_steady (addr : Addr) (r : ReadResult) (h : Steady b s) :
    Steady b (zoneEntriesRead addr r s) := by
  unfold zoneEntriesRead
  split
  · split
    · exact logBus_steady _ (beginRead_steady _ _ _ h)
    · exact h
  · exact h

/-- A read of FETCHING or VALIDATING that is not given up takes its result (R133). -/
theorem validationRead_goesOn (r : ReadResult) (detail : Nat) (k : List Byte → State → State) (s : State)
    (hf : s.uc.fault = none) (ha : s.oe.abortPending = false) :
    validationRead r detail k s = match r with
      | .error => endEarly ⟨.readError, detail⟩ s
      | .data bs => k bs s := by
  unfold validationRead
  simp only [hf, ha]
  rfl

end Sys2Proof.Machine
end

