-- ==== Sys2Proof/Laws/Exits.lean ====
section
/-! SUPPORT. What handing candidates, exits from READY and exclusions can change: one lemma for each operation. -/

namespace Sys2Proof.Machine

variable {b s t : State}

/-! ## Candidates -/

/-- What a candidate's fate can change: the lists, two counts, and notices that are set. -/
theorem applyFate_only (f : CandidateFate) (s : State) :
    ∃ next created lost raw,
      applyFate f s = { s with
        ru := { s.ru with next := next }
        oe := { s.oe with counts := { s.oe.counts with created := created, lost := lost } }
        xe := { s.xe with noteRaw := raw } } ∧ ∀ i, s.xe.noteRaw.getLsbD i = true → raw.getLsbD i = true := by
  unfold applyFate
  split
  · exact ⟨_, _, _, _, rfl, fun _ h => h⟩
  · exact ⟨_, _, _, _, rfl, fun _ h => h⟩
  · refine ⟨_, _, _, _, rfl, fun i h => ?_⟩
    simp only [BitVec.getLsbD_or, Bool.or_eq_true]
    exact Or.inl h

/-- Candidates handed change the next list, the counts of created and lost ones, and set notices (R85 to R87). -/
theorem candidates_only (h : Head) (reasons : Reasons) (l : List (Nat × Nat)) (s : State) :
    ∃ next created lost raw,
      candidates h reasons l s = { s with
        ru := { s.ru with next := next }
        oe := { s.oe with counts := { s.oe.counts with created := created, lost := lost } }
        xe := { s.xe with noteRaw := raw } } ∧ ∀ i, s.xe.noteRaw.getLsbD i = true → raw.getLsbD i = true := by
  induction l generalizing s with
  | nil => exact ⟨_, _, _, _, rfl, fun _ h => h⟩
  | cons x xs ih =>
    have first : ∃ next created lost raw, candidate h x.2 x.1 reasons s = { s with
        ru := { s.ru with next := next }
        oe := { s.oe with counts := { s.oe.counts with created := created, lost := lost } }
        xe := { s.xe with noteRaw := raw } } ∧ ∀ i, s.xe.noteRaw.getLsbD i = true → raw.getLsbD i = true := by
      unfold candidate
      split
      · exact ⟨_, _, _, _, rfl, fun _ h => h⟩
      · exact ⟨_, _, _, _, rfl, fun _ h => h⟩
      · exact applyFate_only _ _
    obtain ⟨n, c, l, r, e, k⟩ := first
    unfold candidates
    rw [e]
    obtain ⟨n', c', l', r', e', k'⟩ := ih { s with
      ru := { s.ru with next := n }
      oe := { s.oe with counts := { s.oe.counts with created := c, lost := l } }
      xe := { s.xe with noteRaw := r } }
    exact ⟨n', c', l', r', e', fun i hi => k' i (k i hi)⟩

theorem candidates_steady (h : Head) (reasons : Reasons) (l : List (Nat × Nat)) (hb : Steady b s) :
    Steady b (candidates h reasons l s) := by
  obtain ⟨_, _, _, _, e, k⟩ := candidates_only h reasons l s
  rw [e]
  exact { hb with notices := fun n hn => k _ (hb.notices n hn) }

/-- Two states agree in what the taking of candidates reads: the geometry and the lists. -/
structure SameLists (s t : State) : Prop where
  cpr : t.cpr = s.cpr
  zones : t.tg.zones = s.tg.zones
  lists : t.ru = s.ru

/-- A candidate does the same to the lists, and to the counts where these agree, in states that agree in what it
reads. -/
theorem candidate_same (h : Head) (zone point : Nat) (reasons : Reasons) (k : SameLists s t) :
    SameLists (candidate h zone point reasons s) (candidate h zone point reasons t)
    ∧ (t.oe.counts = s.oe.counts →
      (candidate h zone point reasons t).oe.counts = (candidate h zone point reasons s).oe.counts) := by
  have fate : ∀ z, t.candidateFate z h zone point reasons = s.candidateFate z h zone point reasons := by
    intro z
    unfold State.candidateFate
    rw [k.cpr, k.lists]
  unfold candidate
  rw [k.lists, k.zones]
  split
  · exact ⟨k, id⟩
  · exact ⟨k, id⟩
  · rw [fate]
    unfold applyFate
    split
    · rename_i l _
      exact ⟨⟨k.cpr, k.zones, congrArg (fun u : Revisit => { u with next := l }) k.lists⟩, id⟩
    · rename_i l _
      exact ⟨⟨k.cpr, k.zones, congrArg (fun u : Revisit => { u with next := l }) k.lists⟩,
        congrArg fun c : Counts => { c with created := c.created + 1 }⟩
    · exact ⟨⟨k.cpr, k.zones, k.lists⟩, congrArg fun c : Counts => { c with lost := c.lost + 1 }⟩

/-- So do several candidates. -/
theorem candidates_same (h : Head) (reasons : Reasons) (l : List (Nat × Nat)) (k : SameLists s t) :
    SameLists (candidates h reasons l s) (candidates h reasons l t)
    ∧ (t.oe.counts = s.oe.counts →
      (candidates h reasons l t).oe.counts = (candidates h reasons l s).oe.counts) := by
  induction l generalizing s t with
  | nil => exact ⟨k, id⟩
  | cons x xs ih =>
    have one := candidate_same h x.2 x.1 reasons k
    exact ⟨(ih one.1).1, fun c => (ih one.1).2 (one.2 c)⟩

/-! ## Pending gaps -/

/-- A gap taken with an entry free joins the tail of the buffer with the order's tag. -/
theorem takeGap_staged (h : Head) (g : PendingGap) (s : State) (room : s.sb.staged.length < 1024) :
    (takeGap h g s).sb.staged = s.sb.staged ++ [⟨.gap (g.record h), s.oe.activeTag⟩] := by
  unfold takeGap
  exact takeRecord_room (.gap (g.record h)) _ (hasRoom_other (.gap (g.record h)) _ rfl room)

/-- A pending gap offered with an entry free joins the tail of the buffer, unless it waits already (R155). -/
theorem offerGap_staged_room (h : Head) (s : State) (room : s.sb.staged.length < 1024) :
    (offerGap h s).sb.staged = s.sb.staged ++ match (s.ports.get h).gap, (s.ports.get h).gapWaits with
      | some g, false => [⟨.gap (g.record h), s.oe.activeTag⟩]
      | _, _ => [] := by
  unfold offerGap
  cases (s.ports.get h).gap with
  | none => simp
  | some g =>
    cases (s.ports.get h).gapWaits with
    | true => simp
    | false => simpa [hasRoom_other (.gap (g.record h)) s rfl room] using takeGap_staged h g s room

/-! ## Records kept by a port -/

theorem hold_link (p : Port) (r : GapRecord) : SameLink p (p.hold r) := by
  unfold Port.hold
  split <;> exact ⟨rfl, rfl, rfl, rfl, rfl, rfl, rfl, rfl, rfl, rfl⟩

theorem offerPortRecord_steady (h : Head) (r : GapRecord) (hb : Steady b s) :
    Steady b (offerPortRecord h r s) := by
  unfold offerPortRecord
  exact ite_steady (takeRecord_steady _ hb) (onPort_steady _ _ (fun p => hold_link p r) hb)

theorem offerPortRecord_onlyStaging (h : Head) (r : GapRecord) (s : State) :
    OnlyStaging s (offerPortRecord h r s) := by
  unfold offerPortRecord
  split
  · exact takeRecord_onlyStaging _ _
  · exact ⟨_, _, _, _, _, rfl⟩

theorem groupsRemoved_steady (h : Head) (gs : List InFlight) (hb : Steady b s) :
    Steady b (groupsRemoved h gs s) := by
  unfold groupsRemoved
  exact ite_steady (offerGap_steady _ hb) hb

theorem groupsRemoved_onlyStaging (h : Head) (gs : List InFlight) (s : State) :
    OnlyStaging s (groupsRemoved h gs s) := by
  unfold groupsRemoved
  split
  · exact offerGap_onlyStaging _ _
  · exact .refl s

theorem handWithheld_steady (h : Head) (reason : GapReason) (reasons : Reasons) (pass : PassId)
    (ps : List (Nat × Nat)) (hb : Steady b s) : Steady b (handWithheld h reason reasons pass ps s) := by
  unfold handWithheld
  dsimp only
  split
  · exact candidates_steady _ _ _ hb
  · exact offerPortRecord_steady _ _ (offerGap_steady _ (candidates_steady _ _ _ hb))

/-- Withheld points handed: the candidates, and what gap records offered change. -/
theorem handWithheld_only (h : Head) (reason : GapReason) (reasons : Reasons) (pass : PassId)
    (ps : List (Nat × Nat)) (s : State) :
    OnlyStaging (candidates h reasons (ps.filter fun p => s.yieldsCandidate pass p.2) s)
      (handWithheld h reason reasons pass ps s) := by
  unfold handWithheld
  dsimp only
  split
  · exact .refl _
  · exact (offerGap_onlyStaging _ _).trans (offerPortRecord_onlyStaging _ _ _)

theorem disarmScan_steady (h : Head) (hb : Steady b s) : Steady b (disarmScan h s) :=
  offerGap_steady _ (disarmScanOnly_steady _ hb)

theorem excludeScan_steady (h : Head) (hb : Steady b s) : Steady b (excludeScan h s) := by
  unfold excludeScan
  split
  · exact disarmScan_steady _ hb
  · exact handWithheld_steady _ _ _ _ _ (disarmScan_steady _ hb)

theorem excludeHead_steady (h : Head) (hb : Steady b s) : Steady b (excludeHead h s) := by
  unfold excludeHead
  dsimp only
  have k : Steady b (unawait h (excludeScan h (s.onOrder fun o =>
      { o with excluded := o.excluded.set h true }))) :=
    unawait_steady _ (excludeScan_steady _ (onOrder_steady _ rfl hb))
  exact ite_steady (endCondition_steady _ k) k

/-! ## Exits from READY -/

/-- An exit from READY (R54) is no change but the emptied list, beside the steps of `Steady`. -/
theorem leaveReady_steady (h : Head) (toFault : Bool)
    (hb : Steady b (s.onPort h fun p => { p with inFlight := [] })) : Steady b (leaveReady h toFault s) := by
  unfold leaveReady
  dsimp only
  refine endPassage_steady _ (groupsRemoved_steady _ _ ?_)
  have k : ∀ n, Steady b (countAbandoned n (s.onPort h fun p => { p with inFlight := [] })) := by
    intro n
    unfold countAbandoned
    exact ite_steady (onCounts_steady _ hb) hb
  split
  · exact candidates_steady _ _ _ (k _)
  · exact k _

end Sys2Proof.Machine
end

