-- ==== Sys2Proof/Laws/Keeps.lean ====
section
/-! SUPPORT. What every operation of the part keeps: the queue, the values that registers alone write, the capacities, the soundness of the writer and of the in-flight lists, and the balance of an order's counts; one lemma for each operation. -/

namespace Sys2Proof.Machine

/-! ## The relation -/

/-- The counts of the order that is active balance, among sound lists. -/
structure Tallied (s : State) : Prop where
  sound : FlightsSound s
  counts : s.countsOrder
  balanced : s.balanced

/-- From `b` to `s` the queue, XBASE, NOTE_EN and the Time Base stand, and no capacity is passed that was kept
before; a sound writer stays sound, sound lists stay sound, and where the counts of an active order balanced they
balance, but for `owed` groups that have left their list and whose outcome is still to be counted. -/
structure Keeps (owed : Nat) (b s : State) : Prop where
  pending : s.pending = b.pending
  xbaseL : s.xe.xbaseL = b.xe.xbaseL
  xbaseH : s.xe.xbaseH = b.xe.xbaseH
  noteEn : s.xe.noteEn = b.xe.noteEn
  time : s.xe.time = b.xe.time
  buffer : bufferWithin b.sb.staged → bufferWithin s.sb.staged
  flights : flightsWithin b.ports → flightsWithin s.ports
  lists : listsWithin b.ru → listsWithin s.ru
  segments : segmentsWithin b.rw → segmentsWithin s.rw
  writer : WriterSound b.rw → WriterSound s.rw
  grouped : FlightsSound b → ∀ h, Grouped (s.ports.get h).inFlight
  zones : FlightsSound b → burstsIssue s.tg.zones
  tables : FlightsSound b → ∀ h a, s.oe.doing = .correction h → s.oe.active = some a → burstsIssue a.zones
  kinds : FlightsSound b → ∀ h, (s.tg.heads.get h).kindsFit
  balance : Tallied b → s.oe.active.isSome = true →
    s.oe.counts.issued = s.oe.counts.ended + s.openGroups + owed

theorem Keeps.refl (s : State) : Keeps 0 s s :=
  { pending := rfl, xbaseL := rfl, xbaseH := rfl, noteEn := rfl, time := rfl, buffer := id, flights := id,
    lists := id, segments := id, writer := id, grouped := FlightsSound.grouped, zones := FlightsSound.zones,
    tables := FlightsSound.tables, kinds := FlightsSound.kinds, balance := fun h _ => h.balanced }

variable {owed : Nat} {b s t : State}

/-- What stands sound before stands sound after. -/
theorem Keeps.sound (hb : Keeps owed b s) (h : FlightsSound b) : FlightsSound s :=
  ⟨hb.grouped h, hb.zones h, hb.tables h, hb.kinds h⟩

/-- What is owed, written another way. -/
theorem Keeps.owes {n m : Nat} (hn : FlightsSound b → n = m) (hb : Keeps n b s) : Keeps m b s :=
  { hb with balance := fun h ha => by rw [← hn h.sound]; exact hb.balance h ha }

/-- The blocks with no order active, both lists of every head and the records of every pass as given, and no
zone table: as a unit that stops or faults leaves them. -/
theorem ended_keeps {x : State} (hb : Keeps owed b s) (hp : x.pending = s.pending) (hx : x.xe = s.xe)
    (hw : x.rw = s.rw) (hs : bufferWithin s.sb.staged → bufferWithin x.sb.staged)
    (hf : flightsWithin s.ports → flightsWithin x.ports) (hl : listsWithin x.ru)
    (hg : (∀ h, Grouped (s.ports.get h).inFlight) → ∀ h, Grouped (x.ports.get h).inFlight)
    (hz : x.tg.zones = none) (hk : (∀ h, (s.tg.heads.get h).kindsFit) → ∀ h, (x.tg.heads.get h).kindsFit)
    (ha : x.oe.active = none) : Keeps owed b x :=
  { pending := hp.trans hb.pending
    xbaseL := by rw [hx]; exact hb.xbaseL
    xbaseH := by rw [hx]; exact hb.xbaseH
    noteEn := by rw [hx]; exact hb.noteEn
    time := by rw [hx]; exact hb.time
    buffer := fun h => hs (hb.buffer h)
    flights := fun h => hf (hb.flights h)
    lists := fun _ => hl
    segments := by rw [hw]; exact hb.segments
    writer := by rw [hw]; exact hb.writer
    grouped := fun h => hg (hb.grouped h)
    zones := fun _ z e => by rw [hz] at e; cases e
    tables := fun _ _ a _ e => by rw [ha] at e; cases e
    kinds := fun h => hk (hb.kinds h)
    balance := fun _ h => by rw [ha] at h; cases h }

/-- Disarmed records name the kinds of pass they named. -/
theorem disarmed_kinds {p : PerHead HeadPasses} (hp : ∀ h, (p.get h).kindsFit) (h : Head) :
    ((p.map HeadPasses.disarmed).get h).kindsFit := by
  rw [get_map]
  exact hp h

/-- With no order active nothing is owed. -/
theorem Keeps.inactive {n m : Nat} (hs : s.oe.active = none) (hb : Keeps n b s) : Keeps m b s :=
  { hb with balance := fun _ h => by rw [hs] at h; cases h }

/-! ## The writer's soundness at its operations -/

/-- Soundness looks at the phase, the FILLING segment and the access alone. -/
theorem WriterSound.congr {w x : Writer} (h : WriterSound w) (hp : x.phase = w.phase)
    (hf : x.filling = w.filling) (hd : x.doing = w.doing) : WriterSound x := by
  obtain ⟨hn, ha⟩ := h
  unfold Writer.accessFits at ha
  refine ⟨?_, ?_⟩
  · simpa only [Writer.searching, hp, hf] using hn
  · simpa only [Writer.accessFits, Writer.searching, hp, hf, hd] using ha

/-- With its access let go of, a sound writer stays sound. -/
theorem WriterSound.rested {w x : Writer} (h : WriterSound w) (hp : x.phase = w.phase)
    (hf : x.filling = w.filling) (hd : x.doing = .none) : WriterSound x := by
  refine ⟨?_, ?_⟩
  · simpa only [Writer.searching, hp, hf] using h.noneFilling
  · simp only [Writer.accessFits, hd]

/-- A writer at rest that does not search is sound. -/
theorem WriterSound.still {w : Writer} (hs : ¬ w.searching) (hd : w.doing = .none) : WriterSound w :=
  ⟨fun h => absurd h hs, by simp only [Writer.accessFits, hd]⟩

/-- A writer that searches with no FILLING segment is sound in each access of a take. -/
theorem WriterSound.inTake {w : Writer} (hs : w.searching) (hf : w.filling = none)
    (hd : w.doing = .entry ∨ w.doing = .take ∨ w.doing = .full .fault ∨ w.doing = .none) : WriterSound w := by
  refine ⟨fun _ => hf, ?_⟩
  rcases hd with hd | hd | hd | hd <;> simp only [Writer.accessFits, hd] <;> exact hs

/-- A sound writer with an access of a take in progress searches. -/
theorem WriterSound.searches {w : Writer} (h : WriterSound w)
    (hd : w.doing = .entry ∨ w.doing = .take ∨ w.doing = .full .fault) : w.searching := by
  have ha := h.accessFits
  rcases hd with hd | hd | hd <;> simpa only [Writer.accessFits, hd] using ha

/-- A sound writer stopped by a fault has no access in progress. -/
theorem WriterSound.faulted {w : Writer} (h : WriterSound w) (hp : w.phase = .stoppedByFault) :
    w.doing = .none := by
  have ha := h.accessFits
  unfold Writer.accessFits Writer.searching at ha
  rw [hp] at ha
  split at ha <;> simp_all

/-- The reset writer is sound. -/
theorem WriterSound.reset : WriterSound .reset := .still (by rintro (h | h) <;> cases h) rfl

/-! ## Updates of one part -/

theorem trackerUpd_keeps (x : Tracker) (hb : Keeps owed b s) : Keeps owed b { s with tracker := x } := { hb with }
theorem tgUpd_keeps (x : TriggerGen) (hz : burstsIssue s.tg.zones → burstsIssue x.zones)
    (hk : (∀ h, (s.tg.heads.get h).kindsFit) → ∀ h, (x.heads.get h).kindsFit) (hb : Keeps owed b s) :
    Keeps owed b { s with tg := x } :=
  { hb with zones := fun h => hz (hb.zones h), kinds := fun h => hk (hb.kinds h) }
theorem lightUpd_keeps (x : Light) (hb : Keeps owed b s) : Keeps owed b { s with light := x } := { hb with }
theorem mon0Upd_keeps (x : MonOutput) (hb : Keeps owed b s) : Keeps owed b { s with mon0 := x } := { hb with }
theorem mon1Upd_keeps (x : MonOutput) (hb : Keeps owed b s) : Keeps owed b { s with mon1 := x } := { hb with }
theorem quUpd_keeps (x : Qualifier) (hb : Keeps owed b s) : Keeps owed b { s with qu := x } := { hb with }
theorem rcUpd_keeps (x : RefCheck) (hb : Keeps owed b s) : Keeps owed b { s with rc := x } := { hb with }
theorem sfUpd_keeps (x : Span) (hb : Keeps owed b s) : Keeps owed b { s with sf := x } := { hb with }

/-- An update of the Order Engine that leaves its counts, activates no order, and leaves no table read of an
unsound table. -/
structure OrderUpd (o x : OrderEngine) : Prop where
  counts : x.counts = o.counts
  active : x.active.isSome = true → o.active.isSome = true
  tables : (∀ h a, o.doing = .correction h → o.active = some a → burstsIssue a.zones) →
    ∀ h a, x.doing = .correction h → x.active = some a → burstsIssue a.zones

/-- The counts, the order and the access in progress stand. -/
theorem OrderUpd.same {o x : OrderEngine} (hc : x.counts = o.counts) (ha : x.active = o.active)
    (hd : x.doing = o.doing) : OrderUpd o x :=
  ⟨hc, by rw [ha]; exact id, by rw [ha, hd]; exact id⟩

/-- No correction table is being read afterwards. -/
theorem OrderUpd.noTable {o x : OrderEngine} (hc : x.counts = o.counts)
    (ha : x.active.isSome = true → o.active.isSome = true) (hd : ∀ h, x.doing ≠ .correction h) : OrderUpd o x :=
  ⟨hc, ha, fun _ h _ he => absurd he (hd h)⟩

theorem oeUpd_keeps (x : OrderEngine) (hx : OrderUpd s.oe x) (hb : Keeps owed b s) :
    Keeps owed b { s with oe := x } :=
  { hb with
    tables := fun h => hx.tables (hb.tables h)
    balance := fun h ha => by
      have := hb.balance h (hx.active ha)
      unfold State.openGroups at this ⊢
      dsimp only
      rw [hx.counts]
      exact this }

theorem ucUpd_keeps (x : UnitControl) (hb : Keeps owed b s) : Keeps owed b { s with uc := x } := { hb with }
theorem freeUpd_keeps (x : Nat) (hb : Keeps owed b s) : Keeps owed b { s with free := x } := { hb with }

theorem ruUpd_keeps (x : Revisit) (hx : listsWithin s.ru → listsWithin x) (hb : Keeps owed b s) :
    Keeps owed b { s with ru := x } := { hb with lists := fun h => hx (hb.lists h) }

theorem sbUpd_keeps (x : Staging) (hx : bufferWithin s.sb.staged → bufferWithin x.staged) (hb : Keeps owed b s) :
    Keeps owed b { s with sb := x } := { hb with buffer := fun h => hx (hb.buffer h) }

theorem rwUpd_keeps (x : Writer) (hx : segmentsWithin s.rw → segmentsWithin x)
    (hw : WriterSound s.rw → WriterSound x) (hb : Keeps owed b s) : Keeps owed b { s with rw := x } :=
  { hb with
    segments := fun h => hx (hb.segments h)
    writer := fun h => hw (hb.writer h) }

theorem xeUpd_keeps (x : Exchange) (hl : x.xbaseL = s.xe.xbaseL) (hh : x.xbaseH = s.xe.xbaseH)
    (hn : x.noteEn = s.xe.noteEn) (ht : x.time = s.xe.time) (hb : Keeps owed b s) : Keeps owed b { s with xe := x } :=
  { hb with
    xbaseL := hl.trans hb.xbaseL
    xbaseH := hh.trans hb.xbaseH
    noteEn := hn.trans hb.noteEn
    time := ht.trans hb.time }

/-- One port changed: its list no longer than it was, or within its capacity; whole groups; and what is owed
afterwards makes up for the groups that came or went. -/
theorem onPort_list {n m : Nat} (k : Head) (f : Port → Port)
    (hl : (f (s.ports.get k)).inFlight.length ≤ max (s.ports.get k).inFlight.length Config.inFlightRoom)
    (hg : FlightsSound b → Grouped (s.ports.get k).inFlight → Grouped (f (s.ports.get k)).inFlight)
    (ho : FlightsSound b → Grouped (s.ports.get k).inFlight →
      openGroups (f (s.ports.get k)).inFlight + m = openGroups (s.ports.get k).inFlight + n)
    (hb : Keeps n b s) : Keeps m b (s.onPort k f) :=
  { hb with
    flights := fun h j => by
      have all := hb.flights h
      by_cases hj : j = k
      · subst hj
        have := all j
        simp only [onPort_ports, get_set_same]
        omega
      · rw [onPort_ports, get_set_other _ _ hj]
        exact all j
    grouped := fun h j => by
      by_cases hj : j = k
      · subst hj
        simp only [onPort_ports, get_set_same]
        exact hg h (hb.grouped h j)
      · rw [onPort_ports, get_set_other _ _ hj]
        exact hb.grouped h j
    balance := fun h ha => by
      have ho := ho h.sound (hb.grouped h.sound k)
      have := hb.balance h ha
      unfold State.openGroups at this ⊢
      cases k <;> simp only [onPort_ports, onPort_oe, PerHead.get, PerHead.set] at ho this ⊢ <;> omega }

/-- One port changed, its list as it was. -/
theorem onPort_keeps (k : Head) (f : Port → Port) (hf : (f (s.ports.get k)).inFlight = (s.ports.get k).inFlight)
    (hb : Keeps owed b s) : Keeps owed b (s.onPort k f) :=
  onPort_list k f (by rw [hf]; exact Nat.le_max_left _ _) (fun _ h => by rw [hf]; exact h)
    (fun _ _ => by rw [hf]) hb

theorem onPasses_keeps (k : Head) (f : HeadPasses → HeadPasses)
    (hf : (s.tg.heads.get k).kindsFit → (f (s.tg.heads.get k)).kindsFit) (hb : Keeps owed b s) :
    Keeps owed b (s.onPasses k f) :=
  { hb with
    kinds := fun h j => by
      by_cases hj : j = k
      · subst hj
        simp only [onPasses_tg, get_set_same]
        exact hf (hb.kinds h j)
      · simp only [onPasses_tg, get_set_other _ _ hj]
        exact hb.kinds h j }

theorem onScan_keeps (k : Head) (f : PassRecord → PassRecord)
    (hf : (f (s.scan k)).pass.kind = (s.scan k).pass.kind) (hb : Keeps owed b s) : Keeps owed b (s.onScan k f) :=
  onPasses_keeps k _ (fun h => ⟨hf ▸ h.1, h.2⟩) hb
theorem onRef_keeps (k : Head) (f : PassRecord → PassRecord)
    (hf : (f (s.ref k)).pass.kind = (s.ref k).pass.kind) (hb : Keeps owed b s) : Keeps owed b (s.onRef k f) :=
  onPasses_keeps k _ (fun h => ⟨h.1, hf.trans h.2⟩) hb
theorem onQual_keeps (k : Head) (f : HeadQual → HeadQual) (hb : Keeps owed b s) : Keeps owed b (s.onQual k f) :=
  { hb with }
theorem onHeadRef_keeps (k : Head) (f : HeadRef → HeadRef) (hb : Keeps owed b s) : Keeps owed b (s.onHeadRef k f) :=
  { hb with }
/-- The counts changed: the points issued, and those ended, make up for what is owed. -/
theorem onCounts_owed {n m : Nat} (f : Counts → Counts)
    (hf : (f s.oe.counts).issued + s.oe.counts.ended + n = s.oe.counts.issued + (f s.oe.counts).ended + m)
    (hb : Keeps n b s) : Keeps m b (s.onCounts f) :=
  { hb with
    balance := fun h ha => by
      have : s.oe.counts.issued = s.oe.counts.ended + s.openGroups + n := hb.balance h ha
      show (f s.oe.counts).issued = (f s.oe.counts).ended + s.openGroups + m
      omega }

/-- Counts changed that the balance does not name. -/
theorem onCounts_keeps (f : Counts → Counts) (hi : (f s.oe.counts).issued = s.oe.counts.issued)
    (he : (f s.oe.counts).ended = s.oe.counts.ended) (hb : Keeps owed b s) : Keeps owed b (s.onCounts f) :=
  onCounts_owed f (by rw [hi, he]) hb

theorem onOrder_keeps (f : OrderEngine → OrderEngine) (hf : OrderUpd s.oe (f s.oe)) (hb : Keeps owed b s) :
    Keeps owed b (s.onOrder f) := oeUpd_keeps _ hf hb
theorem onFlags_keeps (f : CompletionFlags → CompletionFlags) (hb : Keeps owed b s) : Keeps owed b (s.onFlags f) :=
  onOrder_keeps _ (.same rfl rfl rfl) hb
theorem onSpan_keeps (f : Span → Span) (hb : Keeps owed b s) : Keeps owed b (s.onSpan f) := { hb with }

theorem forHeads_keeps {f : Head → State → State} (hf : ∀ k s, Keeps owed b s → Keeps owed b (f k s))
    (hb : Keeps owed b s) : Keeps owed b (forHeads f s) := hf _ _ (hf _ _ (hf _ _ (hf _ _ hb)))

theorem chosen_keeps (n : Nat) (hb : Keeps owed b s) : Keeps owed b (s.chosen n) := by
  unfold State.chosen
  split
  · exact hb
  · exact { hb with }

theorem inFreeOrder_keeps {α : Type} {f : α → State → State} (hf : ∀ k s, Keeps owed b s → Keeps owed b (f k s))
    (n : Nat) (xs : List α) (hb : Keeps owed b s) : Keeps owed b (inFreeOrder f n xs s) := by
  induction n generalizing xs s with
  | zero => exact hb
  | succ n ih =>
    unfold inFreeOrder
    split
    · exact hb
    · exact ih _ (hf _ _ (chosen_keeps _ hb))

theorem forFree_keeps {f : Head → State → State} (hf : ∀ k s, Keeps owed b s → Keeps owed b (f k s)) (hs : List Head)
    (hb : Keeps owed b s) : Keeps owed b (forFree hs f s) := inFreeOrder_keeps hf _ _ hb

theorem foldl_keeps {α : Type} {f : State → α → State} (hf : ∀ s x, Keeps owed b s → Keeps owed b (f s x)) (l : List α)
    (hb : Keeps owed b s) : Keeps owed b (l.foldl f s) := by
  induction l generalizing s with
  | nil => exact hb
  | cons x xs ih => exact ih (hf _ _ hb)

theorem forHeadsFree_keeps {f : Head → State → State} (p : Head → Bool)
    (hf : ∀ k s, Keeps owed b s → Keeps owed b (f k s)) (hb : Keeps owed b s) :
    Keeps owed b (forHeadsFree p f s) := forFree_keeps hf _ (foldl_keeps (fun _ _ => hf _ _) _ hb)

theorem ite_keeps {c : Prop} [Decidable c] (hs : Keeps owed b s) (ht : Keeps owed b t) : Keeps owed b (if c then s else t) := by
  split
  · exact hs
  · exact ht

theorem hold_flight (p : Port) (r : GapRecord) : (p.hold r).inFlight = p.inFlight := by
  unfold Port.hold
  split <;> rfl

theorem sendWake_flight (p : Port) (now : Time) : (p.sendWake now).inFlight = p.inFlight := by
  unfold Port.sendWake
  split <;> rfl

theorem issue_flight (p : Port) (r : Request) (now : Time) (room : p.canIssue r.burst = true) :
    (p.issue r now).inFlight.length ≤ max p.inFlight.length Config.inFlightRoom := by
  obtain ⟨_, room⟩ := (Bool.and_eq_true _ _).mp room
  have room := of_decide_eq_true room
  unfold Port.freeEntries at room
  simp only [Port.issue, List.length_append, List.length_map, List.length_range]
  omega

/-- The oldest entry's retirement adds no entry. -/
theorem length_retireOldest (x : Exposure) (l : List InFlight) : (retireOldest x l).length = l.length := by
  induction l with
  | nil => rfl
  | cons e es ih =>
    unfold retireOldest
    split
    · rfl
    · simp only [List.length_cons, ih]

/-! ## Burst groups in a list -/

@[simp] theorem openGroups_append (l m : List InFlight) : openGroups (l ++ m) = openGroups l + openGroups m := by
  simp [openGroups, groupsOf]

/-- A list without open scan entries has no open group. -/
theorem openGroups_closed {l : List InFlight} (h : ∀ e ∈ l, e.openScan = false) : openGroups l = 0 := by
  have : l.filter InFlight.openScan = [] := List.filter_eq_nil_iff.mpr fun e he => by simp [h e he]
  simp [openGroups, groupsOf, this]

theorem Grouped.nil : Grouped [] := ⟨[], rfl, nofun⟩

/-- A group joins the end of a list. -/
theorem Grouped.issued {l g : List InFlight} (h : Grouped l) (hg : BurstGroup g) : Grouped (l ++ g) := by
  obtain ⟨gs, rfl, all⟩ := h
  refine ⟨gs ++ [g], by simp, fun x hx => ?_⟩
  rcases List.mem_append.mp hx with hx | hx
  · exact all x hx
  · rw [List.mem_singleton.mp hx]
    exact hg

/-- Entries of one group are all open scan entries, or none of them is. -/
theorem BurstGroup.openScan {g : List InFlight} (hg : BurstGroup g) {e f : InFlight} (he : e ∈ g) (hf : f ∈ g) :
    e.openScan = f.openScan := by
  unfold InFlight.openScan
  rw [hg.pass e he f hf, hg.marks e he f hf]

/-- One of the ordinals of a group is 1. -/
theorem countP_ordinals {n : Nat} (h : n ≠ 0) : ((List.range n).map (· + 1)).countP (· == 1) = 1 := by
  obtain ⟨m, rfl⟩ := Nat.exists_eq_succ_of_ne_zero h
  rw [List.range_succ_eq_map, List.map_cons, List.countP_cons, List.map_map, List.countP_map]
  rw [List.countP_eq_zero.mpr]
  · rfl
  · intro k _
    simp

/-- A group counts once among the open groups, or not at all. -/
theorem BurstGroup.openGroups {g : List InFlight} (hg : BurstGroup g) {e : InFlight} (he : e ∈ g) :
    openGroups g = if e.openScan then 1 else 0 := by
  split
  · rename_i ho
    have all : g.filter InFlight.openScan = g :=
      List.filter_eq_self.mpr fun f hf => (hg.openScan hf he).trans ho
    have one := countP_ordinals (mt List.length_eq_zero_iff.mp hg.nonempty)
    rw [← hg.ordinals, List.countP_map] at one
    rw [Machine.openGroups, groupsOf, all, ← List.countP_eq_length_filter]
    exact one
  · rename_i ho
    exact openGroups_closed fun f hf => (hg.openScan hf he).trans (Bool.not_eq_true _ ▸ ho)

/-- Marks that fall on a whole group or not at all leave a list of groups. -/
theorem Grouped.marked {l : List InFlight} (h : Grouped l) {test : InFlight → Bool}
    (ht : ∀ e f : InFlight, e.pass = f.pass → e.abandoned = f.abandoned → test e = test f) :
    Grouped (l.map fun e => if test e then { e with abandoned := true } else e) := by
  obtain ⟨gs, rfl, all⟩ := h
  refine ⟨gs.map (List.map fun e => if test e then { e with abandoned := true } else e), ?_, ?_⟩
  · rw [List.map_flatten]
  · intro g hg
    obtain ⟨g, hm, rfl⟩ := List.mem_map.mp hg
    obtain ⟨ho, hn, hb, hp, hk, hl⟩ := all g hm
    have same : ∀ e : InFlight, (if test e then { e with abandoned := true } else e).ordinal = e.ordinal
        ∧ (if test e then { e with abandoned := true } else e).burst = e.burst
        ∧ (if test e then { e with abandoned := true } else e).pass = e.pass
        ∧ (if test e then { e with abandoned := true } else e).result = e.result
        ∧ (if test e then { e with abandoned := true } else e).abandoned = (test e || e.abandoned) := by
      intro e
      split <;> rename_i he <;> simp [he]
    refine ⟨?_, by simpa using hn, ?_, ?_, ?_, ?_⟩
    · rw [List.map_map, List.length_map, ← ho]
      exact List.map_congr_left fun e _ => (same e).1
    · intro e he
      obtain ⟨e, hm, rfl⟩ := List.mem_map.mp he
      rw [(same e).2.1, List.length_map, hb e hm]
    · intro e he f hf
      obtain ⟨e, hm, rfl⟩ := List.mem_map.mp he
      obtain ⟨f, hm', rfl⟩ := List.mem_map.mp hf
      rw [(same e).2.2.1, (same f).2.2.1, hp e hm f hm']
    · intro e he f hf
      obtain ⟨e, hm, rfl⟩ := List.mem_map.mp he
      obtain ⟨f, hm', rfl⟩ := List.mem_map.mp hf
      rw [(same e).2.2.2.2, (same f).2.2.2.2, hk e hm f hm', ht e f (hp e hm f hm') (hk e hm f hm')]
    · intro e he
      obtain ⟨e, hm, rfl⟩ := List.mem_map.mp he
      rw [(same e).1, (same e).2.1, (same e).2.2.2.1]
      exact hl e hm

/-- Marks on entries that are not open scan entries close no group. -/
theorem openGroups_marked {l : List InFlight} {test : InFlight → Bool}
    (ht : ∀ e : InFlight, test e = true → e.openScan = false) :
    openGroups (l.map fun e => if test e then { e with abandoned := true } else e) = openGroups l := by
  induction l with
  | nil => rfl
  | cons e es ih =>
    rw [List.map_cons, ← List.singleton_append, openGroups_append, ih, ← List.singleton_append (l := es),
      openGroups_append]
    congr 1
    by_cases he : test e = true
    · rw [if_pos he, openGroups_closed, openGroups_closed]
      · exact fun f hf => by rw [List.mem_singleton.mp hf]; exact ht e he
      · exact fun f hf => by rw [List.mem_singleton.mp hf]; rfl
    · rw [if_neg he]

/-- The entries of a burst as they are issued are a group. -/
theorem issue_group (p : Port) (r : Request) (now : Time) (hr : r.burst ≠ 0) :
    BurstGroup ((List.range r.burst).map fun k =>
      r.entry (p.seqCounter + BitVec.ofNat 8 k) (k + 1) now p.timeoutInForce) := by
  have shape : ∀ e ∈ (List.range r.burst).map fun k =>
      r.entry (p.seqCounter + BitVec.ofNat 8 k) (k + 1) now p.timeoutInForce,
      e.burst = r.burst ∧ e.pass = r.pass ∧ e.abandoned = false ∧ e.result = none := by
    intro e he
    obtain ⟨k, _, rfl⟩ := List.mem_map.mp he
    exact ⟨rfl, rfl, rfl, rfl⟩
  refine ⟨?_, by simpa using hr, ?_, ?_, ?_, ?_⟩
  · rw [List.map_map, List.length_map, List.length_range]
    rfl
  · intro e he
    rw [List.length_map, List.length_range]
    exact (shape e he).1
  · exact fun e he f hf => (shape e he).2.1.trans (shape f hf).2.1.symm
  · exact fun e he f hf => (shape e he).2.2.1.trans (shape f hf).2.2.1.symm
  · exact fun e he _ => (shape e he).2.2.2

/-- An issued scan burst is one open group more, an issued reference exposure none. -/
theorem openGroups_issue (p : Port) (r : Request) (now : Time) (hr : r.burst ≠ 0) :
    openGroups (p.issue r now).inFlight
      = openGroups p.inFlight + if r.pass.kind = .reference then 0 else 1 := by
  have first : r.entry (p.seqCounter + BitVec.ofNat 8 0) 1 now p.timeoutInForce ∈
      (List.range r.burst).map fun k =>
        r.entry (p.seqCounter + BitVec.ofNat 8 k) (k + 1) now p.timeoutInForce :=
    List.mem_map.mpr ⟨0, List.mem_range.mpr (Nat.pos_of_ne_zero hr), rfl⟩
  unfold Port.issue
  dsimp only
  rw [openGroups_append, (issue_group p r now hr).openGroups first]
  unfold InFlight.openScan Request.entry
  by_cases hp : r.pass.kind = .reference <;> simp [hp]

theorem oldestOpen_here {e : InFlight} (es : List InFlight) (h : e.result.isNone = true) :
    oldestOpen (e :: es) = some e := by
  unfold oldestOpen
  rw [List.find?_cons, h]

theorem oldestOpen_later {e : InFlight} (es : List InFlight) (h : ¬ e.result.isNone = true) :
    oldestOpen (e :: es) = oldestOpen es := by
  unfold oldestOpen
  rw [List.find?_cons, Bool.not_eq_true _ |>.mp h]

/-- Retirement changes no open group. -/
theorem openGroups_retire (x : Exposure) (l : List InFlight) : openGroups (retireOldest x l) = openGroups l := by
  induction l with
  | nil => rfl
  | cons e es ih =>
    unfold retireOldest
    split
    · unfold openGroups groupsOf
      rw [List.filter_cons, List.filter_cons]
      unfold InFlight.openScan
      dsimp only
      split
      · rw [List.filter_cons, List.filter_cons]
        dsimp only
        split <;> rfl
      · rfl
    · rw [← List.singleton_append, openGroups_append, ih, ← List.singleton_append (l := es), openGroups_append]

/-- Every retired entry stands where it stood, with its place in its group; only the oldest open one has
another result. -/
theorem retire_shape (x : Exposure) (l : List InFlight) :
    (retireOldest x l).map (·.ordinal) = l.map (·.ordinal)
      ∧ ∀ f ∈ retireOldest x l, ∃ e ∈ l, f.ordinal = e.ordinal ∧ f.burst = e.burst ∧ f.pass = e.pass
          ∧ f.abandoned = e.abandoned ∧ (f.result = e.result ∨ oldestOpen l = some e) := by
  induction l with
  | nil => exact ⟨rfl, nofun⟩
  | cons e es ih =>
    unfold retireOldest
    split
    · rename_i he
      refine ⟨rfl, fun f hf => ?_⟩
      rcases List.mem_cons.mp hf with rfl | hf
      · exact ⟨e, List.mem_cons_self, rfl, rfl, rfl, rfl, .inr (oldestOpen_here es he)⟩
      · exact ⟨f, List.mem_cons_of_mem _ hf, rfl, rfl, rfl, rfl, .inl rfl⟩
    · rename_i he
      refine ⟨by rw [List.map_cons, List.map_cons, ih.1], fun f hf => ?_⟩
      rcases List.mem_cons.mp hf with rfl | hf
      · exact ⟨f, List.mem_cons_self, rfl, rfl, rfl, rfl, .inl rfl⟩
      · obtain ⟨g, hg, ho, hb, hp, ha, hr⟩ := ih.2 f hf
        refine ⟨g, List.mem_cons_of_mem _ hg, ho, hb, hp, ha, hr.imp id fun h => ?_⟩
        rw [oldestOpen_later es he]
        exact h

/-- A group has an entry not yet retired: its last. -/
theorem BurstGroup.someOpen {g : List InFlight} (hg : BurstGroup g) : (oldestOpen g).isSome = true := by
  have pos := List.length_pos_iff.mpr hg.nonempty
  have last : g.length ∈ g.map (·.ordinal) := by
    rw [hg.ordinals]
    exact List.mem_map.mpr ⟨g.length - 1, List.mem_range.mpr (by omega), by omega⟩
  obtain ⟨e, he, ho⟩ := List.mem_map.mp last
  unfold oldestOpen
  rw [List.find?_isSome]
  exact ⟨e, he, by rw [hg.lastOpen e he (ho.trans (hg.burst e he).symm)]; rfl⟩

/-- The oldest open entry of a list of groups stands in its first group, and it alone retires. -/
theorem retire_first {l : List InFlight} (h : Grouped l) {e : InFlight} (he : oldestOpen l = some e)
    (x : Exposure) : ∃ g rest, l = g ++ rest ∧ BurstGroup g ∧ Grouped rest ∧ oldestOpen g = some e
      ∧ retireOldest x l = retireOldest x g ++ rest := by
  obtain ⟨gs, rfl, all⟩ := h
  cases gs with
  | nil => cases he
  | cons g gs =>
    have hg := all g List.mem_cons_self
    have first : ∀ (a r : List InFlight), (oldestOpen a).isSome = true →
        oldestOpen (a ++ r) = oldestOpen a ∧ retireOldest x (a ++ r) = retireOldest x a ++ r := by
      intro a r ha
      induction a with
      | nil => cases ha
      | cons f fs ih =>
        rw [List.cons_append]
        unfold retireOldest
        by_cases hf : f.result.isNone = true
        · rw [oldestOpen_here _ hf, oldestOpen_here _ hf, if_pos hf, if_pos hf]
          exact ⟨rfl, rfl⟩
        · rw [oldestOpen_later _ hf] at ha
          rw [oldestOpen_later _ hf, oldestOpen_later _ hf, if_neg hf, if_neg hf, (ih ha).2]
          exact ⟨(ih ha).1, rfl⟩
    obtain ⟨h1, h2⟩ := first g gs.flatten hg.someOpen
    refine ⟨g, gs.flatten, rfl, hg, ⟨gs, rfl, fun y hy => all y (List.mem_cons_of_mem _ hy)⟩, ?_, h2⟩
    rw [← h1]
    exact he

/-- While another entry than the last retires, the group stands. -/
theorem BurstGroup.retired {g : List InFlight} (hg : BurstGroup g) (x : Exposure) {e : InFlight}
    (he : oldestOpen g = some e) (hl : e.ordinal ≠ e.burst) : BurstGroup (retireOldest x g) := by
  obtain ⟨hm, hs⟩ := retire_shape x g
  have len := length_retireOldest x g
  refine ⟨by rw [hm, len]; exact hg.ordinals, ?_, ?_, ?_, ?_, ?_⟩
  · intro h
    exact hg.nonempty (List.length_eq_zero_iff.mp (by rw [← len, h]; rfl))
  · intro f hf
    obtain ⟨e', he', _, hb, _⟩ := hs f hf
    rw [hb, len, hg.burst e' he']
  · intro f hf f' hf'
    obtain ⟨a, ha, _, _, hp, _⟩ := hs f hf
    obtain ⟨a', ha', _, _, hp', _⟩ := hs f' hf'
    rw [hp, hp', hg.pass a ha a' ha']
  · intro f hf f' hf'
    obtain ⟨a, ha, _, _, _, hp, _⟩ := hs f hf
    obtain ⟨a', ha', _, _, _, hp', _⟩ := hs f' hf'
    rw [hp, hp', hg.marks a ha a' ha']
  · intro f hf hfl
    obtain ⟨a, ha, ho, hb, _, _, hr⟩ := hs f hf
    rcases hr with hr | hr
    · rw [hr]
      exact hg.lastOpen a ha (ho ▸ hb ▸ hfl)
    · rw [he] at hr
      cases hr
      exact absurd (ho ▸ hb ▸ hfl) hl

/-! ## The capacities at the operations that fill them -/

/-- A record joins a buffer that has room for it. -/
theorem bufferWithin_append {l : List Staged} (x : Staged) (h : bufferWithin l)
    (room : if x.record.isSample then l.length < Config.sampleRoom else l.length < Config.bufferRoom) :
    bufferWithin (l ++ [x]) := by
  obtain ⟨h1, h2⟩ := h
  have hr : Config.sampleRoom = 1016 := rfl
  have hq : Config.bufferRoom = 1024 := rfl
  rw [hr, hq] at room
  rw [hq] at h1
  rw [hr] at h2
  have le : (l.filter Staged.isSample).length ≤ l.length := List.length_filter_le _ _
  constructor
  · rw [hq]
    simp only [List.length_append, List.length_singleton]
    split at room <;> omega
  · rw [hr]
    simp only [List.filter_append, List.length_append]
    by_cases hx : x.record.isSample = true
    · rw [if_pos hx] at room
      have : ([x].filter Staged.isSample).length ≤ 1 := List.length_filter_le _ _
      omega
    · have : [x].filter Staged.isSample = [] := by simp [Staged.isSample, hx]
      rw [this]
      exact h2

/-- The oldest record leaves the buffer. -/
theorem bufferWithin_drop {l : List Staged} (n : Nat) (h : bufferWithin l) : bufferWithin (l.drop n) := by
  obtain ⟨h1, h2⟩ := h
  refine ⟨?_, ?_⟩
  · rw [List.length_drop]
    exact Nat.le_trans (Nat.sub_le _ _) h1
  · exact Nat.le_trans (((List.drop_sublist n l).filter _).length_le) h2

theorem bufferWithin_nil : bufferWithin [] := ⟨Nat.zero_le _, Nat.zero_le _⟩

/-- The list that a fate gives is within its capacity. -/
def CandidateFate.within : CandidateFate → Prop
  | .joined m | .created m => m.length ≤ Config.revisitRoom
  | .lost => True

/-- The two parts of a list, of the entries that meet a test and of the others, are as long as the list. -/
theorem length_filter_parts {α : Type} (p : α → Bool) (l : List α) :
    (l.filter p).length + (l.filter fun e => !p e).length = l.length := by
  induction l with
  | nil => rfl
  | cons e es ih => by_cases hp : p e = true <;> simp [hp] <;> omega

/-- The next list after a candidate is within its capacity. -/
theorem mergeCandidate_within (cpr : Nat) (z : ZoneTable) (k : Head) (zone point : Nat) (r : Reasons) (n : Nat)
    (l : List Entry) (h : l.length ≤ Config.revisitRoom) :
    (mergeCandidate cpr z k zone point r n l).within := by
  unfold mergeCandidate
  dsimp only
  split
  · simpa [CandidateFate.within] using h
  · split
    · simp only [CandidateFate.within, List.length_map]
      exact Nat.le_trans (List.length_filter_le _ _) h
    · simpa [CandidateFate.within] using h
    · simpa [CandidateFate.within] using h
    · split
      · rename_i room
        have := length_filter_parts (Entry.before cpr z k (windowOffset cpr z.start point)) l
        simp only [CandidateFate.within, List.length_append, List.length_cons]
        omega
      · trivial

theorem listSegment_within (n : Nat) (w : Writer) (h : segmentsWithin w) : segmentsWithin (listSegment n w) := by
  unfold listSegment
  split
  · exact h
  · split
    · rename_i room
      simp only [segmentsWithin, List.length_append, List.length_singleton]
      exact room
    · exact h

/-! ## Every operation -/

theorem setNotice_keeps (n : Notice) (hb : Keeps owed b s) : Keeps owed b (setNotice n s) := { hb with }

theorem clearNotices_keeps (m : BitVec 13) (hb : Keeps owed b s) : Keeps owed b (clearNotices m s) := { hb with }

theorem logBus_keeps (e : BusEvent) (hb : Keeps owed b s) : Keeps owed b (logBus e s) := by
  unfold logBus
  repeat' first
    | with_reducible assumption | with_reducible refine xeUpd_keeps _ rfl rfl rfl rfl ?_

theorem beginRead_keeps (kind : BusKind) (addr : Addr) (length : Nat) (hb : Keeps owed b s) :
    Keeps owed b (beginRead kind addr length s) := by
  unfold beginRead
  repeat' first
    | with_reducible assumption | with_reducible refine logBus_keeps _ ?_

theorem beginWrite_keeps (kind : BusKind) (writes : List HostWrite) (hb : Keeps owed b s) :
    Keeps owed b (beginWrite kind writes s) := by
  unfold beginWrite
  repeat' first
    | with_reducible assumption | with_reducible refine logBus_keeps _ ?_

theorem letGo_keeps (kinds : List BusKind) (hb : Keeps owed b s) : Keeps owed b (letGo kinds s) := by
  unfold letGo
  repeat' first
    | with_reducible assumption | with_reducible refine logBus_keeps _ ?_
    | with_reducible refine ite_keeps ?_ ?_ | split
    | with_reducible refine xeUpd_keeps _ rfl rfl rfl rfl ?_

theorem letGoOrder_keeps (hb : Keeps owed b s) : Keeps owed b (letGoOrder s) := by
  unfold letGoOrder
  repeat' first
    | exact .same rfl rfl rfl | exact .noTable rfl id nofun
    | exact .noTable rfl nofun nofun
    | with_reducible assumption | with_reducible refine letGo_keeps _ ?_
    | with_reducible refine oeUpd_keeps _ ?_ ?_

theorem beginGroup_keeps (group : List BusEvent) (hb : Keeps owed b s) : Keeps owed b (beginGroup group s) := by
  cases group
  · exact hb
  · exact { hb with writer := fun h => (hb.writer h).congr rfl rfl rfl }

theorem endGroup_keeps (k : BusKind) (hb : Keeps owed b s) : Keeps owed b (endGroup k s) :=
  { hb with writer := fun h => (hb.writer h).congr rfl rfl rfl }

theorem breakGroup_keeps (k : BusKind) (hb : Keeps owed b s) : Keeps owed b (breakGroup k s) :=
  chosen_keeps _ { hb with writer := fun h => (hb.writer h).rested rfl rfl rfl }

theorem letGoWriter_keeps (hb : Keeps owed b s) : Keeps owed b (letGoWriter s) := by
  unfold letGoWriter
  split
  · exact hb
  · exact letGo_keeps _ (breakGroup_keeps _ hb)

theorem endWake_keeps (h : Head) (hb : Keeps owed b s) : Keeps owed b (endWake h s) := { hb with }

theorem letGoCell_keeps (hb : Keeps owed b s) : Keeps owed b (letGoCell s) := by
  unfold letGoCell
  repeat' first
    | with_reducible assumption | with_reducible refine letGo_keeps _ ?_
    | with_reducible refine ite_keeps ?_ ?_ | split | with_reducible refine ucUpd_keeps _ ?_

theorem endStray_keeps (kind : BusKind) (hb : Keeps owed b s) : Keeps owed b (endStray kind s) := by
  unfold endStray
  repeat' first
    | with_reducible assumption | with_reducible refine logBus_keeps _ ?_
    | with_reducible refine xeUpd_keeps _ rfl rfl rfl rfl ?_

theorem beginPage_keeps (hb : Keeps owed b s) : Keeps owed b (beginPage s) := by
  unfold beginPage
  repeat' first
    | with_reducible assumption | with_reducible refine beginWrite_keeps _ _ ?_
    | with_reducible refine xeUpd_keeps _ rfl rfl rfl rfl ?_

theorem requestPage_keeps (hb : Keeps owed b s) : Keeps owed b (requestPage s) := by
  unfold requestPage
  repeat' first
    | with_reducible assumption | with_reducible refine beginPage_keeps ?_
    | with_reducible refine ite_keeps ?_ ?_ | split
    | with_reducible refine xeUpd_keeps _ rfl rfl rfl rfl ?_

theorem enterUnit_keeps (u : UnitState) (hb : Keeps owed b s) : Keeps owed b (enterUnit u s) := by
  unfold enterUnit
  repeat' first
    | with_reducible assumption | with_reducible refine requestPage_keeps ?_
    | with_reducible refine ucUpd_keeps _ ?_

theorem pulse_keeps (h : Head) (sig : MonSignal) (hb : Keeps owed b s) : Keeps owed b (pulse h sig s) := { hb with }

theorem readEntry_keeps (n left : Nat) (hp : WriterSound b.rw → s.rw.searching) (hb : Keeps owed b s) :
    Keeps owed b (readEntry n left s) :=
  beginGroup_keeps _
    { hb with writer := fun h => .inTake (hp h) ((hb.writer h).noneFilling (hp h)) (.inl rfl) }

theorem beginTake_keeps (hf : s.rw.filling = none) (hb : Keeps owed b s) : Keeps owed b (beginTake s) :=
  { hb with writer := fun _ => .inTake (.inl rfl) hf (.inl rfl) }

theorem beginRecheck_keeps (hp : WriterSound b.rw → s.rw.searching) (hb : Keeps owed b s) :
    Keeps owed b (beginRecheck s) :=
  readEntry_keeps _ _ hp { hb with writer := fun h => (hb.writer h).congr rfl rfl rfl }

/-- The failed take leaves the phase STARVED with nothing in progress. -/
theorem starved_keeps (hp : WriterSound b.rw → s.rw.searching) (hb : Keeps owed b s) :
    Keeps owed b { s with rw := { s.rw with phase := .starved, doing := .none } } :=
  { hb with
    writer := fun h => .inTake (.inr rfl) ((hb.writer h).noneFilling (hp h)) (.inr (.inr (.inr rfl))) }

theorem takeFailed_keeps (hp : WriterSound b.rw → s.rw.searching) (hb : Keeps owed b s) : Keeps owed b (takeFailed s) := by
  have noted : Keeps owed b (if s.rw.phase = .starved then s else setNotice .segStarved s) :=
    ite_keeps hb (setNotice_keeps _ hb)
  have same : (if s.rw.phase = .starved then s else setNotice .segStarved s).rw = s.rw := by
    split <;> rfl
  have stood := starved_keeps (fun h => by rw [same]; exact hp h) noted
  unfold takeFailed
  exact ite_keeps (beginRecheck_keeps (fun _ => .inr rfl) stood) stood

theorem nextEntry_keeps (hp : WriterSound b.rw → s.rw.searching) (hb : Keeps owed b s) : Keeps owed b (nextEntry s) :=
  ite_keeps (takeFailed_keeps hp hb) (readEntry_keeps _ _ hp hb)

theorem starvedRecheck_keeps (hb : Keeps owed b s) : Keeps owed b (starvedRecheck s) := by
  unfold starvedRecheck
  split
  · rename_i hp
    exact ite_keeps (beginRecheck_keeps (fun _ => .inr hp) hb)
      (rwUpd_keeps _ id (fun h => h.congr rfl rfl rfl) hb)
  · exact rwUpd_keeps _ id (fun h => h.congr rfl rfl rfl) hb
  all_goals exact hb

theorem beginClose_keeps (reason : CloseReason) (g : Segment) (hr : reason ≠ .fault)
    (hf : s.rw.filling ≠ none) (hb : Keeps owed b s) : Keeps owed b (beginClose reason g s) := by
  refine beginGroup_keeps _ { hb with writer := fun _ => ⟨fun h => ?_, ?_⟩ }
  · rcases h with h | h <;> cases h
  · cases reason
    case fault => exact absurd rfl hr
    all_goals exact ⟨rfl, hf⟩

theorem beginRecord_keeps (r : Record) (g : Segment) (hf : s.rw.filling ≠ none) (hb : Keeps owed b s) :
    Keeps owed b (beginRecord r g s) := by
  refine beginGroup_keeps _ { hb with writer := fun _ => ⟨fun h => ?_, rfl, hf⟩ }
  rcases h with h | h <;> cases h

theorem writerNext_keeps (hb : Keeps owed b s) : Keeps owed b (writerNext s) := by
  unfold writerNext
  split
  · exact rwUpd_keeps _ id (fun _ => .still (by rintro (h | h) <;> cases h) rfl) hb
  · split
    · rename_i hf
      exact beginTake_keeps hf hb
    · rename_i hf
      have hf : s.rw.filling ≠ none := by rw [hf]; exact Option.some_ne_none _
      exact ite_keeps (beginRecord_keeps _ _ hf hb) (beginClose_keeps _ _ (by decide) hf hb)

theorem wakeWriter_keeps (hb : Keeps owed b s) : Keeps owed b (wakeWriter s) := by
  unfold wakeWriter
  repeat' first
    | with_reducible assumption | with_reducible refine writerNext_keeps ?_
    | with_reducible refine ite_keeps ?_ ?_

/-- A record that joins the buffer: the bound on the buffer it grows to is the caller's. -/
theorem joinRecord_keeps (r : Record)
    (hx : bufferWithin s.sb.staged → bufferWithin (s.sb.staged ++ [⟨r, s.oe.activeTag⟩])) (hb : Keeps owed b s) :
    Keeps owed b (joinRecord r s) := by
  unfold joinRecord
  refine wakeWriter_keeps ?_
  have joined : Keeps owed b { s with sb := s.sb.append r s.oe.activeTag } := sbUpd_keeps _ hx hb
  split
  · exact setNotice_keeps _ joined
  · exact joined

theorem takeRecord_keeps (r : Record) (hb : Keeps owed b s) : Keeps owed b (takeRecord r s) := by
  unfold takeRecord
  split
  · rename_i room
    refine joinRecord_keeps r (fun h => bufferWithin_append _ h ?_) hb
    unfold State.hasRoom at room
    dsimp only
    split at room <;> simp_all
  · exact hb

/-- The writer's waking leaves the buffer as it is. -/
theorem wakeWriter_staged (s : State) : (wakeWriter s).sb = s.sb := by
  unfold wakeWriter writerNext
  repeat' first | rfl | split

/-- A record that joins the buffer stands at its end. -/
theorem joinRecord_staged (r : Record) (s : State) :
    (joinRecord r s).sb.staged = s.sb.staged ++ [⟨r, s.oe.activeTag⟩] := by
  unfold joinRecord
  rw [wakeWriter_staged]
  split <;> rfl

theorem removeOldest_keeps (hb : Keeps owed b s) : Keeps owed b (removeOldest s) :=
  sbUpd_keeps _ (bufferWithin_drop 1) hb

/-- A fate whose lists are within their capacity. -/
theorem applyFate_keeps (f : CandidateFate)
    (hf : listsWithin s.ru → f.within) (hb : Keeps owed b s) : Keeps owed b (applyFate f s) := by
  unfold applyFate
  split
  · exact ruUpd_keeps _ (fun h => ⟨h.1, hf h⟩) hb
  · exact onCounts_keeps _ rfl rfl (ruUpd_keeps _ (fun h => ⟨h.1, hf h⟩) hb)
  · exact setNotice_keeps _ (onCounts_keeps _ rfl rfl hb)

theorem candidate_keeps (h : Head) (zone point : Nat) (reasons : Reasons) (hb : Keeps owed b s) :
    Keeps owed b (candidate h zone point reasons s) := by
  unfold candidate
  split
  · exact hb
  · exact hb
  · exact applyFate_keeps _ (fun w => mergeCandidate_within _ _ _ _ _ _ _ _ w.2) hb

theorem candidates_keeps (h : Head) (reasons : Reasons) (l : List (Nat × Nat)) (hb : Keeps owed b s) :
    Keeps owed b (candidates h reasons l s) := by
  induction l generalizing s with
  | nil => exact hb
  | cons x xs ih => exact ih (candidate_keeps _ _ _ _ hb)

theorem resolution_keeps (hb : Keeps owed b s) : Keeps owed b (resolution s) := by
  unfold resolution
  repeat' first
    | exact rfl
    | with_reducible assumption | with_reducible refine onCounts_keeps _ ?_ ?_ ?_

theorem emptyLists_keeps (phase : ListPhase) (hb : Keeps owed b s) : Keeps owed b (emptyLists phase s) :=
  ruUpd_keeps _ (fun _ => ⟨Nat.zero_le _, Nat.zero_le _⟩) hb

theorem listsAcquiring_keeps (hb : Keeps owed b s) : Keeps owed b (listsAcquiring s) :=
  ruUpd_keeps _ (fun _ => ⟨Nat.zero_le _, Nat.zero_le _⟩) hb

theorem unawait_keeps (h : Head) (hb : Keeps owed b s) : Keeps owed b (unawait h s) := by
  unfold unawait
  repeat' first
    | with_reducible assumption | exact id | with_reducible refine ruUpd_keeps _ ?_ ?_

theorem dropPoint_keeps (h : Head) (point : Nat) (pass : PassId) (step : Nat) (hb : Keeps owed b s) :
    Keeps owed b (dropPoint h point pass step s) := by
  unfold dropPoint
  repeat' first
    | with_reducible assumption | exact rfl
    | with_reducible refine onPort_keeps _ _ ?_ ?_

theorem takeGap_keeps (h : Head) (g : PendingGap) (hb : Keeps owed b s) : Keeps owed b (takeGap h g s) := by
  unfold takeGap
  repeat' first
    | with_reducible assumption | exact rfl
    | with_reducible refine takeRecord_keeps _ ?_ | with_reducible refine onPort_keeps _ _ ?_ ?_

theorem offerGap_keeps (h : Head) (hb : Keeps owed b s) : Keeps owed b (offerGap h s) := by
  unfold offerGap
  repeat' first
    | with_reducible assumption | exact rfl | with_reducible refine takeGap_keeps _ _ ?_
    | with_reducible refine onPort_keeps _ _ ?_ ?_ | with_reducible refine ite_keeps ?_ ?_ | split

theorem offerPortRecord_keeps (h : Head) (r : GapRecord) (hb : Keeps owed b s) :
    Keeps owed b (offerPortRecord h r s) := by
  unfold offerPortRecord
  repeat' first
    | with_reducible assumption | exact rfl | (exact hold_flight _ _)
    | with_reducible refine takeRecord_keeps _ ?_ | with_reducible refine onPort_keeps _ _ ?_ ?_
    | with_reducible refine ite_keeps ?_ ?_

theorem grantPort_keeps (h : Head) (hb : Keeps owed b s) : Keeps owed b (grantPort h s) := by
  unfold grantPort
  dsimp only
  repeat' first
    | with_reducible assumption | exact rfl | with_reducible refine takeGap_keeps _ _ ?_
    | with_reducible refine takeRecord_keeps _ ?_ | with_reducible refine onPort_keeps _ _ ?_ ?_
    | with_reducible refine ite_keeps ?_ ?_ | split

theorem countAbandoned_keeps (n : Nat) (hb : Keeps (owed + n) b s) : Keeps owed b (countAbandoned n s) := by
  unfold countAbandoned
  split
  · exact onCounts_owed _ (by simp only [Counts.ended]; omega) hb
  · rename_i h
    exact Keeps.inactive (Option.not_isSome_iff_eq_none.mp h) hb

theorem abandonScan_keeps (h : Head) (hb : Keeps owed b s) : Keeps owed b (abandonScan h s) := by
  refine countAbandoned_keeps _ (onPort_list h _ ?_ (fun _ g => ?_) (fun _ _ => ?_) hb)
  · simp only [Port.marked, List.length_map]
    exact Nat.le_max_left _ _
  · exact g.marked fun e f hp ha => by unfold InFlight.openScan; rw [hp, ha]
  · have none : openGroups ((s.ports.get h).marked InFlight.openScan).inFlight = 0 :=
      openGroups_closed fun e he => by
        obtain ⟨f, _, rfl⟩ := List.mem_map.mp he
        split
        · rfl
        · rename_i hf
          exact Bool.not_eq_true _ ▸ hf
    rw [none]
    unfold openGroups
    omega

theorem disarmScanOnly_keeps (h : Head) (hb : Keeps owed b s) : Keeps owed b (disarmScanOnly h s) := by
  unfold disarmScanOnly
  repeat' first
    | exact id
    | with_reducible assumption | with_reducible refine onPasses_keeps _ _ ?_ ?_

theorem disarmScan_keeps (h : Head) (hb : Keeps owed b s) : Keeps owed b (disarmScan h s) := by
  unfold disarmScan
  repeat' first
    | with_reducible assumption | with_reducible refine disarmScanOnly_keeps _ ?_
    | with_reducible refine offerGap_keeps _ ?_

theorem disarmRef_keeps (h : Head) (hb : Keeps owed b s) : Keeps owed b (disarmRef h s) := by
  refine onPort_list h _ ?_ (fun _ g => ?_) (fun _ _ => ?_) (onRef_keeps _ _ rfl hb)
  · simp only [Port.marked, List.length_map]
    exact Nat.le_max_left _ _
  · exact g.marked fun e f hp _ => by rw [hp]
  · unfold Port.marked
    rw [openGroups_marked]
    intro e he
    simp_all [InFlight.openScan]

theorem offerGaps_keeps (hb : Keeps owed b s) : Keeps owed b (offerGaps s) := by
  unfold offerGaps
  repeat' first
    | with_reducible assumption | with_reducible refine offerGap_keeps _ ?_
    | with_reducible refine forFree_keeps (fun _ _ _ => ?_) _ ?_

theorem disarmScans_keeps (hb : Keeps owed b s) : Keeps owed b (disarmScans s) := by
  unfold disarmScans
  repeat' first
    | with_reducible assumption | with_reducible refine offerGaps_keeps ?_
    | with_reducible refine disarmScanOnly_keeps _ ?_
    | with_reducible refine forHeads_keeps (fun _ _ _ => ?_) ?_

theorem endPassage_keeps (h : Head) (hb : Keeps owed b s) : Keeps owed b (endPassage h s) := by
  unfold endPassage
  repeat' first
    | with_reducible assumption | with_reducible refine disarmRef_keeps _ ?_
    | with_reducible refine onHeadRef_keeps _ _ ?_ | with_reducible refine ite_keeps ?_ ?_

theorem groupsRemoved_keeps (h : Head) (gs : List InFlight) (hb : Keeps owed b s) :
    Keeps owed b (groupsRemoved h gs s) := by
  unfold groupsRemoved
  repeat' first
    | with_reducible assumption | with_reducible refine offerGap_keeps _ ?_
    | with_reducible refine ite_keeps ?_ ?_

theorem leaveReady_keeps (h : Head) (toFault : Bool) (hb : Keeps owed b s) :
    Keeps owed b (leaveReady h toFault s) := by
  have left : Keeps owed b (countAbandoned (groupsOf ((s.ports.get h).inFlight.filter InFlight.openScan)).length
      (s.onPort h fun p => { p with inFlight := [] })) := by
    refine countAbandoned_keeps _ (onPort_list h _ (Nat.zero_le _) (fun _ _ => .nil) (fun _ _ => ?_) hb)
    unfold openGroups
    simp only [List.filter_nil, groupsOf, List.length_nil]
    omega
  exact endPassage_keeps _ (groupsRemoved_keeps _ _ (ite_keeps (candidates_keeps _ _ _ left) left))

theorem forceOff_keeps (h : Head) (hb : Keeps owed b s) : Keeps owed b (forceOff h s) := by
  unfold forceOff
  dsimp only
  repeat' first
    | with_reducible refine endWake_keeps _ ?_
    | with_reducible assumption | exact rfl
    | with_reducible refine leaveReady_keeps _ _ ?_ | with_reducible refine onPort_keeps _ _ ?_ ?_
    | split

theorem wakeHead_keeps (h : Head) (hb : Keeps owed b s) : Keeps owed b (wakeHead h s) := by
  unfold wakeHead
  repeat' first
    | with_reducible assumption | exact rfl | (exact sendWake_flight _ _)
    | with_reducible refine leaveReady_keeps _ _ ?_ | with_reducible refine onPort_keeps _ _ ?_ ?_
    | with_reducible refine ite_keeps ?_ ?_ | split

theorem wakePended_keeps (h : Head) (hb : Keeps owed b s) : Keeps owed b (wakePended h s) := by
  unfold wakePended
  repeat' first
    | with_reducible assumption | exact rfl | (exact sendWake_flight _ _)
    | with_reducible refine onPort_keeps _ _ ?_ ?_ | with_reducible refine ite_keeps ?_ ?_

theorem armScan_keeps (pass : PassId) (passes : Nat) (h : Head) (hp : pass.kind ≠ .reference)
    (hb : Keeps owed b s) : Keeps owed b (armScan pass passes h s) :=
  onPasses_keeps _ _ (fun k => ⟨hp, k.2⟩) hb

theorem armNormal_keeps (h : Head) (hb : Keeps owed b s) : Keeps owed b (armNormal h s) :=
  armScan_keeps _ _ _ (by decide) hb

theorem armRevisit_keeps (round : Nat) (h : Head) (hb : Keeps owed b s) : Keeps owed b (armRevisit round h s) :=
  armScan_keeps _ _ _ (by intro e; cases e) hb

theorem armReference_keeps (h : Head) (hb : Keeps owed b s) : Keeps owed b (armReference h s) := by
  unfold armReference
  repeat' first
    | with_reducible assumption | exact fun k => ⟨k.1, rfl⟩ | with_reducible refine onPasses_keeps _ _ ?_ ?_
    | split

theorem handWithheld_keeps (h : Head) (reason : GapReason) (reasons : Reasons) (pass : PassId) (ps : List (Nat × Nat)) (hb : Keeps owed b s) :
    Keeps owed b (handWithheld h reason reasons pass ps s) := by
  unfold handWithheld
  dsimp only
  repeat' first
    | with_reducible assumption | with_reducible refine offerPortRecord_keeps _ _ ?_
    | with_reducible refine offerGap_keeps _ ?_ | with_reducible refine candidates_keeps _ _ _ ?_
    | split

theorem suspendScan_keeps (h : Head) (hb : Keeps owed b s) : Keeps owed b (suspendScan h s) := by
  unfold suspendScan
  repeat' first
    | exact rfl
    | with_reducible assumption | with_reducible refine handWithheld_keeps _ _ _ _ _ ?_
    | with_reducible refine onScan_keeps _ _ ?_ ?_ | split

theorem excludeScan_keeps (h : Head) (hb : Keeps owed b s) : Keeps owed b (excludeScan h s) := by
  unfold excludeScan
  repeat' first
    | with_reducible assumption | with_reducible refine handWithheld_keeps _ _ _ _ _ ?_
    | with_reducible refine disarmScan_keeps _ ?_ | split

theorem zoneEntry_keeps (h : Head) (left : Option ExpClass) (new : ExpClass) (hb : Keeps owed b s) :
    Keeps owed b (zoneEntry h left new s) := by
  unfold zoneEntry
  dsimp only
  repeat' first
    | with_reducible assumption | with_reducible refine onQual_keeps _ _ ?_

theorem enterZone_keeps (t : ZoneTable) (h : Head) (k : Nat) (hb : Keeps owed b s) :
    Keeps owed b (enterZone t h k s) := by
  unfold enterZone
  dsimp only
  repeat' first
    | exact rfl
    | with_reducible assumption | with_reducible refine zoneEntry_keeps _ _ _ ?_
    | with_reducible refine onScan_keeps _ _ ?_ ?_ | with_reducible refine ite_keeps ?_ ?_ | split

theorem scanPointDue_keeps (h : Head) (zone : Nat) (r : Request) (hr : FlightsSound b → r.burst ≠ 0)
    (hp : FlightsSound b → r.pass.kind ≠ .reference) (hb : Keeps owed b s) :
    Keeps owed b (scanPointDue h zone r s) := by
  unfold scanPointDue
  split
  · rename_i room
    have counted : Keeps (owed + 1) b (s.onCounts fun c => { c with issued := c.issued + 1 }) :=
      onCounts_owed _ (by simp only [Counts.ended]; omega) hb
    refine pulse_keeps _ _ (onPort_list (s := s.onCounts fun c => { c with issued := c.issued + 1 }) h
      (fun p => p.issue r s.xe.time) (issue_flight _ _ _ room) (fun w g => g.issued (issue_group _ r _ (hr w))) (fun w _ => ?_) counted)
    rw [openGroups_issue _ _ _ (hr w), if_neg (hp w)]
    omega
  · dsimp only
    split
    · exact candidate_keeps _ _ _ _ (onCounts_keeps _ rfl rfl hb)
    · exact onCounts_keeps _ rfl rfl hb

theorem refPointDue_keeps (h : Head) (r : Request) (hr : r.burst ≠ 0)
    (hp : FlightsSound b → r.pass.kind = .reference) (hb : Keeps owed b s) : Keeps owed b (refPointDue h r s) := by
  unfold refPointDue
  split
  · rename_i room
    refine pulse_keeps _ _ (onPasses_keeps _ _ id (onPort_list h _ (issue_flight _ _ _ room)
      (fun _ g => g.issued (issue_group _ r _ hr)) (fun w _ => ?_) hb))
    rw [openGroups_issue _ _ _ hr, if_pos (hp w)]
    omega
  · exact onPasses_keeps _ _ id hb

theorem startScan_keeps (t : ZoneTable) (h : Head) (hb : Keeps owed b s) : Keeps owed b (startScan t h s) := by
  unfold startScan
  dsimp only
  repeat' first
    | exact rfl
    | with_reducible assumption | with_reducible refine onScan_keeps _ _ ?_ ?_

theorem actInScan_keeps (t : ZoneTable) (h : Head) (position : Nat) (rev : Rev)
    (hz : FlightsSound b → ∀ x ∈ t.zones, x.burst ≠ 0) (hb : Keeps owed b s) :
    Keeps owed b (actInScan t h position rev s) := by
  unfold actInScan
  dsimp only
  split
  all_goals
    refine ite_keeps ?_ ?_
    · split
      · exact onScan_keeps _ _ rfl (by first | exact hb | exact enterZone_keeps _ _ _ hb)
      · split
        · exact onScan_keeps _ _ rfl (by first | exact hb | exact enterZone_keeps _ _ _ hb)
        · rename_i hk
          refine scanPointDue_keeps _ _ _ (fun w => hz w _ (List.mem_of_getElem? hk)) (fun w => ?_)
            (onScan_keeps _ _ rfl (by first | exact hb | exact enterZone_keeps _ _ _ hb))
          first
            | exact (hb.kinds w h).1
            | exact ((enterZone_keeps (b := b) (owed := owed) _ _ _ hb).kinds w h).1
    · first | exact hb | exact enterZone_keeps _ _ _ hb

theorem endScan_keeps (t : ZoneTable) (h : Head) (rev : Rev)
    (hz : FlightsSound b → ∀ x ∈ t.zones, x.burst ≠ 0) (hb : Keeps owed b s) :
    Keeps owed b (endScan t h rev s) := by
  unfold endScan
  dsimp only
  repeat' first
    | exact rfl | exact hz
    | with_reducible assumption | with_reducible refine actInScan_keeps _ _ _ _ ?_ ?_
    | with_reducible refine startScan_keeps _ _ ?_ | with_reducible refine offerGap_keeps _ ?_
    | with_reducible refine onScan_keeps _ _ ?_ ?_ | with_reducible refine ite_keeps ?_ ?_

theorem scanForward_keeps (t : ZoneTable) (h : Head) (offset : Nat) (rev : Rev)
    (hz : FlightsSound b → ∀ x ∈ t.zones, x.burst ≠ 0) (hb : Keeps owed b s) :
    Keeps owed b (scanForward t h offset rev s) := by
  unfold scanForward
  dsimp only
  repeat' first
    | exact rfl | exact hz
    | with_reducible assumption | with_reducible refine endScan_keeps _ _ _ ?_ ?_
    | with_reducible refine actInScan_keeps _ _ _ _ ?_ ?_ | with_reducible refine startScan_keeps _ _ ?_
    | with_reducible refine onScan_keeps _ _ ?_ ?_ | with_reducible refine ite_keeps ?_ ?_ | split

theorem actInRef_keeps (c : RefConfig) (h : Head) (position : Nat) (rev : Rev) (hb : Keeps owed b s) :
    Keeps owed b (actInRef c h position rev s) :=
  ite_keeps (refPointDue_keeps _ _ nofun (fun w => (hb.kinds w h).2) (onRef_keeps _ _ rfl hb)) hb

theorem startRef_keeps (c : RefConfig) (h : Head) (hb : Keeps owed b s) : Keeps owed b (startRef c h s) := by
  unfold startRef
  dsimp only
  repeat' first
    | exact rfl
    | with_reducible assumption | with_reducible refine onRef_keeps _ _ ?_ ?_

theorem endRef_keeps (h : Head) (hb : Keeps owed b s) : Keeps owed b (endRef h s) := by
  unfold endRef
  dsimp only
  repeat' first
    | exact rfl
    | with_reducible assumption | with_reducible refine onHeadRef_keeps _ _ ?_
    | with_reducible refine onRef_keeps _ _ ?_ ?_

theorem refForward_keeps (c : RefConfig) (h : Head) (offset : Nat) (rev : Rev) (hb : Keeps owed b s) :
    Keeps owed b (refForward c h offset rev s) := by
  unfold refForward
  dsimp only
  repeat' first
    | exact rfl
    | with_reducible assumption | with_reducible refine endRef_keeps _ ?_
    | with_reducible refine startRef_keeps _ _ ?_ | with_reducible refine actInRef_keeps _ _ _ _ ?_
    | with_reducible refine onRef_keeps _ _ ?_ ?_ | with_reducible refine ite_keeps ?_ ?_ | split

theorem headForward_keeps (blade : Nat) (rev : Rev) (h : Head) (hb : Keeps owed b s) :
    Keeps owed b (headForward blade rev h s) := by
  unfold headForward
  dsimp only
  have scanned : Keeps owed b (match s.tg.zones with
      | some t => scanForward t h (windowOffset s.cpr t.start (seenAngle s.cpr (s.mount h) blade)) rev s
      | none => s) := by
    split
    · rename_i hz
      exact scanForward_keeps _ _ _ _ (fun w => hb.zones w _ hz) hb
    · exact hb
  split
  · exact refForward_keeps _ _ _ _ scanned
  · exact scanned

theorem backward_kind (r : PassRecord) : r.backward.pass.kind = r.pass.kind := by
  unfold PassRecord.backward
  split <;> rfl

theorem angleArrival_keeps (forward : Bool) (blade : Nat) (rev : Rev) (hb : Keeps owed b s) :
    Keeps owed b (angleArrival forward blade rev s) := by
  unfold angleArrival
  repeat' first
    | exact fun k => ⟨(backward_kind _).symm ▸ k.1, (backward_kind _).trans k.2⟩
    | with_reducible assumption | with_reducible refine headForward_keeps _ _ _ ?_
    | with_reducible refine forHeadsFree_keeps _ (fun _ _ _ => ?_) ?_
    | with_reducible refine forHeads_keeps (fun _ _ _ => ?_) ?_
    | with_reducible refine onPasses_keeps _ _ ?_ ?_ | with_reducible refine ite_keeps ?_ ?_

theorem outcomeCandidate_keeps (h : Head) (e : InFlight) (reasons : Reasons) (hb : Keeps owed b s) :
    Keeps owed b (outcomeCandidate h e reasons s) := by
  unfold outcomeCandidate
  repeat' first
    | with_reducible assumption | with_reducible refine candidate_keeps _ _ _ _ ?_
    | with_reducible refine ite_keeps ?_ ?_

/-- A pending gap offered adds one GAP record to the buffer, or none. -/
theorem offerGap_staged (h : Head) (s : State) :
    (offerGap h s).sb.staged = s.sb.staged
      ∨ ∃ g tag, (offerGap h s).sb.staged = s.sb.staged ++ [⟨.gap g, tag⟩] := by
  unfold offerGap takeGap takeRecord
  repeat' first
    | exact Or.inl rfl
    | exact Or.inr ⟨_, _, joinRecord_staged _ _⟩
    | split

theorem stageSample_keeps (h : Head) (r : SampleRecord) (hb : Keeps owed b s) : Keeps owed b (stageSample h r s) := by
  unfold stageSample
  split
  · rename_i room
    have few : s.sb.staged.length < Config.sampleRoom := by simpa [State.hasRoom, Record.isSample] using room
    refine joinRecord_keeps _ (fun _ => ?_) (offerGap_keeps _ hb)
    have all : (s.sb.staged.filter Staged.isSample).length ≤ s.sb.staged.length := List.length_filter_le _ _
    rcases offerGap_staged h s with e | ⟨g, tag, e⟩ <;> rw [e] <;> unfold bufferWithin <;>
      simp only [List.filter_append, List.length_append, List.filter_cons, List.filter_nil, Staged.isSample,
        Record.isSample, Config.sampleRoom, Config.bufferRoom, if_true, List.length_cons, List.length_nil,
        Bool.false_eq_true, if_false] at * <;> omega
  · exact hb

theorem dropSample_keeps (h : Head) (e : InFlight) (bad : Bool) (hb : Keeps (owed + 1) b s) :
    Keeps owed b (dropSample h e bad s) :=
  outcomeCandidate_keeps _ _ _ (dropPoint_keeps _ _ _ _
    (onCounts_owed _ (by simp only [Counts.ended]; omega) (setNotice_keeps _ (sbUpd_keeps _ id hb))))

theorem countRejected_keeps (h : Head) (e : InFlight) (hb : Keeps (owed + 1) b s) :
    Keeps owed b (countRejected h e s) :=
  outcomeCandidate_keeps _ _ _ (onCounts_owed _ (by simp only [Counts.ended]; omega) hb)

theorem countAccepted_keeps (e : InFlight) (hb : Keeps (owed + 1) b s) : Keeps owed b (countAccepted e s) := by
  have counted : Keeps owed b (s.onCounts fun c => { c with accepted := c.accepted + 1 }) :=
    onCounts_owed _ (by simp only [Counts.ended]; omega) hb
  exact ite_keeps (resolution_keeps counted) counted

theorem accountOutcome_keeps (h : Head) (e : InFlight) (x : Exposure) (cause : RejectCause)
    (hb : Keeps (owed + 1) b s) : Keeps owed b (accountOutcome h e x cause s) := by
  unfold accountOutcome
  split
  · rename_i none
    exact Keeps.inactive none hb
  · dsimp only
    exact ite_keeps (ite_keeps (countAccepted_keeps _ (stageSample_keeps _ _ hb)) (dropSample_keeps _ _ _ hb))
      (ite_keeps (ite_keeps (countRejected_keeps _ _ (stageSample_keeps _ _ hb)) (dropSample_keeps _ _ _ hb))
        (countRejected_keeps _ _ hb))

theorem referenceOutcome_keeps (h : Head) (good : Bool) (value : Int) (hb : Keeps owed b s) :
    Keeps owed b (referenceOutcome h good value s) := by
  unfold referenceOutcome
  repeat' first
    | with_reducible assumption | with_reducible refine onHeadRef_keeps _ _ ?_

/-- An outcome of a scan pass is counted: a reference outcome is not. -/
theorem qualify_keeps (h : Head) (e : InFlight) (xs : List Exposure)
    (hb : Keeps (owed + if e.pass.kind = .reference then 0 else 1) b s) : Keeps owed b (qualify h e xs s) := by
  unfold qualify
  dsimp only
  split
  · rename_i hp
    rw [if_pos hp] at hb
    exact referenceOutcome_keeps _ _ _ (pulse_keeps _ _ hb)
  · rename_i hp
    rw [if_neg hp] at hb
    exact accountOutcome_keeps _ _ _ _ (onQual_keeps _ _ (pulse_keeps _ _ hb))

theorem clearCounters_keeps (hb : Keeps owed b s) : Keeps owed b (clearCounters s) := by
  unfold clearCounters
  repeat' first
    | with_reducible assumption | with_reducible refine forHeads_keeps (fun _ _ _ => ?_) ?_
    | with_reducible refine onQual_keeps _ _ ?_ | with_reducible refine ite_keeps ?_ ?_

theorem setSettle_keeps (x : SettleState) (hb : Keeps owed b s) : Keeps owed b (setSettle x s) := by
  unfold setSettle
  repeat' first
    | with_reducible assumption | with_reducible refine quUpd_keeps _ ?_

theorem enterEngine_keeps (e : EngineState) (hb : Keeps owed b s) : Keeps owed b (enterEngine e s) := by
  unfold enterEngine
  repeat' first
    | exact .same rfl rfl rfl | exact .noTable rfl id nofun
    | exact .noTable rfl nofun nofun
    | with_reducible assumption | with_reducible refine onOrder_keeps _ ?_ ?_

theorem holdMarker_keeps (r : Record) (hb : Keeps owed b s) : Keeps owed b (holdMarker r s) := by
  unfold holdMarker
  repeat' first
    | exact .same rfl rfl rfl | exact .noTable rfl id nofun
    | exact .noTable rfl nofun nofun
    | with_reducible assumption | with_reducible refine onOrder_keeps _ ?_ ?_

theorem openClosing_keeps (hb : Keeps owed b s) : Keeps owed b (openClosing s) := by
  unfold openClosing
  repeat' first
    | exact .same rfl rfl rfl | exact .noTable rfl id nofun
    | exact .noTable rfl nofun nofun
    | with_reducible assumption | with_reducible refine holdMarker_keeps _ ?_
    | with_reducible refine onOrder_keeps _ ?_ ?_ | with_reducible refine takeRecord_keeps _ ?_
    | with_reducible refine ite_keeps ?_ ?_ | split

theorem closePassage_keeps (h : Head) (hb : Keeps owed b s) : Keeps owed b (closePassage h s) := by
  unfold closePassage
  repeat' first
    | with_reducible assumption | with_reducible refine endPassage_keeps _ ?_
    | with_reducible refine disarmRef_keeps _ ?_

theorem referenceOff_keeps (hb : Keeps owed b s) : Keeps owed b (referenceOff s) := by
  unfold referenceOff
  repeat' first
    | with_reducible assumption | with_reducible refine rcUpd_keeps _ ?_

theorem enterClosing_keeps (slot : EndSlot) (hb : Keeps owed b s) : Keeps owed b (enterClosing slot s) := by
  unfold enterClosing
  dsimp only
  repeat' first
    | exact .same rfl rfl rfl | exact .noTable rfl id nofun
    | exact .noTable rfl nofun nofun
    | with_reducible assumption | with_reducible refine referenceOff_keeps ?_
    | with_reducible refine closePassage_keeps _ ?_ | with_reducible refine openClosing_keeps ?_
    | with_reducible refine onOrder_keeps _ ?_ ?_ | with_reducible refine onSpan_keeps _ ?_
    | with_reducible refine disarmScans_keeps ?_
    | with_reducible refine forHeads_keeps (fun _ _ _ => ?_) ?_

theorem endCondition_keeps (slot : EndSlot) (hb : Keeps owed b s) : Keeps owed b (endCondition slot s) := by
  unfold endCondition
  repeat' first
    | with_reducible assumption | with_reducible refine enterClosing_keeps _ ?_
    | with_reducible refine emptyLists_keeps _ ?_ | with_reducible refine ite_keeps ?_ ?_

theorem abortPorts_keeps (hb : Keeps owed b s) : Keeps owed b (abortPorts s) := by
  unfold abortPorts
  repeat' first
    | with_reducible assumption | with_reducible refine offerGaps_keeps ?_
    | with_reducible refine abandonScan_keeps _ ?_
    | with_reducible refine forHeads_keeps (fun _ _ _ => ?_) ?_

theorem offerOrderEnd_keeps (hb : Keeps owed b s) : Keeps owed b (offerOrderEnd s) := by
  unfold offerOrderEnd
  repeat' first
    | exact .same rfl rfl rfl | exact .noTable rfl id nofun
    | exact .noTable rfl nofun nofun
    | with_reducible assumption | with_reducible refine holdMarker_keeps _ ?_
    | with_reducible refine onOrder_keeps _ ?_ ?_ | with_reducible refine takeRecord_keeps _ ?_
    | with_reducible refine ite_keeps ?_ ?_

theorem completeDrain_keeps (hb : Keeps owed b s) : Keeps owed b (completeDrain s) := by
  unfold completeDrain
  repeat' first
    | exact .same rfl rfl rfl | exact .noTable rfl id nofun
    | exact .noTable rfl nofun nofun
    | with_reducible assumption | with_reducible refine offerOrderEnd_keeps ?_
    | with_reducible refine onOrder_keeps _ ?_ ?_ | with_reducible refine offerGaps_keeps ?_

theorem settleDrain_keeps (hb : Keeps owed b s) : Keeps owed b (settleDrain s) := by
  unfold settleDrain
  repeat' first
    | with_reducible assumption | with_reducible refine completeDrain_keeps ?_
    | with_reducible refine ite_keeps ?_ ?_

theorem beginCompletion_keeps (hb : Keeps owed b s) : Keeps owed b (beginCompletion s) := by
  unfold beginCompletion
  repeat' first
    | exact .same rfl rfl rfl | exact .noTable rfl id nofun
    | exact .noTable rfl nofun nofun
    | with_reducible assumption | with_reducible refine onOrder_keeps _ ?_ ?_
    | with_reducible refine beginWrite_keeps _ _ ?_

theorem endRecords_keeps (hb : Keeps owed b s) : Keeps owed b (endRecords s) := by
  unfold endRecords
  repeat' first
    | exact .same rfl rfl rfl | exact .noTable rfl id nofun
    | exact .noTable rfl nofun nofun
    | with_reducible assumption | with_reducible refine beginCompletion_keeps ?_
    | with_reducible refine onOrder_keeps _ ?_ ?_ | with_reducible refine writerNext_keeps ?_
    | with_reducible refine beginClose_keeps _ _ (by decide) (by simp_all) ?_ | split

theorem enterStepMove_keeps (hb : Keeps owed b s) : Keeps owed b (enterStepMove s) := by
  unfold enterStepMove
  repeat' first
    | exact .same rfl rfl rfl | exact .noTable rfl id nofun
    | exact .noTable rfl nofun nofun
    | with_reducible assumption | with_reducible refine onOrder_keeps _ ?_ ?_
    | with_reducible refine onSpan_keeps _ ?_

theorem enterLightWait_keeps (interrupting : Bool) (hb : Keeps owed b s) :
    Keeps owed b (enterLightWait interrupting s) := by
  unfold enterLightWait
  repeat' first
    | exact .same rfl rfl rfl | exact .noTable rfl id nofun
    | exact .noTable rfl nofun nofun
    | with_reducible refine disarmScans_keeps ?_
    | with_reducible assumption | with_reducible refine onOrder_keeps _ ?_ ?_

theorem forWorking_keeps {f : Head → State → State} (hf : ∀ k s, Keeps owed b s → Keeps owed b (f k s))
    (hb : Keeps owed b s) : Keeps owed b (forWorking f s) :=
  forHeads_keeps (fun k s h => ite_keeps (hf k s h) h) hb

theorem enterAcquiring_keeps (hb : Keeps owed b s) : Keeps owed b (enterAcquiring s) := by
  unfold enterAcquiring
  repeat' first
    | with_reducible assumption | with_reducible refine forWorking_keeps (fun _ _ _ => ?_) ?_
    | with_reducible refine enterLightWait_keeps _ ?_ | with_reducible refine enterEngine_keeps _ ?_
    | with_reducible refine armNormal_keeps _ ?_ | with_reducible refine listsAcquiring_keeps ?_
    | with_reducible refine ite_keeps ?_ ?_

theorem stepBeginTaken_keeps (time : Time) (hb : Keeps owed b s) : Keeps owed b (stepBeginTaken time s) := by
  unfold stepBeginTaken
  dsimp only
  repeat' first
    | exact .same rfl rfl rfl | exact .noTable rfl id nofun
    | exact .noTable rfl nofun nofun
    | with_reducible assumption | with_reducible refine enterAcquiring_keeps ?_
    | with_reducible refine onFlags_keeps _ ?_ | with_reducible refine onOrder_keeps _ ?_ ?_
    | with_reducible refine setSettle_keeps _ ?_ | with_reducible refine ite_keeps ?_ ?_

theorem handshakeResult_keeps (x : SettleState) (settleTime : Nat) (hb : Keeps owed b s) :
    Keeps owed b (handshakeResult x settleTime s) := by
  unfold handshakeResult
  dsimp only
  repeat' first
    | exact .same rfl rfl rfl | exact .noTable rfl id nofun
    | exact .noTable rfl nofun nofun
    | with_reducible assumption | with_reducible refine stepBeginTaken_keeps _ ?_
    | with_reducible refine holdMarker_keeps _ ?_ | with_reducible refine onOrder_keeps _ ?_ ?_
    | with_reducible refine takeRecord_keeps _ ?_ | with_reducible refine ite_keeps ?_ ?_ | split

theorem stepEndTaken_keeps (hb : Keeps owed b s) : Keeps owed b (stepEndTaken s) := by
  unfold stepEndTaken
  dsimp only
  repeat' first
    | exact .same rfl rfl rfl | exact .noTable rfl id nofun
    | exact .noTable rfl nofun nofun | exact rfl
    | with_reducible assumption | with_reducible refine enterStepMove_keeps ?_
    | with_reducible refine enterClosing_keeps _ ?_ | with_reducible refine onOrder_keeps _ ?_ ?_
    | with_reducible refine requestPage_keeps ?_ | with_reducible refine onCounts_keeps _ ?_ ?_ ?_
    | with_reducible refine ite_keeps ?_ ?_

theorem offerStepEnd_keeps (hb : Keeps owed b s) : Keeps owed b (offerStepEnd s) := by
  unfold offerStepEnd
  repeat' first
    | with_reducible assumption | with_reducible refine stepEndTaken_keeps ?_
    | with_reducible refine holdMarker_keeps _ ?_ | with_reducible refine takeRecord_keeps _ ?_
    | with_reducible refine ite_keeps ?_ ?_

theorem listsClosed_keeps (hb : Keeps owed b s) : Keeps owed b (listsClosed s) := by
  have closed : Keeps owed b { s with ru := { s.ru with current := [], round := 0, phase := .idle } } :=
    ruUpd_keeps _ (fun w => ⟨Nat.zero_le _, w.2⟩) hb
  unfold listsClosed
  exact offerStepEnd_keeps (ite_keeps (onFlags_keeps _ closed) closed)

theorem takeUnresolved_keeps (r : GapRecord) (rest : List Entry)
    (hr : listsWithin b.ru → rest.length ≤ Config.revisitRoom) (hb : Keeps owed b s) :
    Keeps owed b (takeUnresolved r rest s) := by
  unfold takeUnresolved
  refine takeRecord_keeps _ (onCounts_keeps _ rfl rfl ?_)
  exact { hb with lists := fun w => ⟨(hb.lists w).1, hr w⟩ }

theorem stageUnresolved_keeps (l : List Entry) (hl : listsWithin b.ru → l.length ≤ Config.revisitRoom)
    (hb : Keeps owed b s) : Keeps owed b (stageUnresolved l s) := by
  induction l generalizing s with
  | nil => exact listsClosed_keeps hb
  | cons e es ih =>
    have shorter : listsWithin b.ru → es.length ≤ Config.revisitRoom := fun w => by
      have := hl w
      simp only [List.length_cons] at this
      omega
    unfold stageUnresolved
    split
    · exact ih shorter (takeUnresolved_keeps _ _ shorter hb)
    · exact ruUpd_keeps _ id hb

theorem enterStepClose_keeps (hb : Keeps owed b s) : Keeps owed b (enterStepClose s) :=
  stageUnresolved_keeps _ (fun w => (hb.lists w).2) (onOrder_keeps _ (.same rfl rfl rfl) (ruUpd_keeps _ id hb))

theorem startRound_keeps (hb : Keeps owed b s) : Keeps owed b (startRound s) := by
  unfold startRound
  dsimp only
  refine forHeads_keeps (fun _ _ h => ite_keeps (armRevisit_keeps _ _ h) h) (enterEngine_keeps _ ?_)
  refine ruUpd_keeps _ (fun w => ⟨?_, ?_⟩) hb
  · exact Nat.le_trans (List.length_filter_le _ _) w.2
  · exact Nat.le_trans (List.length_filter_le _ _) w.2

theorem roundDecision_keeps (hb : Keeps owed b s) : Keeps owed b (roundDecision s) := by
  unfold roundDecision
  repeat' first
    | with_reducible assumption | with_reducible refine startRound_keeps ?_
    | with_reducible refine enterStepClose_keeps ?_ | with_reducible refine ite_keeps ?_ ?_

theorem closeSeries_keeps (h : Head) (hb : Keeps owed b s) : Keeps owed b (closeSeries h s) := by
  unfold closeSeries
  repeat' first
    | exact id
    | with_reducible assumption | with_reducible refine unawait_keeps _ ?_
    | with_reducible refine onPasses_keeps _ _ ?_ ?_

theorem settleSeries_keeps (h : Head) (hb : Keeps owed b s) : Keeps owed b (settleSeries h s) := by
  unfold settleSeries
  repeat' first
    | with_reducible assumption | with_reducible refine closeSeries_keeps _ ?_
    | with_reducible refine ite_keeps ?_ ?_

theorem endPasses_keeps (hb : Keeps owed b s) : Keeps owed b (endPasses s) :=
  roundDecision_keeps (ruUpd_keeps _ (fun w => ⟨Nat.zero_le _, w.2⟩) hb)

theorem lightLost_keeps (hb : Keeps owed b s) : Keeps owed b (lightLost s) := by
  unfold lightLost
  repeat' first
    | with_reducible assumption | with_reducible refine enterLightWait_keeps _ ?_
    | with_reducible refine disarmScans_keeps ?_ | split

theorem restartTaken_keeps (time : Time) (hb : Keeps owed b s) : Keeps owed b (restartTaken time s) := by
  unfold restartTaken
  dsimp only
  repeat' first
    | exact .same rfl rfl rfl | exact .noTable rfl id nofun
    | exact .noTable rfl nofun nofun | exact rfl
    | with_reducible assumption | with_reducible refine enterAcquiring_keeps ?_
    | with_reducible refine onFlags_keeps _ ?_ | with_reducible refine onOrder_keeps _ ?_ ?_
    | with_reducible refine setSettle_keeps _ ?_ | with_reducible refine clearCounters_keeps ?_
    | with_reducible refine disarmScans_keeps ?_ | with_reducible refine listsAcquiring_keeps ?_
    | with_reducible refine onCounts_keeps _ ?_ ?_ ?_

theorem departLightWait_keeps (hb : Keeps owed b s) : Keeps owed b (departLightWait s) := by
  unfold departLightWait
  dsimp only
  repeat' first
    | with_reducible assumption | with_reducible refine restartTaken_keeps _ ?_
    | with_reducible refine enterAcquiring_keeps ?_ | with_reducible refine endCondition_keeps _ ?_
    | with_reducible refine holdMarker_keeps _ ?_ | with_reducible refine takeRecord_keeps _ ?_
    | with_reducible refine ite_keeps ?_ ?_ | split

theorem endArming_keeps (hb : Keeps owed b s) : Keeps owed b (endArming s) := by
  unfold endArming
  dsimp only
  repeat' first
    | with_reducible assumption | with_reducible refine enterAcquiring_keeps ?_
    | with_reducible refine enterStepMove_keeps ?_
    | with_reducible refine forHeads_keeps (fun _ _ _ => ?_) ?_
    | with_reducible refine onHeadRef_keeps _ _ ?_ | with_reducible refine ite_keeps ?_ ?_ | split
    | with_reducible refine rcUpd_keeps _ ?_

theorem matchRequest_keeps (hb : Keeps owed b s) : Keeps owed b (matchRequest s) := by
  unfold matchRequest
  dsimp only
  repeat' first
    | with_reducible assumption | with_reducible refine endArming_keeps ?_
    | with_reducible refine endCondition_keeps _ ?_ | with_reducible refine onSpan_keeps _ ?_
    | with_reducible refine ite_keeps ?_ ?_

theorem enterArming_keeps (hb : Keeps owed b s) : Keeps owed b (enterArming s) := by
  unfold enterArming
  dsimp only
  repeat' first
    | with_reducible assumption | with_reducible refine matchRequest_keeps ?_
    | with_reducible refine endArming_keeps ?_ | with_reducible refine enterEngine_keeps _ ?_
    | with_reducible refine ite_keeps ?_ ?_

theorem installReplacement_keeps (hd : OrderHeader) (h : Head) (hb : Keeps owed b s) :
    Keeps owed b (installReplacement hd h s) := by
  unfold installReplacement
  dsimp only
  repeat' first
    | exact .same rfl rfl rfl | exact .noTable rfl id nofun
    | exact .noTable rfl nofun nofun
    | with_reducible assumption | exact rfl | with_reducible refine onOrder_keeps _ ?_ ?_
    | with_reducible refine wakeHead_keeps _ ?_ | with_reducible refine onPort_keeps _ _ ?_ ?_
    | with_reducible refine ite_keeps ?_ ?_

theorem orderBeginTaken_keeps (hb : Keeps owed b s) : Keeps owed b (orderBeginTaken s) := by
  unfold orderBeginTaken
  dsimp only
  repeat' first
    | exact .same rfl rfl rfl | exact .noTable rfl id nofun
    | exact .noTable rfl nofun nofun
    | with_reducible assumption | with_reducible refine installReplacement_keeps _ _ ?_
    | with_reducible refine enterArming_keeps ?_ | with_reducible refine enterClosing_keeps _ ?_
    | with_reducible refine onOrder_keeps _ ?_ ?_
    | with_reducible refine forHeads_keeps (fun _ _ _ => ?_) ?_ | split

theorem offerOrderBegin_keeps (hb : Keeps owed b s) : Keeps owed b (offerOrderBegin s) := by
  unfold offerOrderBegin
  repeat' first
    | with_reducible assumption | with_reducible refine orderBeginTaken_keeps ?_
    | with_reducible refine holdMarker_keeps _ ?_ | with_reducible refine takeRecord_keeps _ ?_
    | with_reducible refine ite_keeps ?_ ?_ | split

theorem endLoading_keeps (hb : Keeps owed b s) : Keeps owed b (endLoading s) := by
  unfold endLoading
  repeat' first
    | with_reducible assumption | with_reducible refine offerOrderBegin_keeps ?_
    | with_reducible refine endCondition_keeps _ ?_ | with_reducible refine enterClosing_keeps _ ?_
    | with_reducible refine ite_keeps ?_ ?_

theorem installTables_keeps (a : ActiveOrder) (hb : Keeps owed b s) : Keeps owed b (installTables a s) := by
  unfold installTables
  repeat' first
    | with_reducible assumption | with_reducible refine forHeads_keeps (fun _ _ _ => ?_) ?_
    | with_reducible refine onQual_keeps _ _ ?_ | with_reducible refine ite_keeps ?_ ?_

theorem loadingWake_keeps (h : Head) (hb : Keeps owed b s) : Keeps owed b (loadingWake h s) := by
  unfold loadingWake
  repeat' first
    | with_reducible assumption | with_reducible refine wakeHead_keeps _ ?_
    | with_reducible refine ite_keeps ?_ ?_ | split

/-- While an order is being read its counts do not run yet. -/
theorem reading_keeps (x : OrderEngine) (hr : ¬ b.countsOrder)
    (ht : FlightsSound b → ∀ h a, x.doing = .correction h → x.active = some a → burstsIssue a.zones)
    (hb : Keeps owed b s) : Keeps owed b { s with oe := x } :=
  { hb with tables := ht, balance := fun h => absurd h.counts hr }

theorem enterLoading_keeps (a : ActiveOrder) (hr : ¬ b.countsOrder) (ha : FlightsSound b → burstsIssue a.zones)
    (hb : Keeps owed b s) : Keeps owed b (enterLoading a s) := by
  unfold enterLoading
  dsimp only
  have begun := beginWrite_keeps .loading (loadingWrites s.block s.xe.time s.tracker.revolution)
    (reading_keeps
      { s.oe with
        engine := .loading, active := some a, stepIndex := 0, restarts := 0, stepRestarts := 0,
        excluded := .all false, endSlot := none, abortMark := false, abortPending := false, counts := .zero,
        flags := .clear, marker := none, beginTaken := false, interrupting := false, rewoken := .all false,
        startTime := s.xe.time, startRevolution := s.tracker.revolution, activeTag := a.header.tag }
      hr (fun w _ _ _ e => by cases e; exact ha w) hb)
  have sound := fun h => (begun.writer h).congr (x := { s.rw with segments := [], overflow := false }) rfl rfl rfl
  split
  all_goals first
    | exact forHeads_keeps (fun _ _ => loadingWake_keeps _)
        (clearCounters_keeps (installTables_keeps _
          { begun with
            segments := fun _ => Nat.zero_le _, writer := sound, zones := ha, balance := fun p => absurd p.counts hr }))
    | exact offerOrderBegin_keeps
        { begun with
          segments := fun _ => Nat.zero_le _, writer := sound, zones := ha, balance := fun p => absurd p.counts hr }

theorem excludeHead_keeps (h : Head) (hb : Keeps owed b s) : Keeps owed b (excludeHead h s) := by
  unfold excludeHead
  dsimp only
  repeat' first
    | exact .same rfl rfl rfl | exact .noTable rfl id nofun
    | exact .noTable rfl nofun nofun
    | with_reducible assumption | with_reducible refine endCondition_keeps _ ?_
    | with_reducible refine onOrder_keeps _ ?_ ?_ | with_reducible refine excludeScan_keeps _ ?_
    | with_reducible refine unawait_keeps _ ?_ | with_reducible refine ite_keeps ?_ ?_

theorem headFault_keeps (h : Head) (r : FaultRecord) (hb : Keeps owed b s) : Keeps owed b (headFault h r s) := by
  unfold headFault
  dsimp only
  repeat' first
    | with_reducible refine endWake_keeps _ ?_
    | with_reducible assumption | exact rfl
    | with_reducible refine excludeHead_keeps _ ?_ | with_reducible refine leaveReady_keeps _ _ ?_
    | with_reducible refine onPort_keeps _ _ ?_ ?_ | with_reducible refine setNotice_keeps _ ?_
    | with_reducible refine ite_keeps ?_ ?_

theorem requestPassage_keeps (h : Head) (hb : Keeps owed b s) : Keeps owed b (requestPassage h s) := by
  unfold requestPassage
  repeat' first
    | with_reducible assumption | with_reducible refine armReference_keeps _ ?_
    | with_reducible refine onHeadRef_keeps _ _ ?_

theorem settleRequest_keeps (h : Head) (hb : Keeps owed b s) : Keeps owed b (settleRequest h s) := by
  unfold settleRequest
  repeat' first
    | with_reducible assumption | with_reducible refine requestPassage_keeps _ ?_
    | with_reducible refine ite_keeps ?_ ?_

theorem overLimitTaken_keeps (h : Head) (hb : Keeps owed b s) : Keeps owed b (overLimitTaken h s) := by
  unfold overLimitTaken
  dsimp only
  repeat' first
    | with_reducible assumption | with_reducible refine endCondition_keeps _ ?_
    | with_reducible refine onFlags_keeps _ ?_ | with_reducible refine setNotice_keeps _ ?_
    | with_reducible refine ite_keeps ?_ ?_

theorem applyVerdict_keeps (x : ReferenceRecord) (hb : Keeps owed b s) : Keeps owed b (applyVerdict x s) := by
  unfold applyVerdict
  dsimp only
  repeat' first
    | with_reducible assumption | with_reducible refine overLimitTaken_keeps _ ?_
    | with_reducible refine onHeadRef_keeps _ _ ?_ | with_reducible refine ite_keeps ?_ ?_

theorem offerReference_keeps (x : ReferenceRecord) (hb : Keeps owed b s) : Keeps owed b (offerReference x s) := by
  unfold offerReference
  repeat' first
    | with_reducible assumption | with_reducible refine applyVerdict_keeps _ ?_
    | with_reducible refine takeRecord_keeps _ ?_ | with_reducible refine onHeadRef_keeps _ _ ?_
    | with_reducible refine ite_keeps ?_ ?_

theorem completePassage_keeps (h : Head) (hb : Keeps owed b s) : Keeps owed b (completePassage h s) := by
  unfold completePassage
  repeat' first
    | with_reducible assumption | with_reducible refine offerReference_keeps _ ?_
    | with_reducible refine onHeadRef_keeps _ _ ?_ | split

theorem settlePassages_keeps (hb : Keeps owed b s) : Keeps owed b (settlePassages s) := by
  unfold settlePassages
  repeat' first
    | with_reducible assumption | with_reducible refine completePassage_keeps _ ?_
    | with_reducible refine forFree_keeps (fun _ _ _ => ?_) _ ?_

theorem judgeCalibration_keeps (hb : Keeps owed b s) : Keeps owed b (judgeCalibration s) := by
  unfold judgeCalibration
  dsimp only
  repeat' first
    | with_reducible assumption | with_reducible refine offerReference_keeps _ ?_
    | with_reducible refine endCondition_keeps _ ?_ | with_reducible refine enterClosing_keeps _ ?_
    | with_reducible refine foldl_keeps (fun _ _ _ => ?_) _ ?_ | split

theorem grantReference_keeps (h : Head) (hb : Keeps owed b s) : Keeps owed b (grantReference h s) := by
  unfold grantReference
  repeat' first
    | with_reducible assumption | with_reducible refine applyVerdict_keeps _ ?_
    | with_reducible refine takeRecord_keeps _ ?_ | split

theorem followLink_keeps (holder : Addr) (hb : Keeps owed b s) : Keeps owed b (followLink holder s) := by
  unfold followLink
  repeat' first
    | exact .same rfl rfl rfl | exact .noTable rfl id nofun
    | exact .noTable rfl nofun nofun
    | with_reducible assumption | with_reducible refine onOrder_keeps _ ?_ ?_
    | with_reducible refine beginRead_keeps _ _ _ ?_

theorem hold_keeps (reason : HeldReason) (point : Addr) (hb : Keeps owed b s) : Keeps owed b (hold reason point s) := by
  unfold hold
  repeat' first
    | exact .same rfl rfl rfl | exact .noTable rfl id nofun
    | exact .noTable rfl nofun nofun
    | with_reducible assumption | with_reducible refine onOrder_keeps _ ?_ ?_
    | with_reducible refine enterUnit_keeps _ ?_ | with_reducible refine setNotice_keeps _ ?_

theorem parkOn_keeps (holder : Addr) (hb : Keeps owed b s) : Keeps owed b (parkOn holder s) := by
  unfold parkOn
  repeat' first
    | exact .same rfl rfl rfl | exact .noTable rfl id nofun
    | exact .noTable rfl nofun nofun
    | with_reducible assumption | with_reducible refine followLink_keeps _ ?_
    | with_reducible refine onOrder_keeps _ ?_ ?_ | with_reducible refine enterUnit_keeps _ ?_
    | with_reducible refine setNotice_keeps _ ?_ | with_reducible refine ite_keeps ?_ ?_

theorem parkRecheck_keeps (hb : Keeps owed b s) : Keeps owed b (parkRecheck s) := by
  unfold parkRecheck
  by_cases hu : s.uc.unit = .parked
  · rw [if_pos hu]
    cases s.oe.doing <;> cases s.oe.park
    all_goals first
      | exact hb
      | exact followLink_keeps _ hb
      | exact onOrder_keeps _ (.same rfl rfl rfl) hb
  · rw [if_neg hu]
    exact hb

theorem endEarly_keeps (slot : EndSlot) (hb : Keeps owed b s) : Keeps owed b (endEarly slot s) := by
  unfold endEarly
  repeat' first
    | exact .same rfl rfl rfl | exact .noTable rfl id nofun
    | exact .noTable rfl nofun nofun
    | with_reducible assumption | with_reducible refine onOrder_keeps _ ?_ ?_
    | with_reducible refine beginWrite_keeps _ _ ?_

theorem readCorrections_keeps (a : ActiveOrder) (l : List Head) (hr : ¬ b.countsOrder)
    (ha : FlightsSound b → burstsIssue a.zones) (hs : s.oe.active = some a) (hb : Keeps owed b s) :
    Keeps owed b (readCorrections a l s) := by
  induction l with
  | nil => exact enterLoading_keeps _ hr ha hb
  | cons h hs' ih =>
    unfold readCorrections
    dsimp only
    refine ite_keeps ih (ite_keeps (beginRead_keeps _ _ _ (reading_keeps _ hr (fun w _ _ _ e => ?_) hb))
      (endEarly_keeps _ hb))
    have e : s.oe.active = some _ := e
    rw [hs] at e
    cases e
    exact ha w

theorem readZones_keeps (a : ActiveOrder) (hb : Keeps owed b s) : Keeps owed b (readZones a s) := by
  unfold readZones
  repeat' first
    | exact .same rfl rfl rfl | exact .noTable rfl id nofun
    | exact .noTable rfl nofun nofun
    | with_reducible assumption | with_reducible refine endEarly_keeps _ ?_
    | with_reducible refine onOrder_keeps _ ?_ ?_ | with_reducible refine beginRead_keeps _ _ _ ?_
    | with_reducible refine ite_keeps ?_ ?_

/-- Once its access is let go of, a writer that had one has none. -/
theorem letGoWriter_doing (s : State) : (letGoWriter s).rw.doing = .none := by
  unfold letGoWriter
  split
  · rename_i h
    cases hd : s.rw.doing <;> rw [hd] at h <;> first | rfl | cases h
  · unfold letGo
    rw [if_neg (List.cons_ne_nil _ _)]
    unfold logBus breakGroup State.chosen
    dsimp only
    split <;> rfl

theorem stopWriter_keeps (hb : Keeps owed b s) : Keeps owed b (stopWriter s) := by
  have cleared : Keeps owed b
      { s with rw := { s.rw with recheck := false, segments := [], overflow := false, target := none } } :=
    rwUpd_keeps _ (fun _ => Nat.zero_le _) (fun h => h.congr rfl rfl rfl) hb
  have freed := letGoWriter_keeps cleared
  have still := letGoWriter_doing
    { s with rw := { s.rw with recheck := false, segments := [], overflow := false, target := none } }
  unfold stopWriter
  dsimp only
  split
  · rename_i hp
    refine { cleared with writer := fun h => .still (by rintro (h | h) <;> cases h) ?_ }
    exact (cleared.writer h).faulted hp
  · exact cleared
  all_goals
    split
    · rename_i hf
      exact beginClose_keeps _ _ (by decide) (by rw [hf]; exact Option.some_ne_none _) freed
    · exact rwUpd_keeps _ id (fun _ => .still (by rintro (h | h) <;> cases h) still) freed

theorem enterStopped_keeps (hb : Keeps owed b s) : Keeps owed b (enterStopped s) := by
  unfold enterStopped
  dsimp only
  have freed := letGoCell_keeps (letGoOrder_keeps hb)
  refine enterUnit_keeps _ (stopWriter_keeps (ended_keeps freed rfl rfl rfl (fun _ => bufferWithin_nil) ?_
    ⟨Nat.zero_le _, Nat.zero_le _⟩ ?_ rfl disarmed_kinds rfl))
  · exact fun _ h => by rw [get_map]; exact Nat.zero_le _
  · exact fun _ h => by rw [get_map]; exact .nil

theorem settleStopped_keeps (hb : Keeps owed b s) : Keeps owed b (settleStopped s) := by
  unfold settleStopped
  repeat' first
    | with_reducible assumption | with_reducible refine ite_keeps ?_ ?_ | split
    | with_reducible refine ucUpd_keeps _ ?_

theorem enterFaulted_keeps (c : FaultCause) (hb : Keeps owed b s) : Keeps owed b (enterFaulted c s) := by
  unfold enterFaulted
  dsimp only
  refine ite_keeps hb (enterUnit_keeps _ (setNotice_keeps _ ?_))
  have ended := forHeads_keeps (fun h _ => endPassage_keeps h)
    (disarmScans_keeps (letGoCell_keeps (letGoOrder_keeps hb)))
  revert ended
  generalize forHeads endPassage (disarmScans (letGoCell (letGoOrder s))) = u
  intro ended
  refine ended_keeps ended rfl rfl rfl id ?_ ⟨Nat.zero_le _, Nat.zero_le _⟩ ?_ rfl disarmed_kinds rfl
  · intro w h
    simp only [get_map, Port.allMarked, Port.marked, List.length_map]
    exact w h
  · intro g h
    rw [get_map]
    exact (g h).marked fun _ _ _ _ => rfl

theorem writerStopped_keeps (hb : Keeps owed b s) : Keeps owed b (writerStopped s) :=
  rwUpd_keeps _ id (fun _ => .still (by rintro (h | h) <;> cases h) (letGoWriter_doing s))
    (letGoWriter_keeps hb)

theorem letGoPage_keeps (hb : Keeps owed b s) : Keeps owed b (letGoPage s) := by
  unfold letGoPage
  repeat' first
    | with_reducible assumption | with_reducible refine letGo_keeps _ ?_
    | with_reducible refine ite_keeps ?_ ?_ | split
    | with_reducible refine xeUpd_keeps _ rfl rfl rfl rfl ?_

theorem busFault_keeps (hb : Keeps owed b s) : Keeps owed b (busFault s) := by
  unfold busFault
  repeat' first
    | with_reducible assumption | with_reducible refine letGoPage_keeps ?_
    | with_reducible refine writerStopped_keeps ?_ | with_reducible refine enterFaulted_keeps _ ?_
    | with_reducible refine ite_keeps ?_ ?_

theorem encoderFault_keeps (c : FaultCause) (hb : Keeps owed b s) : Keeps owed b (encoderFault c s) := by
  unfold encoderFault
  dsimp only
  split
  · exact enterFaulted_keeps _ (trackerUpd_keeps _ hb)
  all_goals first
    | exact endCondition_keeps _ { hb with }
    | exact { hb with }

theorem routeOrder_keeps (e : OrderEnd) (hb : Keeps owed b s) : Keeps owed b (routeOrder e s) := by
  unfold routeOrder
  repeat' first
    | with_reducible assumption | with_reducible refine enterFaulted_keeps _ ?_
    | with_reducible refine enterStopped_keeps ?_ | with_reducible refine hold_keeps _ _ ?_
    | with_reducible refine followLink_keeps _ ?_ | with_reducible refine ite_keeps ?_ ?_ | split

theorem markerTaken_keeps (r : Record) (hb : Keeps owed b s) : Keeps owed b (markerTaken r s) := by
  unfold markerTaken
  repeat' first
    | exact .same rfl rfl rfl | exact .noTable rfl id nofun
    | exact .noTable rfl nofun nofun
    | with_reducible assumption | with_reducible refine orderBeginTaken_keeps ?_
    | with_reducible refine restartTaken_keeps _ ?_ | with_reducible refine stepEndTaken_keeps ?_
    | with_reducible refine stepBeginTaken_keeps _ ?_ | with_reducible refine onOrder_keeps _ ?_ ?_
    | with_reducible refine ite_keeps ?_ ?_ | split

theorem grantTo_keeps (p : Producer) (hb : Keeps owed b s) : Keeps owed b (grantTo p s) := by
  have rest : listsWithin b.ru → (s.ru.next.drop 1).length ≤ Config.revisitRoom := fun w => by
    rw [List.length_drop]
    exact Nat.le_trans (Nat.sub_le _ _) (hb.lists w).2
  unfold grantTo
  repeat' split
  · exact grantPort_keeps _ hb
  · exact grantReference_keeps _ hb
  · exact hb
  · exact stageUnresolved_keeps _ rest (takeUnresolved_keeps _ _ rest hb)
  · exact hb
  · exact markerTaken_keeps _ (takeRecord_keeps _ hb)
  · exact hb

theorem grantFreed_keeps (hb : Keeps owed b s) : Keeps owed b (grantFreed s) := by
  unfold grantFreed
  repeat' first
    | with_reducible assumption | with_reducible refine grantTo_keeps _ ?_
    | with_reducible refine chosen_keeps _ ?_ | with_reducible refine ite_keeps ?_ ?_ | split

theorem countDue_keeps (h : Head) (hb : Keeps owed b s) : Keeps owed b (countDue h s) := by
  unfold countDue
  repeat' first
    | with_reducible assumption | with_reducible refine onHeadRef_keeps _ _ ?_
    | with_reducible refine ite_keeps ?_ ?_ | split

theorem countGrace_keeps (hb : Keeps owed b s) : Keeps owed b (countGrace s) := by
  unfold countGrace
  repeat' first
    | exact .same rfl rfl rfl | exact .noTable rfl id nofun
    | exact .noTable rfl nofun nofun
    | with_reducible assumption | with_reducible refine onOrder_keeps _ ?_ ?_
    | with_reducible refine ite_keeps ?_ ?_

theorem countStall_keeps (hb : Keeps owed b s) : Keeps owed b (countStall s) := by
  unfold countStall
  repeat' first
    | with_reducible assumption | with_reducible refine ite_keeps ?_ ?_ | split | exact id
    | with_reducible refine sbUpd_keeps _ ?_ ?_

theorem takeOne_keeps (cs : List EndSlot) (hb : Keeps owed b s) : Keeps owed b (takeOne cs s) := by
  unfold takeOne
  repeat' first
    | with_reducible assumption | with_reducible refine endCondition_keeps _ ?_
    | with_reducible refine chosen_keeps _ ?_ | split

theorem countRevolution_keeps (hb : Keeps owed b s) : Keeps owed b (countRevolution s) := by
  unfold countRevolution
  dsimp only
  repeat' first
    | with_reducible assumption | with_reducible refine takeOne_keeps _ ?_
    | with_reducible refine countStall_keeps ?_ | with_reducible refine countGrace_keeps ?_
    | with_reducible refine countDue_keeps _ ?_
    | with_reducible refine forHeads_keeps (fun _ _ _ => ?_) ?_

theorem indexDelivered_keeps (forward : Bool) (hb : Keeps owed b s) : Keeps owed b (indexDelivered forward s) := by
  unfold indexDelivered
  dsimp only
  repeat' first
    | with_reducible assumption | with_reducible refine countRevolution_keeps ?_
    | with_reducible refine parkRecheck_keeps ?_ | with_reducible refine starvedRecheck_keeps ?_
    | with_reducible refine ite_keeps ?_ ?_

theorem lightClears_keeps (hb : Keeps owed b s) : Keeps owed b (lightClears s) := by
  unfold lightClears
  repeat' first
    | with_reducible assumption | with_reducible refine wakePended_keeps _ ?_
    | with_reducible refine forHeads_keeps (fun _ _ _ => ?_) ?_
    | with_reducible refine lightUpd_keeps _ ?_

theorem takeFilterLimit_keeps (h : Head) (hb : Keeps owed b s) : Keeps owed b (takeFilterLimit h s) := by
  unfold takeFilterLimit
  dsimp only
  repeat' first
    | with_reducible assumption | with_reducible refine endCondition_keeps _ ?_
    | with_reducible refine suspendScan_keeps _ ?_ | with_reducible refine onQual_keeps _ _ ?_
    | with_reducible refine setNotice_keeps _ ?_ | split

theorem settleFilter_keeps (h : Head) (hb : Keeps owed b s) : Keeps owed b (settleFilter h s) := by
  unfold settleFilter
  repeat' first
    | with_reducible assumption | with_reducible refine takeFilterLimit_keeps _ ?_
    | with_reducible refine ite_keeps ?_ ?_

/-- The first `n` entries leave a head's list as its completed group, and its outcome is counted, if it has one. -/
theorem completeGroup_keeps (h : Head) (n : Nat)
    (hu : FlightsSound b → ∀ e ∈ (s.ports.get h).inFlight.take n,
      openGroups ((s.ports.get h).inFlight.take n) = if e.openScan then 1 else 0)
    (hb : Keeps (owed + openGroups ((s.ports.get h).inFlight.take n)) b
      (s.onPort h fun p => { p with inFlight := p.inFlight.drop n })) :
    Keeps owed b (completeGroup h n s) := by
  unfold completeGroup
  dsimp only
  split
  · rename_i he
    exact hb.owes fun _ => by rw [he]; rfl
  · rename_i e es he
    rw [he] at hu
    split
    · rename_i marked
      obtain ⟨f, hf, ha⟩ := List.any_eq_true.mp marked
      refine hb.owes fun w => ?_
      rw [he, hu w f (he ▸ hf)]
      simp [InFlight.openScan, ha]
    · rename_i marked
      have clear : e.abandoned = false := by
        have := mt List.any_eq_true.mpr marked
        simp only [he, not_exists, not_and, Bool.not_eq_true] at this
        exact this e List.mem_cons_self
      have counted := qualify_keeps (owed := owed) h e
        (((s.ports.get h).inFlight.take n).filterMap (·.result))
        (hb.owes fun w => by
          rw [he, hu w e List.mem_cons_self]
          unfold InFlight.openScan
          by_cases hp : e.pass.kind = .reference <;> simp [hp, clear])
      exact groupsRemoved_keeps _ _ (ite_keeps (settleFilter_keeps _ counted) counted)

theorem retire_keeps (h : Head) (x : Exposure) (e : InFlight)
    (he : oldestOpen (s.ports.get h).inFlight = some e) (hb : Keeps owed b s) :
    Keeps owed b (retire h x e s) := by
  unfold retire
  dsimp only
  split
  · rename_i last
    refine completeGroup_keeps h e.burst (fun w f hf => ?_) ?_
    · obtain ⟨g, rest, hl, hg, _, ho, hr⟩ := retire_first (hb.grouped w h) he x
      have len : (retireOldest x g).length = e.burst := by
        rw [length_retireOldest, hg.burst e (List.mem_of_find?_eq_some ho)]
      simp only [onPort_ports, get_set_same] at hf ⊢
      rw [hr, ← len, List.take_left] at hf ⊢
      obtain ⟨a, ha, _, _, hp, hk, _⟩ := (retire_shape x g).2 f hf
      rw [openGroups_retire, hg.openGroups ha]
      unfold InFlight.openScan
      rw [hp, hk]
    · have joined : (s.onPort h fun p => { p with inFlight := retireOldest x p.inFlight }).onPort h
          (fun p => { p with inFlight := p.inFlight.drop e.burst })
          = s.onPort h fun p => { p with inFlight := (retireOldest x p.inFlight).drop e.burst } := by
        cases h <;> rfl
      rw [joined]
      refine onPort_list h _ ?_ (fun w _ => ?_) (fun _ _ => ?_) hb
      · simp only [List.length_drop, length_retireOldest]
        omega
      · obtain ⟨g, rest, hl, hg, hrest, ho, hr⟩ := retire_first (hb.grouped w h) he x
        have len : (retireOldest x g).length = e.burst := by
          rw [length_retireOldest, hg.burst e (List.mem_of_find?_eq_some ho)]
        dsimp only
        rw [hr, ← len, List.drop_left]
        exact hrest
      · simp only [onPort_ports, get_set_same]
        have parts := congrArg openGroups (List.take_append_drop e.burst (retireOldest x (s.ports.get h).inFlight))
        rw [openGroups_append, openGroups_retire] at parts
        omega
  · rename_i last
    refine onPort_list h _ ?_ (fun _ g => ?_) (fun _ _ => ?_) hb
    · simp only [length_retireOldest]
      exact Nat.le_max_left _ _
    · obtain ⟨g, rest, hl, hg, ⟨gs, hrest, all⟩, ho, hr⟩ := retire_first g he x
      refine ⟨retireOldest x g :: gs, by rw [List.flatten_cons, ← hrest]; exact hr, fun y hy => ?_⟩
      rcases List.mem_cons.mp hy with rfl | hy
      · exact hg.retired x ho last
      · exact all y hy
    · rw [openGroups_retire]

theorem settleEngine_keeps (hb : Keeps owed b s) : Keeps owed b (settleEngine s) := by
  unfold settleEngine
  repeat' first
    | with_reducible assumption | with_reducible refine endPasses_keeps ?_
    | with_reducible refine endLoading_keeps ?_ | with_reducible refine departLightWait_keeps ?_
    | with_reducible refine ite_keeps ?_ ?_

theorem settleMeasured_keeps (hb : Keeps owed b s) : Keeps owed b (settleMeasured s) :=
  ite_keeps (judgeCalibration_keeps hb) hb

theorem settleOrder_keeps (hb : Keeps owed b s) : Keeps owed b (settleOrder s) :=
  settleMeasured_keeps (settleEngine_keeps hb)

theorem enterRunning_keeps (hb : Keeps owed b s) : Keeps owed b (enterRunning s) := by
  unfold enterRunning
  repeat' first
    | exact .same rfl rfl rfl | exact .noTable rfl id nofun
    | exact .noTable rfl nofun nofun
    | with_reducible assumption | with_reducible refine followLink_keeps _ ?_
    | with_reducible refine onOrder_keeps _ ?_ ?_ | with_reducible refine enterUnit_keeps _ ?_

theorem settleUnit_keeps (hb : Keeps owed b s) : Keeps owed b (settleUnit s) := by
  unfold settleUnit
  repeat' first
    | with_reducible assumption | with_reducible refine enterRunning_keeps ?_
    | with_reducible refine ite_keeps ?_ ?_

theorem settle_keeps (hb : Keeps owed b s) : Keeps owed b (settle s) := by
  unfold settle
  repeat' first
    | with_reducible assumption | with_reducible refine settleUnit_keeps ?_
    | with_reducible refine settleOrder_keeps ?_ | with_reducible refine settlePassages_keeps ?_
    | with_reducible refine settleRequest_keeps _ ?_ | with_reducible refine settleSeries_keeps _ ?_
    | with_reducible refine settleDrain_keeps ?_
    | with_reducible refine forHeads_keeps (fun _ _ _ => ?_) ?_

theorem readBack_keeps (code : Nat) (r : CommandResult) (hb : Keeps owed b s) : Keeps owed b (readBack code r s) := by
  unfold readBack
  repeat' first
    | with_reducible assumption | with_reducible refine xeUpd_keeps _ rfl rfl rfl rfl ?_

theorem command_keeps (code : Nat) (accepted : Bool) {effect : State → State}
    (he : ∀ s, Keeps owed b s → Keeps owed b (effect s)) (hb : Keeps owed b s) : Keeps owed b (command code accepted effect s) := by
  unfold command
  exact ite_keeps (he _ (readBack_keeps _ _ hb)) (readBack_keeps _ _ hb)

theorem startUnit_keeps (hb : Keeps owed b s) : Keeps owed b (startUnit s) :=
  { hb with writer := fun h => (hb.writer h).congr rfl rfl rfl }

theorem readCell_keeps (hb : Keeps owed b s) : Keeps owed b (readCell s) := by
  unfold readCell
  repeat' first
    | with_reducible assumption | with_reducible refine enterFaulted_keeps _ ?_
    | with_reducible refine beginRead_keeps _ _ _ ?_ | with_reducible refine ite_keeps ?_ ?_ | split
    | with_reducible refine ucUpd_keeps _ ?_

theorem execStart_keeps (ht : execStart s = .next t)
    (hb : Keeps owed b s) : Keeps owed b t := by
  unfold execStart at ht
  cases ht
  repeat' first
    | with_reducible assumption | with_reducible refine readCell_keeps ?_
    | with_reducible refine startUnit_keeps ?_
    | with_reducible refine command_keeps _ _ (fun _ _ => ?_) ?_
    | with_reducible refine requestPage_keeps ?_

theorem haltUnit_keeps (hb : Keeps owed b s) : Keeps owed b (haltUnit s) := by
  unfold haltUnit
  repeat' first
    | with_reducible assumption | with_reducible refine enterStopped_keeps ?_
    | with_reducible refine enterUnit_keeps _ ?_ | split

theorem execHalt_keeps (ht : execHalt s = .next t)
    (hb : Keeps owed b s) : Keeps owed b t := by
  unfold execHalt at ht
  cases ht
  repeat' first
    | with_reducible assumption | with_reducible refine haltUnit_keeps ?_
    | with_reducible refine command_keeps _ _ (fun _ _ => ?_) ?_

theorem abortOrder_keeps (hb : Keeps owed b s) : Keeps owed b (abortOrder s) := by
  unfold abortOrder
  repeat' first
    | exact .same rfl rfl rfl | exact .noTable rfl id nofun
    | exact .noTable rfl nofun nofun
    | with_reducible assumption | with_reducible refine abortPorts_keeps ?_
    | with_reducible refine endCondition_keeps _ ?_ | with_reducible refine onOrder_keeps _ ?_ ?_
    | with_reducible refine ite_keeps ?_ ?_ | split

theorem abortUnit_keeps (hb : Keeps owed b s) : Keeps owed b (abortUnit s) := by
  unfold abortUnit
  repeat' first
    | with_reducible assumption | with_reducible refine abortOrder_keeps ?_
    | with_reducible refine settle_keeps ?_ | with_reducible refine enterStopped_keeps ?_ | split

theorem execAbort_keeps (ht : execAbort s = .next t)
    (hb : Keeps owed b s) : Keeps owed b t := by
  unfold execAbort at ht
  cases ht
  repeat' first
    | with_reducible assumption | with_reducible refine abortUnit_keeps ?_
    | with_reducible refine command_keeps _ _ (fun _ _ => ?_) ?_

theorem resumeUnit_keeps (hb : Keeps owed b s) : Keeps owed b (resumeUnit s) := by
  unfold resumeUnit
  repeat' first
    | exact .same rfl rfl rfl | exact .noTable rfl id nofun
    | exact .noTable rfl nofun nofun
    | with_reducible assumption | with_reducible refine followLink_keeps _ ?_
    | with_reducible refine onOrder_keeps _ ?_ ?_ | with_reducible refine enterUnit_keeps _ ?_ | split

theorem execResume_keeps (ht : execResume s = .next t)
    (hb : Keeps owed b s) : Keeps owed b t := by
  unfold execResume at ht
  cases ht
  repeat' first
    | with_reducible assumption | with_reducible refine resumeUnit_keeps ?_
    | with_reducible refine command_keeps _ _ (fun _ _ => ?_) ?_

theorem stopUnit_keeps (hb : Keeps owed b s) : Keeps owed b (stopUnit s) := by
  unfold stopUnit
  repeat' first
    | with_reducible assumption | with_reducible refine enterStopped_keeps ?_ | split

theorem execStop_keeps (ht : execStop s = .next t)
    (hb : Keeps owed b s) : Keeps owed b t := by
  unfold execStop at ht
  cases ht
  repeat' first
    | with_reducible assumption | with_reducible refine stopUnit_keeps ?_
    | with_reducible refine command_keeps _ _ (fun _ _ => ?_) ?_

theorem softReset_keeps (levels : Levels) (hb : Keeps owed b s) : Keeps owed b (softReset levels s) := by
  have freed := letGoPage_keeps (letGoWriter_keeps (letGoOrder_keeps (letGoCell_keeps hb)))
  unfold softReset
  exact { freed with
    buffer := fun _ => bufferWithin_nil
    lists := fun _ => ⟨Nat.zero_le _, Nat.zero_le _⟩
    segments := fun _ => Nat.zero_le _
    writer := fun _ => .reset
    flights := fun _ h => by rw [get_map]; exact Nat.zero_le _
    grouped := fun _ h => by rw [get_map]; exact .nil
    zones := fun _ => nofun
    tables := fun _ _ _ => nofun
    kinds := fun _ h => by cases h <;> exact ⟨nofun, rfl⟩
    balance := fun _ => nofun }

theorem execSoftReset_keeps (levels : Levels) (ht : execSoftReset levels s = .next t)
    (hb : Keeps owed b s) : Keeps owed b t := by
  unfold execSoftReset at ht
  cases ht
  repeat' first
    | with_reducible assumption | with_reducible refine softReset_keeps _ ?_
    | with_reducible refine command_keeps _ _ (fun _ _ => ?_) ?_

theorem execNudge_keeps (_value : Word) (ht : execNudge _value s = .next t)
    (hb : Keeps owed b s) : Keeps owed b t := by
  unfold execNudge at ht
  cases ht
  repeat' first
    | with_reducible assumption | with_reducible refine parkRecheck_keeps ?_
    | with_reducible refine starvedRecheck_keeps ?_

theorem execNoteRawWrite_keeps (value : Word) (ht : execNoteRawWrite value s = .next t)
    (hb : Keeps owed b s) : Keeps owed b t := by
  unfold execNoteRawWrite at ht
  cases ht
  repeat' first
    | with_reducible assumption | with_reducible refine settle_keeps ?_
    | with_reducible refine lightClears_keeps ?_ | with_reducible refine clearNotices_keeps _ ?_
    | with_reducible refine ite_keeps ?_ ?_

theorem homingFault_keeps (c : FaultCause) (hb : Keeps owed b s) : Keeps owed b (homingFault c s) := by
  unfold homingFault
  repeat' first
    | with_reducible assumption | with_reducible refine enterFaulted_keeps _ ?_
    | with_reducible refine trackerUpd_keeps _ ?_

theorem judgeArrival_keeps (t : Tracker) (c : TrackerConfig) (up : Bool) (hb : Keeps owed b s) :
    Keeps owed b (judgeArrival t c up s) := by
  unfold judgeArrival
  dsimp only
  repeat' first
    | with_reducible assumption | with_reducible refine homingFault_keeps _ ?_
    | with_reducible refine settle_keeps ?_ | with_reducible refine ite_keeps ?_ ?_ | split
    | with_reducible refine trackerUpd_keeps _ ?_

theorem publishAngle_keeps (c : TrackerConfig) (up : Bool) (hb : Keeps owed b s) :
    Keeps owed b (publishAngle c up s) := by
  unfold publishAngle
  repeat' first
    | with_reducible assumption | with_reducible refine angleArrival_keeps _ _ _ ?_

theorem trackStep_keeps (t : Tracker) (c : TrackerConfig) (up arrival : Bool) (hb : Keeps owed b s) :
    Keeps owed b (trackStep t c up arrival s) := by
  unfold trackStep
  dsimp only
  repeat' first
    | with_reducible assumption | with_reducible refine publishAngle_keeps _ _ ?_
    | with_reducible refine settle_keeps ?_ | with_reducible refine indexDelivered_keeps _ ?_
    | with_reducible refine encoderFault_keeps _ ?_ | with_reducible refine ite_keeps ?_ ?_ | split
    | with_reducible refine trackerUpd_keeps _ ?_

theorem execCountStep_keeps (p : Phase) (index : Bool) (ht : execCountStep p index s = .next t)
    (hb : Keeps owed b s) : Keeps owed b t := by
  unfold execCountStep at ht
  cases ht
  repeat' first
    | with_reducible assumption | with_reducible refine trackStep_keeps _ _ _ _ ?_
    | with_reducible refine judgeArrival_keeps _ _ _ ?_ | with_reducible refine ite_keeps ?_ ?_ | split
    | with_reducible refine trackerUpd_keeps _ ?_

theorem execIllegalTransition_keeps (ht : execIllegalTransition s = .next t)
    (hb : Keeps owed b s) : Keeps owed b t := by
  unfold execIllegalTransition at ht
  cases ht
  dsimp only
  repeat' first
    | with_reducible assumption | with_reducible refine homingFault_keeps _ ?_
    | with_reducible refine settle_keeps ?_ | with_reducible refine encoderFault_keeps _ ?_ | split
    | with_reducible refine trackerUpd_keeps _ ?_

theorem execHomingTimerExpiry_keeps (ht : execHomingTimerExpiry s = .next t)
    (hb : Keeps owed b s) : Keeps owed b t := by
  unfold execHomingTimerExpiry at ht
  cases ht
  repeat' first
    | with_reducible assumption | with_reducible refine homingFault_keeps _ ?_ | split

theorem execIndexWatchExpiry_keeps (ht : execIndexWatchExpiry s = .next t)
    (hb : Keeps owed b s) : Keeps owed b t := by
  unfold execIndexWatchExpiry at ht
  cases ht
  repeat' first
    | with_reducible assumption | with_reducible refine settle_keeps ?_
    | with_reducible refine encoderFault_keeps _ ?_ | split

theorem portFault_keeps (c : PortCause) (h : Head) (hb : Keeps owed b s) : Keeps owed b (portFault c h s) := by
  unfold portFault
  repeat' first
    | with_reducible assumption | with_reducible refine settle_keeps ?_
    | with_reducible refine headFault_keeps _ _ ?_ | split

theorem execReadyReceived_keeps (h : Head) (ht : execReadyReceived h s = .next t)
    (hb : Keeps owed b s) : Keeps owed b t := by
  unfold execReadyReceived at ht
  cases ht
  repeat' first
    | with_reducible refine endWake_keeps _ ?_
    | with_reducible assumption | exact rfl | with_reducible refine settle_keeps ?_
    | with_reducible refine headFault_keeps _ _ ?_ | with_reducible refine onPort_keeps _ _ ?_ ?_
    | split

theorem execSampleReceived_keeps (h : Head) (m : Sample) (ht : execSampleReceived h m s = .next t)
    (hb : Keeps owed b s) : Keeps owed b t := by
  unfold execSampleReceived at ht
  cases ht
  repeat' first
    | with_reducible assumption | with_reducible refine settle_keeps ?_
    | with_reducible refine retire_keeps _ _ _ (by assumption) ?_ | with_reducible refine headFault_keeps _ _ ?_
    | with_reducible refine ite_keeps ?_ ?_ | split

theorem execAlertReceived_keeps (h : Head) (code : Byte) (ht : execAlertReceived h code s = .next t)
    (hb : Keeps owed b s) : Keeps owed b t := by
  unfold execAlertReceived at ht
  cases ht
  repeat' first
    | with_reducible assumption | with_reducible refine settle_keeps ?_
    | with_reducible refine headFault_keeps _ _ ?_ | with_reducible refine ite_keeps ?_ ?_ | split

theorem execFrameError_keeps (h : Head) (ht : execFrameError h s = .next t)
    (hb : Keeps owed b s) : Keeps owed b t := by
  unfold execFrameError at ht
  cases ht
  repeat' first
    | with_reducible assumption | with_reducible refine portFault_keeps _ _ ?_

theorem execLinkLoss_keeps (h : Head) (ht : execLinkLoss h s = .next t)
    (hb : Keeps owed b s) : Keeps owed b t := by
  unfold execLinkLoss at ht
  cases ht
  repeat' first
    | with_reducible assumption | exact rfl
    | with_reducible refine portFault_keeps _ _ ?_ | with_reducible refine onPort_keeps _ _ ?_ ?_
    | with_reducible refine ite_keeps ?_ ?_

theorem execLinkActivity_keeps (h : Head) (ht : execLinkActivity h s = .next t)
    (hb : Keeps owed b s) : Keeps owed b t := by
  unfold execLinkActivity at ht
  cases ht
  repeat' first
    | with_reducible assumption | exact rfl
    | with_reducible refine onPort_keeps _ _ ?_ ?_

theorem execWakeTimerExpiry_keeps (h : Head) (ht : execWakeTimerExpiry h s = .next t)
    (hb : Keeps owed b s) : Keeps owed b t := by
  unfold execWakeTimerExpiry at ht
  cases ht
  repeat' first
    | with_reducible assumption | with_reducible refine settle_keeps ?_
    | with_reducible refine headFault_keeps _ _ ?_ | split

theorem execResponseTimerExpiry_keeps (h : Head) (ht : execResponseTimerExpiry h s = .next t)
    (hb : Keeps owed b s) : Keeps owed b t := by
  unfold execResponseTimerExpiry at ht
  cases ht
  repeat' first
    | with_reducible assumption | with_reducible refine settle_keeps ?_
    | with_reducible refine retire_keeps _ _ _ (by assumption) ?_ | split

theorem execSeriesComplete_keeps (h : Head) (ht : execSeriesComplete h s = .next t)
    (hb : Keeps owed b s) : Keeps owed b t := by
  unfold execSeriesComplete at ht
  cases ht
  repeat' first
    | with_reducible assumption | with_reducible refine settle_keeps ?_
    | with_reducible refine closeSeries_keeps _ ?_ | with_reducible refine ite_keeps ?_ ?_

theorem execFilterLimit_keeps (h : Head) (ht : execFilterLimit h s = .next t)
    (hb : Keeps owed b s) : Keeps owed b t := by
  unfold execFilterLimit at ht
  cases ht
  repeat' first
    | with_reducible assumption | with_reducible refine settle_keeps ?_
    | with_reducible refine takeFilterLimit_keeps _ ?_ | with_reducible refine ite_keeps ?_ ?_

theorem execMonPulseEnd_keeps (m : Mon) (ht : execMonPulseEnd m s = .next t)
    (hb : Keeps owed b s) : Keeps owed b t := by
  unfold execMonPulseEnd at ht
  cases ht
  repeat' first
    | with_reducible assumption | with_reducible refine pulse_keeps _ _ ?_ | split
    | with_reducible refine mon0Upd_keeps _ ?_ | with_reducible refine mon1Upd_keeps _ ?_

theorem lightFails_keeps (hb : Keeps owed b s) : Keeps owed b (lightFails s) := by
  unfold lightFails
  repeat' first
    | with_reducible assumption | with_reducible refine lightLost_keeps ?_
    | with_reducible refine forceOff_keeps _ ?_
    | with_reducible refine forHeadsFree_keeps _ (fun _ _ _ => ?_) ?_
    | with_reducible refine setNotice_keeps _ ?_ | with_reducible refine lightUpd_keeps _ ?_

theorem execLightJudgedLow_keeps (ht : execLightJudgedLow s = .next t)
    (hb : Keeps owed b s) : Keeps owed b t := by
  unfold execLightJudgedLow at ht
  cases ht
  dsimp only
  repeat' first
    | with_reducible assumption | with_reducible refine lightFails_keeps ?_
    | with_reducible refine settle_keeps ?_ | with_reducible refine ite_keeps ?_ ?_ | split
    | with_reducible refine lightUpd_keeps _ ?_

theorem execLightJudgedGood_keeps (ht : execLightJudgedGood s = .next t)
    (hb : Keeps owed b s) : Keeps owed b t := by
  unfold execLightJudgedGood at ht
  cases ht
  dsimp only
  repeat' first
    | with_reducible assumption | with_reducible refine settle_keeps ?_
    | with_reducible refine lightClears_keeps ?_ | with_reducible refine ite_keeps ?_ ?_ | split
    | with_reducible refine lightUpd_keeps _ ?_

theorem execLightGraceExpiry_keeps (ht : execLightGraceExpiry s = .next t)
    (hb : Keeps owed b s) : Keeps owed b t := by
  unfold execLightGraceExpiry at ht
  cases ht
  repeat' first
    | with_reducible assumption | with_reducible refine settle_keeps ?_
    | with_reducible refine endCondition_keeps _ ?_ | with_reducible refine ite_keeps ?_ ?_

theorem execLightWaitDeparture_keeps (ht : execLightWaitDeparture s = .next t)
    (hb : Keeps owed b s) : Keeps owed b t := by
  unfold execLightWaitDeparture at ht
  cases ht
  repeat' first
    | with_reducible assumption | with_reducible refine settle_keeps ?_
    | with_reducible refine departLightWait_keeps ?_ | with_reducible refine ite_keeps ?_ ?_

theorem execReferenceDue_keeps (h : Head) (ht : execReferenceDue h s = .next t)
    (hb : Keeps owed b s) : Keeps owed b t := by
  unfold execReferenceDue at ht
  cases ht
  repeat' first
    | with_reducible assumption | with_reducible refine settleRequest_keeps _ ?_

theorem execReferenceOverdue_keeps (h : Head) (ht : execReferenceOverdue h s = .next t)
    (hb : Keeps owed b s) : Keeps owed b t := by
  unfold execReferenceOverdue at ht
  cases ht
  repeat' first
    | with_reducible assumption | with_reducible refine settle_keeps ?_
    | with_reducible refine endCondition_keeps _ ?_ | with_reducible refine ite_keeps ?_ ?_

theorem execPassageComplete_keeps (h : Head) (ht : execPassageComplete h s = .next t)
    (hb : Keeps owed b s) : Keeps owed b t := by
  unfold execPassageComplete at ht
  cases ht
  repeat' first
    | with_reducible assumption | with_reducible refine settle_keeps ?_
    | with_reducible refine completePassage_keeps _ ?_ | with_reducible refine ite_keeps ?_ ?_

theorem settleLineChanged_keeps (hb : Keeps owed b s) : Keeps owed b (settleLineChanged s) := by
  unfold settleLineChanged
  repeat' first
    | with_reducible assumption | with_reducible refine handshakeResult_keeps _ _ ?_
    | with_reducible refine onSpan_keeps _ ?_ | with_reducible refine ite_keeps ?_ ?_ | split

theorem watchedLineChanged_keeps (hb : Keeps owed b s) : Keeps owed b (watchedLineChanged s) := by
  unfold watchedLineChanged
  repeat' first
    | with_reducible assumption | with_reducible refine endArming_keeps ?_
    | with_reducible refine endCondition_keeps _ ?_ | with_reducible refine onSpan_keeps _ ?_
    | with_reducible refine ite_keeps ?_ ?_ | split

theorem execTakenLevelChange_keeps (l : Line) (ht : execTakenLevelChange l s = .next t)
    (hb : Keeps owed b s) : Keeps owed b t := by
  unfold execTakenLevelChange at ht
  cases ht
  repeat' first
    | with_reducible assumption | with_reducible refine watchedLineChanged_keeps ?_
    | with_reducible refine settleLineChanged_keeps ?_ | with_reducible refine settle_keeps ?_
    | with_reducible refine onSpan_keeps _ ?_ | with_reducible refine ite_keeps ?_ ?_

theorem execSettleTimerExpiry_keeps (ht : execSettleTimerExpiry s = .next t)
    (hb : Keeps owed b s) : Keeps owed b t := by
  unfold execSettleTimerExpiry at ht
  cases ht
  dsimp only
  repeat' first
    | with_reducible assumption | with_reducible refine settle_keeps ?_
    | with_reducible refine handshakeResult_keeps _ _ ?_ | with_reducible refine endCondition_keeps _ ?_
    | with_reducible refine onSpan_keeps _ ?_ | with_reducible refine ite_keeps ?_ ?_ | split

theorem execFixtureTimerExpiry_keeps (ht : execFixtureTimerExpiry s = .next t)
    (hb : Keeps owed b s) : Keeps owed b t := by
  unfold execFixtureTimerExpiry at ht
  cases ht
  repeat' first
    | with_reducible assumption | with_reducible refine settle_keeps ?_
    | with_reducible refine endCondition_keeps _ ?_ | with_reducible refine onSpan_keeps _ ?_ | split

theorem endRead_keeps (kind : BusKind) (r : ReadResult) (hb : Keeps owed b s) : Keeps owed b (endRead kind r s) := by
  unfold endRead
  repeat' first
    | with_reducible assumption | with_reducible refine logBus_keeps _ ?_ | split

theorem accessDone_keeps (hb : Keeps owed b s) : Keeps owed b (accessDone s) := by
  unfold accessDone
  repeat' first
    | exact .same rfl rfl rfl | exact .noTable rfl id nofun
    | exact .noTable rfl nofun nofun
    | with_reducible assumption | with_reducible refine onOrder_keeps _ ?_ ?_

theorem followGoesOn_keeps (holder : Addr) {k : State → State} (hk : ∀ s, Keeps owed b s → Keeps owed b (k s))
    (hb : Keeps owed b s) : Keeps owed b (followGoesOn holder k s) := by
  unfold followGoesOn
  exact ite_keeps (enterStopped_keeps hb) (ite_keeps (hold_keeps _ _ hb) (hk _ hb))

theorem linkFound_keeps (holder value : Addr) (hb : Keeps owed b s) : Keeps owed b (linkFound holder value s) := by
  unfold linkFound
  repeat' first
    | exact .same rfl rfl rfl | exact .noTable rfl id nofun
    | exact .noTable rfl nofun nofun
    | with_reducible assumption | with_reducible refine parkOn_keeps _ ?_
    | with_reducible refine hold_keeps _ _ ?_ | with_reducible refine onOrder_keeps _ ?_ ?_
    | with_reducible refine beginRead_keeps _ _ _ ?_ | with_reducible refine ite_keeps ?_ ?_

theorem execLinkRead_keeps (r : ReadResult) (ht : execLinkRead r s = .next t)
    (hb : Keeps owed b s) : Keeps owed b t := by
  unfold execLinkRead at ht
  cases ht
  repeat' first
    | with_reducible assumption | with_reducible refine linkFound_keeps _ _ ?_
    | with_reducible refine followGoesOn_keeps _ (fun _ _ => ?_) ?_
    | with_reducible refine accessDone_keeps ?_ | with_reducible refine endRead_keeps _ _ ?_
    | with_reducible refine hold_keeps _ _ ?_ | with_reducible refine endStray_keeps _ ?_
    | with_reducible refine ite_keeps ?_ ?_ | split

theorem fetchOrder_keeps (block : Addr) (hb : Keeps owed b s) : Keeps owed b (fetchOrder block s) := by
  unfold fetchOrder
  dsimp only
  repeat' first
    | exact .same rfl rfl rfl | exact .noTable rfl id nofun
    | exact .noTable rfl nofun nofun
    | with_reducible assumption | with_reducible refine onOrder_keeps _ ?_ ?_
    | with_reducible refine enterUnit_keeps _ ?_ | with_reducible refine beginRead_keeps _ _ _ ?_
    | with_reducible refine ite_keeps ?_ ?_

theorem statusFound_keeps (holder block : Addr) (status : Byte) (hb : Keeps owed b s) :
    Keeps owed b (statusFound holder block status s) := by
  unfold statusFound
  repeat' first
    | with_reducible assumption | with_reducible refine fetchOrder_keeps _ ?_
    | with_reducible refine parkOn_keeps _ ?_ | with_reducible refine hold_keeps _ _ ?_
    | with_reducible refine ite_keeps ?_ ?_

theorem execBlockStatusRead_keeps (r : ReadResult) (ht : execBlockStatusRead r s = .next t)
    (hb : Keeps owed b s) : Keeps owed b t := by
  unfold execBlockStatusRead at ht
  cases ht
  repeat' first
    | with_reducible assumption | with_reducible refine statusFound_keeps _ _ _ ?_
    | with_reducible refine followGoesOn_keeps _ (fun _ _ => ?_) ?_
    | with_reducible refine accessDone_keeps ?_ | with_reducible refine endRead_keeps _ _ ?_
    | with_reducible refine hold_keeps _ _ ?_ | with_reducible refine endStray_keeps _ ?_
    | with_reducible refine ite_keeps ?_ ?_ | split

theorem validationRead_keeps (r : ReadResult) (detail : Nat) {k : List Byte → State → State}
    (hk : ∀ bs, Keeps owed b (k bs s)) (hb : Keeps owed b s) : Keeps owed b (validationRead r detail k s) := by
  unfold validationRead
  split
  · exact enterFaulted_keeps _ hb
  · split
    · exact endEarly_keeps _ hb
    · split
      · exact endEarly_keeps _ hb
      · exact hk _

theorem headerFound_keeps (bs : List Byte) (hr : ¬ b.countsOrder) (hd : s.oe.doing = .none)
    (hb : Keeps owed b s) : Keeps owed b (headerFound bs s) := by
  have named : Keeps owed b (s.onOrder fun o => { o with
      engine := .validating
      active := some { header := readOrderHeader bs, zones := none, tables := .all .identity } }) :=
    reading_keeps _ hr (fun _ _ _ e => by rw [show _ = _ from hd] at e; cases e) hb
  unfold headerFound
  dsimp only
  split
  · exact endEarly_keeps _ named
  · split
    · exact readZones_keeps _ named
    · exact readCorrections_keeps _ _ hr (fun _ => nofun) rfl named
    · exact enterLoading_keeps _ hr (fun _ => nofun) named

theorem execHeaderRead_keeps (r : ReadResult) (ht : execHeaderRead r s = .next t)
    (hr : s.oe.doing = .header → ¬ b.countsOrder) (hb : Keeps owed b s) : Keeps owed b t := by
  unfold execHeaderRead at ht
  cases ht
  refine ite_keeps (endStray_keeps _ hb) ?_
  split
  · rename_i hd
    have ended := accessDone_keeps (endRead_keeps .header r hb)
    exact settle_keeps (validationRead_keeps _ _ (fun _ => headerFound_keeps _ (hr hd) rfl ended) ended)
  · exact hb

theorem zoneEntriesRead_keeps (addr : Addr) (r : ReadResult) (hb : Keeps owed b s) :
    Keeps owed b (zoneEntriesRead addr r s) := by
  unfold zoneEntriesRead
  repeat' first
    | with_reducible assumption | with_reducible refine beginRead_keeps _ _ _ ?_
    | with_reducible refine logBus_keeps _ ?_ | with_reducible refine ite_keeps ?_ ?_ | split

/-- A zone table that passes its checks issues at each of its points (check 11 of R133). -/
theorem zoneTableCheck_issues {cpr count : Nat} {t : ZoneTable} {mask : HeadSet} {checks : Bool}
    {ref : Option RefConfig} (h : zoneTableCheck cpr count t mask checks ref = none) :
    ∀ x ∈ t.zones, x.burst ≠ 0 := by
  intro x hx hz
  have bad : t.zones.any (fun z => z.burst == 0 || decide (8 < z.burst)) = true :=
    List.any_eq_true.mpr ⟨x, hx, by simp [hz]⟩
  unfold zoneTableCheck at h
  rw [bad] at h
  repeat' split at h
  all_goals simp_all

theorem zonesFound_keeps (a : ActiveOrder) (bs : List Byte) (hr : ¬ b.countsOrder) (hd : s.oe.doing = .none)
    (hb : Keeps owed b s) : Keeps owed b (zonesFound a bs s) := by
  have named : Keeps owed b (s.onOrder fun o =>
      { o with active := some { a with zones := some (readZoneTable bs) } }) :=
    reading_keeps _ hr (fun _ _ _ e => by rw [show _ = _ from hd] at e; cases e) hb
  unfold zonesFound
  dsimp only
  split
  · exact endEarly_keeps _ named
  · rename_i passed
    refine readCorrections_keeps _ _ hr (fun _ z e => ?_) rfl named
    cases e
    exact zoneTableCheck_issues passed

theorem execZoneTableRead_keeps (r : ReadResult) (ht : execZoneTableRead r s = .next t)
    (hr : s.oe.doing = .zoneTable → ¬ b.countsOrder) (hb : Keeps owed b s) : Keeps owed b t := by
  unfold execZoneTableRead at ht
  cases ht
  refine ite_keeps (endStray_keeps _ hb) ?_
  split
  · rename_i a hd _
    have ended := accessDone_keeps (zoneEntriesRead_keeps a.header.zoneAddr r (endRead_keeps .zoneTable r hb))
    exact settle_keeps (validationRead_keeps _ _ (fun _ => zonesFound_keeps _ _ (hr hd) rfl ended) ended)
  · exact hb

theorem tableFound_keeps (a : ActiveOrder) (h : Head) (bs : List Byte) (hr : ¬ b.countsOrder)
    (ha : FlightsSound b → burstsIssue a.zones) (hd : s.oe.doing = .none) (hb : Keeps owed b s) :
    Keeps owed b (tableFound a h bs s) := by
  refine ite_keeps (readCorrections_keeps _ _ hr ha rfl ?_) (endEarly_keeps _ hb)
  exact reading_keeps _ hr (fun _ _ _ e => by rw [show _ = _ from hd] at e; cases e) hb

theorem execCorrectionTableRead_keeps (r : ReadResult) (ht : execCorrectionTableRead r s = .next t)
    (hr : ∀ h, s.oe.doing = .correction h → ¬ b.countsOrder) (hb : Keeps owed b s) : Keeps owed b t := by
  unfold execCorrectionTableRead at ht
  cases ht
  refine ite_keeps (endStray_keeps _ hb) ?_
  split
  · rename_i hd ha
    have ended := accessDone_keeps (endRead_keeps .correctionTable r hb)
    exact settle_keeps (validationRead_keeps _ _
      (fun _ => tableFound_keeps _ _ _ (hr _ hd) (fun w => hb.tables w _ _ hd ha) rfl ended) ended)
  · exact hb

theorem execLoadingEnd_keeps (ht : execLoadingEnd s = .next t)
    (hb : Keeps owed b s) : Keeps owed b t := by
  unfold execLoadingEnd at ht
  cases ht
  repeat' first
    | with_reducible assumption | with_reducible refine settle_keeps ?_
    | with_reducible refine endLoading_keeps ?_ | with_reducible refine ite_keeps ?_ ?_

theorem execDrainComplete_keeps (ht : execDrainComplete s = .next t)
    (hb : Keeps owed b s) : Keeps owed b t := by
  unfold execDrainComplete at ht
  cases ht
  repeat' first
    | with_reducible assumption | with_reducible refine settleDrain_keeps ?_

theorem execCompletionWritten_keeps (ht : execCompletionWritten s = .next t)
    (hb : Keeps owed b s) : Keeps owed b t := by
  unfold execCompletionWritten at ht
  cases ht
  repeat' first
    | exact .same rfl rfl rfl | exact .noTable rfl id nofun
    | exact .noTable rfl nofun nofun
    | with_reducible assumption | with_reducible refine onOrder_keeps _ ?_ ?_
    | with_reducible refine endStray_keeps _ ?_ | with_reducible refine beginWrite_keeps _ _ ?_
    | with_reducible refine logBus_keeps _ ?_ | with_reducible refine ite_keeps ?_ ?_ | split

theorem orderDone_keeps (hb : Keeps owed b s) : Keeps owed b (orderDone s) := by
  unfold orderDone
  refine requestPage_keeps (tgUpd_keeps _ (fun _ => nofun) id (onOrder_keeps _
    (.noTable rfl (fun e => by cases e) (fun _ e => by cases e)) ?_))
  exact ite_keeps (setNotice_keeps _ hb) (setNotice_keeps _ (setNotice_keeps _ hb))

theorem execTerminalStatusWritten_keeps (ht : execTerminalStatusWritten s = .next t)
    (hb : Keeps owed b s) : Keeps owed b t := by
  unfold execTerminalStatusWritten at ht
  cases ht
  repeat' first
    | with_reducible assumption | with_reducible refine orderDone_keeps ?_
    | with_reducible refine settle_keeps ?_ | with_reducible refine routeOrder_keeps _ ?_
    | with_reducible refine endStray_keeps _ ?_ | with_reducible refine logBus_keeps _ ?_
    | with_reducible refine ite_keeps ?_ ?_ | split

theorem execEntryGrant_keeps (p : Producer) (ht : execEntryGrant p s = .next t)
    (hb : Keeps owed b s) : Keeps owed b t := by
  unfold execEntryGrant at ht
  cases ht
  repeat' first
    | with_reducible assumption | with_reducible refine settle_keeps ?_
    | with_reducible refine grantTo_keeps _ ?_ | with_reducible refine ite_keeps ?_ ?_

theorem execOutputStall_keeps (ht : execOutputStall s = .next t)
    (hb : Keeps owed b s) : Keeps owed b t := by
  unfold execOutputStall at ht
  cases ht
  repeat' first
    | with_reducible assumption | with_reducible refine settle_keeps ?_
    | with_reducible refine endCondition_keeps _ ?_ | split

theorem takeEntry_keeps (e : SegmentEntry) (hp : WriterSound b.rw → s.rw.searching) (hb : Keeps owed b s) :
    Keeps owed b (takeEntry e s) :=
    { hb with writer := fun h => .inTake (hp h) ((hb.writer h).noneFilling (hp h)) (.inr (.inl rfl)) }

theorem closeFault_keeps (hp : WriterSound b.rw → s.rw.searching) (hb : Keeps owed b s) :
    Keeps owed b (closeFault s) :=
    { hb with writer := fun h => .inTake (hp h) ((hb.writer h).noneFilling (hp h)) (.inr (.inr (.inl rfl))) }

theorem entryRead_keeps (e : SegmentEntry) (hp : WriterSound b.rw → s.rw.searching) (hb : Keeps owed b s) :
    Keeps owed b (entryRead e s) :=
  ite_keeps
    (nextEntry_keeps hp (endGroup_keeps _ (rwUpd_keeps _ id (fun h => h.congr rfl rfl rfl) hb)))
    (ite_keeps (takeEntry_keeps e hp (endGroup_keeps _ hb)) (closeFault_keeps hp (endGroup_keeps _ hb)))

theorem execSegmentEntryRead_keeps (bytes : List Byte) (ht : execSegmentEntryRead bytes s = .next t)
    (hb : Keeps owed b s) : Keeps owed b t := by
  unfold execSegmentEntryRead at ht
  cases ht
  refine ite_keeps (endStray_keeps _ hb) ?_
  split
  · rename_i hd
    exact entryRead_keeps _ (fun h => (hb.writer h).searches (.inl hd)) hb
  · exact hb

theorem execSegmentTakeWritten_keeps (ht : execSegmentTakeWritten s = .next t)
    (hb : Keeps owed b s) : Keeps owed b t := by
  unfold execSegmentTakeWritten at ht
  cases ht
  refine ite_keeps (endStray_keeps _ hb) ?_
  split
  · exact writerNext_keeps (rwUpd_keeps _ id (fun _ => .still (by rintro (h | h) <;> cases h) rfl)
      (endGroup_keeps _ hb))
  · exact hb

theorem recordDone_keeps (x : Staged) (g : Segment) (hf : s.rw.filling ≠ none) (hb : Keeps owed b s) :
    Keeps owed b (recordDone x g s) := by
  refine removeOldest_keeps (rwUpd_keeps _ (fun h => listSegment_within _ _ h) (fun h => ?_) hb)
  have hp := mt h.noneFilling hf
  unfold listSegment
  refine .still ?_ ?_ <;> repeat' first | exact hp | rfl | split

theorem afterRecord_keeps (x : Staged) (g : Segment)
    (hp : WriterSound b.rw → s.rw.phase = .writing ∧ s.rw.filling ≠ none) (hb : Keeps owed b s) :
    Keeps owed b (afterRecord x g s) := by
  refine ite_keeps (beginGroup_keeps _ { hb with writer := fun h => ⟨fun hs => ?_, hp h⟩ }) (writerNext_keeps hb)
  exact absurd ((hb.writer h).noneFilling hs) (hp h).2

/-- After a record has been written the writer is in the phase in which it wrote, with a FILLING segment. -/
theorem recordDone_writer (x : Staged) (g : Segment) (s : State) :
    (recordDone x g s).rw.phase = s.rw.phase ∧ (recordDone x g s).rw.filling ≠ none := by
  unfold recordDone removeOldest listSegment
  dsimp only
  refine ⟨?_, ?_⟩ <;> repeat' first | rfl | exact Option.some_ne_none _ | split

theorem execRecordWritten_keeps (ht : execRecordWritten s = .next t)
    (hb : Keeps owed b s) : Keeps owed b t := by
  unfold execRecordWritten at ht
  cases ht
  refine ite_keeps (endStray_keeps _ hb) ?_
  split
  · rename_i g x _ hd hf _
    refine settle_keeps (grantFreed_keeps (afterRecord_keeps _ _ (fun h => ?_)
      (recordDone_keeps _ _ (by simp [logBus, hf]) (logBus_keeps _ hb))))
    obtain ⟨hp, hg⟩ := recordDone_writer x g (logBus (.ended .record) s)
    have ha := (hb.writer h).accessFits
    unfold Writer.accessFits at ha
    rw [hd] at ha
    exact ⟨hp.trans ha.1, hg⟩
  · exact hb

theorem execFillUpdateWritten_keeps (ht : execFillUpdateWritten s = .next t)
    (hb : Keeps owed b s) : Keeps owed b t := by
  unfold execFillUpdateWritten at ht
  cases ht
  refine ite_keeps (endStray_keeps _ hb) (ite_keeps ?_ hb)
  have ended : Keeps owed b (endGroup .fillUpdate { s with rw := { s.rw with doing := .none } }) :=
    endGroup_keeps _ (rwUpd_keeps _ id (fun h => h.rested rfl rfl rfl) hb)
  exact ite_keeps (endRecords_keeps ended) (writerNext_keeps ended)

theorem afterClose_keeps (reason : CloseReason)
    (hp : reason = .fault → WriterSound b.rw → s.rw.searching) (hb : Keeps owed b s) :
    Keeps owed b (afterClose reason s) := by
  have free : Keeps owed b { s with rw := { s.rw with doing := .none, filling := none } } :=
    rwUpd_keeps _ id (fun _ => ⟨fun _ => rfl, trivial⟩) hb
  unfold afterClose
  cases reason
  case fault =>
    exact nextEntry_keeps (hp rfl) (rwUpd_keeps _ id (fun h => h.rested rfl rfl rfl) hb)
  case orderEnd => exact ite_keeps (writerNext_keeps (beginCompletion_keeps free)) (writerNext_keeps free)
  all_goals exact writerNext_keeps free

theorem execFullWritten_keeps (ht : execFullWritten s = .next t)
    (hb : Keeps owed b s) : Keeps owed b t := by
  unfold execFullWritten at ht
  cases ht
  refine ite_keeps (endStray_keeps _ hb) ?_
  split
  · rename_i hd
    refine settleStopped_keeps (afterClose_keeps _ (fun hr h => ?_)
      (setNotice_keeps _ (endGroup_keeps _ hb)))
    subst hr
    exact (hb.writer h).searches (.inr (.inr hd))
  · exact hb

theorem failStray_keeps (kind : BusKind) (hb : Keeps owed b s) : Keeps owed b (failStray kind s) := by
  unfold failStray
  repeat' first
    | with_reducible assumption | with_reducible refine logBus_keeps _ ?_
    | with_reducible refine xeUpd_keeps _ rfl rfl rfl rfl ?_

theorem writerFails_keeps (hb : Keeps owed b s) : Keeps owed b (writerFails s) := by
  unfold writerFails
  split
  · exact hb
  · exact busFault_keeps (logBus_keeps _ (breakGroup_keeps _ hb))

theorem orderFails_keeps (hb : Keeps owed b s) : Keeps owed b (orderFails s) := by
  unfold orderFails
  repeat' first
    | exact .same rfl rfl rfl | exact .noTable rfl id nofun
    | exact .noTable rfl nofun nofun
    | with_reducible assumption | with_reducible refine busFault_keeps ?_
    | with_reducible refine onOrder_keeps _ ?_ ?_ | with_reducible refine logBus_keeps _ ?_
    | with_reducible refine ite_keeps ?_ ?_ | split

theorem pageFails_keeps (hb : Keeps owed b s) : Keeps owed b (pageFails s) := by
  unfold pageFails
  dsimp only
  repeat' first
    | with_reducible refine requestPage_keeps ?_
    | with_reducible assumption | with_reducible refine busFault_keeps ?_
    | with_reducible refine settleStopped_keeps ?_ | with_reducible refine beginPage_keeps ?_
    | with_reducible refine logBus_keeps _ ?_ | with_reducible refine ite_keeps ?_ ?_ | split
    | with_reducible refine ucUpd_keeps _ ?_ | with_reducible refine xeUpd_keeps _ rfl rfl rfl rfl ?_

theorem execBusWrite_keeps (source : BusSource) (ht : execBusWrite source s = .next t)
    (hb : Keeps owed b s) : Keeps owed b t := by
  unfold execBusWrite at ht
  cases ht
  repeat' first
    | with_reducible assumption | with_reducible refine pageFails_keeps ?_
    | with_reducible refine orderFails_keeps ?_ | with_reducible refine writerFails_keeps ?_
    | with_reducible refine failStray_keeps _ ?_ | split

theorem takeCell_keeps (c : CellRecord) (hb : Keeps owed b s) : Keeps owed b (takeCell c s) :=
  { hb with
    flights := fun w h => by
      simp only [takeCell, get_of]
      exact hb.flights w h
    grouped := fun w h => by
      simp only [takeCell, get_of]
      exact hb.grouped w h }

theorem wakePresent_keeps (h : Head) (hb : Keeps owed b s) : Keeps owed b (wakePresent h s) := by
  unfold wakePresent
  repeat' first
    | with_reducible assumption | with_reducible refine wakeHead_keeps _ ?_
    | with_reducible refine ite_keeps ?_ ?_

theorem startWakes_keeps (hb : Keeps owed b s) : Keeps owed b (startWakes s) :=
  ucUpd_keeps _ (forHeads_keeps (fun h _ => wakePresent_keeps h) hb)

theorem cellFound_keeps (r : ReadResult) (hb : Keeps owed b s) : Keeps owed b (cellFound r s) := by
  unfold cellFound
  repeat' first
    | with_reducible refine startWakes_keeps ?_
    | with_reducible assumption | with_reducible refine wakePresent_keeps _ ?_
    | with_reducible refine takeCell_keeps _ ?_ | with_reducible refine enterFaulted_keeps _ ?_
    | with_reducible refine forHeads_keeps (fun _ _ _ => ?_) ?_ | with_reducible refine ite_keeps ?_ ?_
    | split

theorem execCellRecordRead_keeps (r : ReadResult) (ht : execCellRecordRead r s = .next t)
    (hb : Keeps owed b s) : Keeps owed b t := by
  unfold execCellRecordRead at ht
  cases ht
  repeat' first
    | with_reducible assumption | with_reducible refine cellFound_keeps _ ?_
    | with_reducible refine endRead_keeps _ _ ?_ | with_reducible refine settle_keeps ?_
    | with_reducible refine endStray_keeps _ ?_ | with_reducible refine ite_keeps ?_ ?_ | split
    | with_reducible refine ucUpd_keeps _ ?_

theorem execUnitRunning_keeps (ht : execUnitRunning s = .next t)
    (hb : Keeps owed b s) : Keeps owed b t := by
  unfold execUnitRunning at ht
  cases ht
  repeat' first
    | with_reducible assumption | with_reducible refine settleUnit_keeps ?_

theorem execStatusPageWritten_keeps (ht : execStatusPageWritten s = .next t)
    (hb : Keeps owed b s) : Keeps owed b t := by
  unfold execStatusPageWritten at ht
  cases ht
  dsimp only
  repeat' first
    | with_reducible assumption | with_reducible refine settleStopped_keeps ?_
    | with_reducible refine beginPage_keeps ?_ | with_reducible refine endStray_keeps _ ?_
    | with_reducible refine logBus_keeps _ ?_ | with_reducible refine ite_keeps ?_ ?_ | split
    | with_reducible refine xeUpd_keeps _ rfl rfl rfl rfl ?_

theorem execStoppedEntryComplete_keeps (ht : execStoppedEntryComplete s = .next t)
    (hb : Keeps owed b s) : Keeps owed b t := by
  unfold execStoppedEntryComplete at ht
  cases ht
  repeat' first
    | with_reducible assumption | with_reducible refine settleStopped_keeps ?_

/-- Every command but the writes of XBASE and NOTE_EN and the cold reset. -/
def Instr.leavesRegisters : Instr → Bool
  | .registerWrite _ _ _ | .noteEnWrite _ | .coldReset _ => false
  | _ => true

/-- A command that is none of the three keeps them all. -/
theorem exec_keeps (c : Instr) (hc : Instr.leavesRegisters c = true) (ht : exec c s = .next t) :
    Keeps 0 s t := by
  have hb := Keeps.refl s
  cases c
  case start => exact execStart_keeps ht hb
  case halt => exact execHalt_keeps ht hb
  case abort => exact execAbort_keeps ht hb
  case resume => exact execResume_keeps ht hb
  case stop => exact execStop_keeps ht hb
  case softReset => exact execSoftReset_keeps _ ht hb
  case nudge v => exact execNudge_keeps v ht hb
  case noteRawWrite => exact execNoteRawWrite_keeps _ ht hb
  case countStep => exact execCountStep_keeps _ _ ht hb
  case illegalTransition => exact execIllegalTransition_keeps ht hb
  case homingTimerExpiry => exact execHomingTimerExpiry_keeps ht hb
  case indexWatchExpiry => exact execIndexWatchExpiry_keeps ht hb
  case seriesComplete => exact execSeriesComplete_keeps _ ht hb
  case readyReceived => exact execReadyReceived_keeps _ ht hb
  case sampleReceived => exact execSampleReceived_keeps _ _ ht hb
  case alertReceived => exact execAlertReceived_keeps _ _ ht hb
  case frameError => exact execFrameError_keeps _ ht hb
  case linkLoss => exact execLinkLoss_keeps _ ht hb
  case wakeTimerExpiry => exact execWakeTimerExpiry_keeps _ ht hb
  case responseTimerExpiry => exact execResponseTimerExpiry_keeps _ ht hb
  case lightJudgedLow => exact execLightJudgedLow_keeps ht hb
  case lightJudgedGood => exact execLightJudgedGood_keeps ht hb
  case monPulseEnd => exact execMonPulseEnd_keeps _ ht hb
  case filterLimit => exact execFilterLimit_keeps _ ht hb
  case referenceDue => exact execReferenceDue_keeps _ ht hb
  case referenceOverdue => exact execReferenceOverdue_keeps _ ht hb
  case passageComplete => exact execPassageComplete_keeps _ ht hb
  case takenLevelChange => exact execTakenLevelChange_keeps _ ht hb
  case settleTimerExpiry => exact execSettleTimerExpiry_keeps ht hb
  case fixtureTimerExpiry => exact execFixtureTimerExpiry_keeps ht hb
  case linkRead => exact execLinkRead_keeps _ ht hb
  case blockStatusRead => exact execBlockStatusRead_keeps _ ht hb
  case headerRead => exact execHeaderRead_keeps _ ht (fun e h => by have := h.2; rw [e] at this; exact this) hb
  case zoneTableRead =>
    exact execZoneTableRead_keeps _ ht (fun e h => by have := h.2; rw [e] at this; exact this) hb
  case correctionTableRead =>
    exact execCorrectionTableRead_keeps _ ht (fun _ e h => by have := h.2; rw [e] at this; exact this) hb
  case loadingEnd => exact execLoadingEnd_keeps ht hb
  case lightGraceExpiry => exact execLightGraceExpiry_keeps ht hb
  case lightWaitDeparture => exact execLightWaitDeparture_keeps ht hb
  case drainComplete => exact execDrainComplete_keeps ht hb
  case completionWritten => exact execCompletionWritten_keeps ht hb
  case terminalStatusWritten => exact execTerminalStatusWritten_keeps ht hb
  case entryGrant => exact execEntryGrant_keeps _ ht hb
  case outputStall => exact execOutputStall_keeps ht hb
  case segmentEntryRead => exact execSegmentEntryRead_keeps _ ht hb
  case segmentTakeWritten => exact execSegmentTakeWritten_keeps ht hb
  case recordWritten => exact execRecordWritten_keeps ht hb
  case fillUpdateWritten => exact execFillUpdateWritten_keeps ht hb
  case fullWritten => exact execFullWritten_keeps ht hb
  case busWrite => exact execBusWrite_keeps _ ht hb
  case cellRecordRead => exact execCellRecordRead_keeps _ ht hb
  case unitRunning => exact execUnitRunning_keeps ht hb
  case statusPageWritten => exact execStatusPageWritten_keeps ht hb
  case stoppedEntryComplete => exact execStoppedEntryComplete_keeps ht hb
  case linkActivity => exact execLinkActivity_keeps _ ht hb
  case registerWrite => exact absurd hc Bool.false_ne_true
  case noteEnWrite => exact absurd hc Bool.false_ne_true
  case coldReset => exact absurd hc Bool.false_ne_true

end Sys2Proof.Machine
end

