-- ==== Sys2Proof/Laws/Onward.lean ====
section
/-! SUPPORT. The scan going on leaves alone what Onward names: one lemma for each operation it goes through. -/

namespace Sys2Proof.Machine

/-! ## The relation -/

theorem SameHead.refl (p : Port) : SameHead p p := ⟨rfl, rfl, rfl, rfl, rfl, rfl, rfl⟩

theorem SameHead.trans {p q r : Port} (a : SameHead p q) (c : SameHead q r) : SameHead p r :=
  ⟨c.state.trans a.state, c.faultRecord.trans a.faultRecord, c.wakeTimer.trans a.wakeTimer,
    c.wakePending.trans a.wakePending, c.config.trans a.config, c.timeoutInForce.trans a.timeoutInForce,
    c.linkWatch.trans a.linkWatch⟩

theorem SameLink.head {p q : Port} (a : SameLink p q) : SameHead p q :=
  ⟨a.state, a.faultRecord, a.wakeTimer, a.wakePending, a.config, a.timeoutInForce, a.linkWatch⟩

theorem Onward.refl (s : State) : Onward s s where
  tracker := rfl
  ports := fun _ => SameHead.refl _
  light := rfl
  tables := fun _ => rfl
  reference := rfl
  waitLines := rfl
  fixtureLines := rfl
  lineConfig := rfl
  activeTag := rfl
  discarded := rfl
  staged := List.prefix_refl _
  highWater := Nat.le_refl _
  cursor := rfl
  segments := rfl
  overflow := rfl
  filling := rfl
  xbaseL := rfl
  xbaseH := rfl
  ucmdCode := rfl
  ucmdResult := rfl
  noteEn := rfl
  time := rfl
  stray := rfl
  notices := fun _ h => h
  bus := List.prefix_refl _
  cause := rfl
  stopping := rfl
  fault := rfl
  cellReading := rfl
  startWakes := rfl
  unit := Or.inl rfl
  pending := rfl

variable {b s t : State}

/-- Steps of `Steady` after the scan went on. -/
theorem Onward.steady (h : Onward b s) (k : Steady s t) : Onward b t where
  tracker := k.tracker.trans h.tracker
  ports := fun j => (h.ports j).trans (k.ports j).head
  light := k.light.trans h.light
  tables := fun j => (k.tables j).trans (h.tables j)
  reference := k.reference.trans h.reference
  waitLines := k.waitLines.trans h.waitLines
  fixtureLines := k.fixtureLines.trans h.fixtureLines
  lineConfig := k.lineConfig.trans h.lineConfig
  activeTag := k.activeTag.trans h.activeTag
  discarded := k.discarded.trans h.discarded
  staged := h.staged.trans k.staged
  highWater := Nat.le_trans h.highWater k.highWater
  cursor := k.cursor.trans h.cursor
  segments := k.segments.trans h.segments
  overflow := k.overflow.trans h.overflow
  filling := k.filling.trans h.filling
  xbaseL := k.xbaseL.trans h.xbaseL
  xbaseH := k.xbaseH.trans h.xbaseH
  ucmdCode := k.ucmdCode.trans h.ucmdCode
  ucmdResult := k.ucmdResult.trans h.ucmdResult
  noteEn := k.noteEn.trans h.noteEn
  time := k.time.trans h.time
  stray := k.stray.trans h.stray
  notices := fun n hn => k.notices n (h.notices n hn)
  bus := h.bus.trans k.bus
  cause := k.cause.trans h.cause
  stopping := k.stopping.trans h.stopping
  fault := k.fault.trans h.fault
  cellReading := k.cellReading.trans h.cellReading
  startWakes := k.startWakes.trans h.startWakes
  unit := by
    rcases h.unit with hu | hu <;> rcases k.unit with ku | ku
    · exact Or.inl (ku.trans hu)
    · exact Or.inr ⟨hu ▸ ku.1, ku.2⟩
    · exact Or.inr ⟨hu.1, ku.trans hu.2⟩
    · exact Or.inr ⟨hu.1, ku.2⟩
  pending := k.pending.trans h.pending

/-! ## The operations that change a port's list or a head's counters -/

theorem onPort_onward (k : Head) (f : Port → Port) (hf : ∀ p, SameHead p (f p)) (h : Onward b s) :
    Onward b (s.onPort k f) :=
  { h with
    ports := fun j => by
      refine (h.ports j).trans ?_
      by_cases hj : j = k
      · subst hj; simpa using hf _
      · rw [onPort_ports, get_set_other _ _ hj]; exact SameHead.refl _ }

theorem onScan_onward (k : Head) (f : PassRecord → PassRecord) (h : Onward b s) : Onward b (s.onScan k f) :=
  h.steady (onPasses_steady _ _ (Steady.refl _))

theorem onHeadRef_onward (k : Head) (f : HeadRef → HeadRef) (h : Onward b s) : Onward b (s.onHeadRef k f) :=
  h.steady (onHeadRef_steady _ _ (Steady.refl _))

theorem onPasses_onward (k : Head) (f : HeadPasses → HeadPasses) (h : Onward b s) :
    Onward b (s.onPasses k f) := h.steady (onPasses_steady _ _ (Steady.refl _))

theorem onCounts_onward (f : Counts → Counts) (h : Onward b s) : Onward b (s.onCounts f) :=
  h.steady (onCounts_steady _ (Steady.refl _))

theorem onQual_onward (k : Head) (f : HeadQual → HeadQual) (hf : ∀ q, (f q).table = q.table) (h : Onward b s) :
    Onward b (s.onQual k f) := h.steady (onQual_steady _ _ hf (Steady.refl _))

theorem sbUpd_onward (x : Staging) (hd : x.discarded = s.sb.discarded) (hs : x.staged = s.sb.staged)
    (hh : x.highWater = s.sb.highWater) (h : Onward b s) : Onward b { s with sb := x } :=
  { h with discarded := hd.trans h.discarded, staged := hs ▸ h.staged, highWater := hh ▸ h.highWater }

theorem ruUpd_onward (x : Revisit) (h : Onward b s) : Onward b { s with ru := x } :=
  h.steady (ru_steady _ (Steady.refl _))

theorem rwUpd_onward (x : Writer) (hc : x.cursor = s.rw.cursor) (hs : x.segments = s.rw.segments)
    (ho : x.overflow = s.rw.overflow) (hf : x.filling = s.rw.filling) (h : Onward b s) :
    Onward b { s with rw := x } :=
  h.steady (rw_steady _ hc hs ho hf (Steady.refl _))

theorem pulse_onward (k : Head) (sig : MonSignal) (h : Onward b s) : Onward b (pulse k sig s) := { h with }

theorem forHeads_onward {f : Head → State → State} (hf : ∀ k s, Onward b s → Onward b (f k s))
    (h : Onward b s) : Onward b (forHeads f s) := hf _ _ (hf _ _ (hf _ _ (hf _ _ h)))

theorem inFreeOrder_onward {α : Type} {f : α → State → State} (hf : ∀ k s, Onward b s → Onward b (f k s))
    (n : Nat) (xs : List α) (h : Onward b s) : Onward b (inFreeOrder f n xs s) := by
  induction n generalizing xs s with
  | zero => exact h
  | succ n ih =>
    unfold inFreeOrder
    split
    · exact h
    · exact ih _ (hf _ _ (h.steady (chosen_steady _ (Steady.refl _))))

theorem forFree_onward {f : Head → State → State} (hf : ∀ k s, Onward b s → Onward b (f k s)) (hs : List Head)
    (h : Onward b s) : Onward b (forFree hs f s) := inFreeOrder_onward hf _ _ h

theorem foldl_onward {α : Type} {f : State → α → State} (hf : ∀ s x, Onward b s → Onward b (f s x)) (l : List α)
    (h : Onward b s) : Onward b (l.foldl f s) := by
  induction l generalizing s with
  | nil => exact h
  | cons x xs ih => exact ih (hf _ _ h)

theorem forHeadsFree_onward {f : Head → State → State} (p : Head → Bool)
    (hf : ∀ k s, Onward b s → Onward b (f k s)) (h : Onward b s) : Onward b (forHeadsFree p f s) :=
  forFree_onward hf _ (foldl_onward (fun _ _ => hf _ _) _ h)

theorem ite_onward {c : Prop} [Decidable c] (h : Onward b s) (k : Onward b t) : Onward b (if c then s else t) := by
  split
  · exact h
  · exact k

/-! ## Every operation the scan goes through -/

theorem beginRecheck_onward (hb : Onward b s) : Onward b (beginRecheck s) := by
  unfold beginRecheck
  repeat' first
    | with_reducible assumption
    | with_reducible refine Onward.steady ?_ (readEntry_steady _ _ (Steady.refl _))
    | with_reducible refine rwUpd_onward _ rfl rfl rfl rfl ?_

theorem starvedRecheck_onward (hb : Onward b s) : Onward b (starvedRecheck s) := by
  unfold starvedRecheck
  repeat' first
    | with_reducible assumption | with_reducible refine beginRecheck_onward ?_
    | with_reducible refine ite_onward ?_ ?_ | split | with_reducible refine rwUpd_onward _ rfl rfl rfl rfl ?_

theorem applyFate_onward (f : CandidateFate) (hb : Onward b s) : Onward b (applyFate f s) := by
  unfold applyFate
  repeat' first
    | with_reducible assumption | with_reducible refine onCounts_onward _ ?_
    | with_reducible refine Onward.steady ?_ (setNotice_steady _ (Steady.refl _)) | split
    | with_reducible refine ruUpd_onward _ ?_

theorem candidate_onward (h : Head) (zone point : Nat) (reasons : Reasons) (hb : Onward b s) :
    Onward b (candidate h zone point reasons s) := by
  unfold candidate
  repeat' first
    | with_reducible assumption | with_reducible refine applyFate_onward _ ?_ | split

theorem candidates_onward (h : Head) (reasons : Reasons) (l : List (Nat × Nat)) (hb : Onward b s) :
    Onward b (candidates h reasons l s) := by
  induction l generalizing s with
  | nil => exact hb
  | cons x xs ih => exact ih (candidate_onward _ _ _ _ hb)

theorem resolution_onward (hb : Onward b s) : Onward b (resolution s) := by
  unfold resolution
  repeat' first
    | with_reducible assumption | with_reducible refine onCounts_onward _ ?_

theorem dropPoint_onward (h : Head) (point : Nat) (pass : PassId) (step : Nat) (hb : Onward b s) :
    Onward b (dropPoint h point pass step s) := by
  unfold dropPoint
  repeat' first
    | with_reducible assumption | (intro _; exact ⟨rfl, rfl, rfl, rfl, rfl, rfl, rfl⟩)
    | with_reducible refine onPort_onward _ _ ?_ ?_

theorem offerPortRecord_onward (h : Head) (r : GapRecord) (hb : Onward b s) :
    Onward b (offerPortRecord h r s) := by
  unfold offerPortRecord
  refine ite_onward (hb.steady (takeRecord_steady _ (Steady.refl _))) (onPort_onward _ _ ?_ hb)
  intro p
  unfold Port.hold
  split <;> exact ⟨rfl, rfl, rfl, rfl, rfl, rfl, rfl⟩

theorem groupsRemoved_onward (h : Head) (gs : List InFlight) (hb : Onward b s) :
    Onward b (groupsRemoved h gs s) := by
  unfold groupsRemoved
  repeat' first
    | with_reducible assumption | with_reducible refine Onward.steady ?_ (offerGap_steady _ (Steady.refl _))
    | with_reducible refine ite_onward ?_ ?_

theorem handWithheld_onward (h : Head) (reason : GapReason) (reasons : Reasons) (pass : PassId) (ps : List (Nat × Nat)) (hb : Onward b s) :
    Onward b (handWithheld h reason reasons pass ps s) := by
  unfold handWithheld
  dsimp only
  repeat' first
    | with_reducible assumption | with_reducible refine offerPortRecord_onward _ _ ?_
    | with_reducible refine Onward.steady ?_ (offerGap_steady _ (Steady.refl _))
    | with_reducible refine candidates_onward _ _ _ ?_ | split

theorem suspendScan_onward (h : Head) (hb : Onward b s) : Onward b (suspendScan h s) := by
  unfold suspendScan
  repeat' first
    | with_reducible assumption | with_reducible refine handWithheld_onward _ _ _ _ _ ?_
    | with_reducible refine onScan_onward _ _ ?_ | split

theorem zoneEntry_onward (h : Head) (left : Option ExpClass) (new : ExpClass) (hb : Onward b s) :
    Onward b (zoneEntry h left new s) := by
  unfold zoneEntry
  dsimp only
  repeat' first
    | with_reducible assumption | (intro _; rfl) | with_reducible refine onQual_onward _ _ ?_ ?_

theorem enterZone_onward (t : ZoneTable) (h : Head) (k : Nat) (hb : Onward b s) :
    Onward b (enterZone t h k s) := by
  unfold enterZone
  dsimp only
  repeat' first
    | with_reducible assumption | with_reducible refine zoneEntry_onward _ _ _ ?_
    | with_reducible refine onScan_onward _ _ ?_ | with_reducible refine ite_onward ?_ ?_ | split

theorem scanPointDue_onward (h : Head) (zone : Nat) (r : Request) (hb : Onward b s) :
    Onward b (scanPointDue h zone r s) := by
  unfold scanPointDue
  dsimp only
  repeat' first
    | with_reducible assumption | (intro _; exact ⟨rfl, rfl, rfl, rfl, rfl, rfl, rfl⟩)
    | with_reducible refine candidate_onward _ _ _ _ ?_ | with_reducible refine pulse_onward _ _ ?_
    | with_reducible refine onCounts_onward _ ?_ | with_reducible refine onPort_onward _ _ ?_ ?_
    | with_reducible refine ite_onward ?_ ?_

theorem refPointDue_onward (h : Head) (r : Request) (hb : Onward b s) : Onward b (refPointDue h r s) := by
  unfold refPointDue
  repeat' first
    | with_reducible assumption | (intro _; exact ⟨rfl, rfl, rfl, rfl, rfl, rfl, rfl⟩)
    | with_reducible refine pulse_onward _ _ ?_ | with_reducible refine onPasses_onward _ _ ?_
    | with_reducible refine onPort_onward _ _ ?_ ?_ | with_reducible refine ite_onward ?_ ?_

theorem startScan_onward (t : ZoneTable) (h : Head) (hb : Onward b s) : Onward b (startScan t h s) := by
  unfold startScan
  dsimp only
  repeat' first
    | with_reducible assumption | with_reducible refine onScan_onward _ _ ?_

theorem actInScan_onward (t : ZoneTable) (h : Head) (position : Nat) (rev : Rev) (hb : Onward b s) :
    Onward b (actInScan t h position rev s) := by
  unfold actInScan
  dsimp only
  repeat' first
    | with_reducible assumption | with_reducible refine scanPointDue_onward _ _ _ ?_
    | with_reducible refine enterZone_onward _ _ _ ?_ | with_reducible refine onScan_onward _ _ ?_
    | with_reducible refine ite_onward ?_ ?_ | split

theorem endScan_onward (t : ZoneTable) (h : Head) (rev : Rev) (hb : Onward b s) :
    Onward b (endScan t h rev s) := by
  unfold endScan
  dsimp only
  repeat' first
    | with_reducible assumption | with_reducible refine actInScan_onward _ _ _ _ ?_
    | with_reducible refine startScan_onward _ _ ?_
    | with_reducible refine Onward.steady ?_ (offerGap_steady _ (Steady.refl _))
    | with_reducible refine onScan_onward _ _ ?_ | with_reducible refine ite_onward ?_ ?_

theorem scanForward_onward (t : ZoneTable) (h : Head) (offset : Nat) (rev : Rev) (hb : Onward b s) :
    Onward b (scanForward t h offset rev s) := by
  unfold scanForward
  dsimp only
  repeat' first
    | with_reducible assumption | with_reducible refine endScan_onward _ _ _ ?_
    | with_reducible refine actInScan_onward _ _ _ _ ?_ | with_reducible refine startScan_onward _ _ ?_
    | with_reducible refine onScan_onward _ _ ?_ | with_reducible refine ite_onward ?_ ?_ | split

theorem actInRef_onward (c : RefConfig) (h : Head) (position : Nat) (rev : Rev) (hb : Onward b s) :
    Onward b (actInRef c h position rev s) := by
  unfold actInRef
  dsimp only
  repeat' first
    | with_reducible assumption | with_reducible refine refPointDue_onward _ _ ?_
    | with_reducible refine Onward.steady ?_ (onRef_steady _ _ (Steady.refl _))
    | with_reducible refine ite_onward ?_ ?_

theorem startRef_onward (c : RefConfig) (h : Head) (hb : Onward b s) : Onward b (startRef c h s) := by
  unfold startRef
  dsimp only
  repeat' first
    | with_reducible assumption | with_reducible refine Onward.steady ?_ (onRef_steady _ _ (Steady.refl _))

theorem endRef_onward (h : Head) (hb : Onward b s) : Onward b (endRef h s) := by
  unfold endRef
  dsimp only
  repeat' first
    | with_reducible assumption | with_reducible refine onHeadRef_onward _ _ ?_
    | with_reducible refine Onward.steady ?_ (onRef_steady _ _ (Steady.refl _))

theorem refForward_onward (c : RefConfig) (h : Head) (offset : Nat) (rev : Rev) (hb : Onward b s) :
    Onward b (refForward c h offset rev s) := by
  unfold refForward
  dsimp only
  repeat' first
    | with_reducible assumption | with_reducible refine endRef_onward _ ?_
    | with_reducible refine startRef_onward _ _ ?_ | with_reducible refine actInRef_onward _ _ _ _ ?_
    | with_reducible refine Onward.steady ?_ (onRef_steady _ _ (Steady.refl _))
    | with_reducible refine ite_onward ?_ ?_ | split

theorem headForward_onward (blade : Nat) (rev : Rev) (h : Head) (hb : Onward b s) :
    Onward b (headForward blade rev h s) := by
  unfold headForward
  dsimp only
  repeat' first
    | with_reducible assumption | with_reducible refine refForward_onward _ _ _ _ ?_
    | with_reducible refine scanForward_onward _ _ _ _ ?_ | split

theorem angleArrival_onward (forward : Bool) (blade : Nat) (rev : Rev) (hb : Onward b s) :
    Onward b (angleArrival forward blade rev s) := by
  unfold angleArrival
  repeat' first
    | with_reducible assumption | with_reducible refine headForward_onward _ _ _ ?_
    | with_reducible refine forHeadsFree_onward _ (fun _ _ _ => ?_) ?_
    | with_reducible refine forHeads_onward (fun _ _ _ => ?_) ?_
    | with_reducible refine onPasses_onward _ _ ?_ | with_reducible refine ite_onward ?_ ?_

theorem outcomeCandidate_onward (h : Head) (e : InFlight) (reasons : Reasons) (hb : Onward b s) :
    Onward b (outcomeCandidate h e reasons s) := by
  unfold outcomeCandidate
  repeat' first
    | with_reducible assumption | with_reducible refine candidate_onward _ _ _ _ ?_
    | with_reducible refine ite_onward ?_ ?_

theorem stageSample_onward (h : Head) (r : SampleRecord) (hb : Onward b s) : Onward b (stageSample h r s) := by
  unfold stageSample
  exact ite_onward (hb.steady (joinRecord_steady _ (offerGap_steady _ (Steady.refl _)))) hb

theorem dropSample_onward (h : Head) (e : InFlight) (bad : Bool) (hb : Onward b s) :
    Onward b (dropSample h e bad s) := by
  unfold dropSample
  dsimp only
  have flagged : Onward b { s with sb := { s.sb with dropFlag := true } } := sbUpd_onward _ rfl rfl rfl hb
  exact outcomeCandidate_onward _ _ _
    (dropPoint_onward _ _ _ _ (onCounts_onward _ (flagged.steady (setNotice_steady _ (Steady.refl _)))))

theorem countRejected_onward (h : Head) (e : InFlight) (hb : Onward b s) : Onward b (countRejected h e s) := by
  unfold countRejected
  repeat' first
    | with_reducible assumption | with_reducible refine outcomeCandidate_onward _ _ _ ?_
    | with_reducible refine onCounts_onward _ ?_

theorem countAccepted_onward (e : InFlight) (hb : Onward b s) : Onward b (countAccepted e s) := by
  unfold countAccepted
  dsimp only
  repeat' first
    | with_reducible assumption | with_reducible refine resolution_onward ?_
    | with_reducible refine onCounts_onward _ ?_ | with_reducible refine ite_onward ?_ ?_

theorem accountOutcome_onward (h : Head) (e : InFlight) (x : Exposure) (cause : RejectCause) (hb : Onward b s) :
    Onward b (accountOutcome h e x cause s) := by
  unfold accountOutcome
  dsimp only
  repeat' first
    | with_reducible assumption | with_reducible refine countAccepted_onward _ ?_
    | with_reducible refine countRejected_onward _ _ ?_ | with_reducible refine dropSample_onward _ _ _ ?_
    | with_reducible refine stageSample_onward _ _ ?_ | with_reducible refine ite_onward ?_ ?_ | split

theorem referenceOutcome_onward (h : Head) (good : Bool) (value : Int) (hb : Onward b s) :
    Onward b (referenceOutcome h good value s) := by
  unfold referenceOutcome
  repeat' first
    | with_reducible assumption | with_reducible refine onHeadRef_onward _ _ ?_

theorem qualify_onward (h : Head) (e : InFlight) (xs : List Exposure) (hb : Onward b s) :
    Onward b (qualify h e xs s) := by
  unfold qualify
  dsimp only
  refine ite_onward (referenceOutcome_onward _ _ _ (pulse_onward _ _ hb))
    (accountOutcome_onward _ _ _ _ (onQual_onward _ _ ?_ (pulse_onward _ _ hb)))
  intro q
  unfold HeadQual.counted
  repeat' split
  all_goals rfl

theorem parkRecheck_onward (hb : Onward b s) : Onward b (parkRecheck s) := by
  unfold parkRecheck
  by_cases hu : s.uc.unit = .parked
  · rw [if_pos hu]
    cases s.oe.doing <;> cases s.oe.park
    all_goals first
      | exact hb
      | exact hb.steady (followLink_steady _ (Steady.refl _))
      | exact hb.steady (onOrder_steady _ rfl (Steady.refl _))
  · rw [if_neg hu]
    exact hb

theorem countDue_onward (h : Head) (hb : Onward b s) : Onward b (countDue h s) := by
  unfold countDue
  repeat' first
    | with_reducible assumption | with_reducible refine onHeadRef_onward _ _ ?_
    | with_reducible refine ite_onward ?_ ?_ | split

theorem countGrace_onward (hb : Onward b s) : Onward b (countGrace s) := by
  unfold countGrace
  repeat' first
    | with_reducible assumption
    | with_reducible refine Onward.steady ?_ (onOrder_steady _ rfl (Steady.refl _))
    | with_reducible refine ite_onward ?_ ?_

theorem countStall_onward (hb : Onward b s) : Onward b (countStall s) := by
  unfold countStall
  repeat' first
    | with_reducible assumption | with_reducible refine ite_onward ?_ ?_ | split
    | with_reducible refine sbUpd_onward _ rfl rfl rfl ?_

theorem takeOne_onward (cs : List EndSlot) (hb : Onward b s) : Onward b (takeOne cs s) := by
  unfold takeOne
  repeat' first
    | with_reducible assumption
    | with_reducible refine Onward.steady ?_ (endCondition_steady _ (Steady.refl _))
    | with_reducible refine Onward.steady ?_ (chosen_steady _ (Steady.refl _)) | split

theorem countRevolution_onward (hb : Onward b s) : Onward b (countRevolution s) := by
  unfold countRevolution
  dsimp only
  repeat' first
    | with_reducible assumption | with_reducible refine takeOne_onward _ ?_
    | with_reducible refine countStall_onward ?_ | with_reducible refine countGrace_onward ?_
    | with_reducible refine countDue_onward _ ?_
    | with_reducible refine forHeads_onward (fun _ _ _ => ?_) ?_

theorem indexDelivered_onward (forward : Bool) (hb : Onward b s) : Onward b (indexDelivered forward s) := by
  unfold indexDelivered
  dsimp only
  repeat' first
    | with_reducible assumption | with_reducible refine countRevolution_onward ?_
    | with_reducible refine parkRecheck_onward ?_ | with_reducible refine starvedRecheck_onward ?_
    | with_reducible refine ite_onward ?_ ?_

theorem takeFilterLimit_onward (h : Head) (hb : Onward b s) : Onward b (takeFilterLimit h s) := by
  unfold takeFilterLimit
  dsimp only
  repeat' first
    | with_reducible assumption | (intro _; rfl)
    | with_reducible refine Onward.steady ?_ (endCondition_steady _ (Steady.refl _))
    | with_reducible refine suspendScan_onward _ ?_ | with_reducible refine onQual_onward _ _ ?_ ?_
    | with_reducible refine Onward.steady ?_ (setNotice_steady _ (Steady.refl _)) | split

theorem settleFilter_onward (h : Head) (hb : Onward b s) : Onward b (settleFilter h s) := by
  unfold settleFilter
  repeat' first
    | with_reducible assumption | with_reducible refine takeFilterLimit_onward _ ?_
    | with_reducible refine ite_onward ?_ ?_

theorem completeGroup_onward (h : Head) (burst : Nat) (hb : Onward b s) :
    Onward b (completeGroup h burst s) := by
  unfold completeGroup
  dsimp only
  repeat' first
    | with_reducible assumption | (intro _; exact ⟨rfl, rfl, rfl, rfl, rfl, rfl, rfl⟩)
    | with_reducible refine settleFilter_onward _ ?_ | with_reducible refine qualify_onward _ _ _ ?_
    | with_reducible refine groupsRemoved_onward _ _ ?_ | with_reducible refine onPort_onward _ _ ?_ ?_
    | with_reducible refine ite_onward ?_ ?_ | split

theorem retire_onward (h : Head) (x : Exposure) (e : InFlight) (hb : Onward b s) :
    Onward b (retire h x e s) := by
  unfold retire
  dsimp only
  repeat' first
    | with_reducible assumption | (intro _; exact ⟨rfl, rfl, rfl, rfl, rfl, rfl, rfl⟩)
    | with_reducible refine completeGroup_onward _ _ ?_ | with_reducible refine onPort_onward _ _ ?_ ?_
    | with_reducible refine ite_onward ?_ ?_

end Sys2Proof.Machine
end

