-- ==== Sys2Proof/Laws/PerInstr.lean ====
section
/-! SUPPORT. The family Checked: a well-formed command brings at least the bytes of the layout it is read by, command by command. -/

namespace Sys2Proof.Laws.Checked

/-- The bytes a host-memory read brought. -/
def bytesOf : ReadResult → Option (List Byte)
  | .data bytes => some bytes
  | .error => none

/-- The bytes that a command brings as an operand. -/
def broughtBytes : Instr → Option (List Byte)
  | .linkRead r | .blockStatusRead r | .headerRead r | .zoneTableRead r | .correctionTableRead r
  | .cellRecordRead r => bytesOf r
  | .segmentEntryRead bytes => some bytes
  | _ => none

/-- The length of the fixed part of the layout (11) that a command's bytes are read by. -/
def layoutLength : Instr → Nat
  | .linkRead _ => 8
  | .blockStatusRead _ => 1
  | .headerRead _ => 336
  | .zoneTableRead _ => 8
  | .correctionTableRead _ => 1036
  | .segmentEntryRead bytes => if bytes.getD 0 0 = 1 then 13 else 1
  | .cellRecordRead _ => 1024
  | _ => 0

/-- A well-formed command brings the fixed part of its layout whole. -/
def Statement (i : Instr) : Prop :=
  i.wellFormed = true → ∀ bytes, broughtBytes i = some bytes → layoutLength i ≤ bytes.length

/-- A read that ended with data of the checked length brings that many bytes. -/
theorem length_of_hasLength (n : Nat) (r : ReadResult) (bytes : List Byte) (h : r.hasLength n = true)
    (hb : bytesOf r = some bytes) : bytes.length = n := by
  cases r with
  | data bs =>
    simp only [bytesOf, Option.some.injEq] at hb
    subst hb
    simpa [ReadResult.hasLength] using h
  | error => simp [bytesOf] at hb

/-- A zone table that was read brings at least its header. -/
theorem length_of_isZoneTable (r : ReadResult) (bytes : List Byte) (h : r.isZoneTable = true)
    (hb : bytesOf r = some bytes) : 8 ≤ bytes.length := by
  cases r with
  | data bs =>
    simp only [bytesOf, Option.some.injEq] at hb
    subst hb
    simp only [ReadResult.isZoneTable] at h
    split at h <;> simp only [beq_iff_eq] at h <;> omega
  | error => simp [bytesOf] at hb

/-- A command that brings no bytes meets the statement. -/
theorem of_nothing (i : Instr) (h : broughtBytes i = none) : Statement i := by
  intro _ bytes hb
  rw [h] at hb
  cases hb

theorem start : Statement .start := of_nothing _ rfl

theorem halt : Statement .halt := of_nothing _ rfl

theorem abort : Statement .abort := of_nothing _ rfl

theorem resume : Statement .resume := of_nothing _ rfl

theorem stop : Statement .stop := of_nothing _ rfl

theorem softReset (levels : Levels) : Statement (.softReset levels) := of_nothing _ rfl

theorem nudge (value : Word) : Statement (.nudge value) := of_nothing _ rfl

theorem noteRawWrite (value : Word) : Statement (.noteRawWrite value) := of_nothing _ rfl

theorem noteEnWrite (value : Word) : Statement (.noteEnWrite value) := of_nothing _ rfl

theorem registerWrite (offset : BitVec 12) (enables : BitVec 4) (value : Word) : Statement (.registerWrite offset enables value) := of_nothing _ rfl

theorem coldReset (levels : Levels) : Statement (.coldReset levels) := of_nothing _ rfl

theorem countStep (phase : Phase) (index : Bool) : Statement (.countStep phase index) := of_nothing _ rfl

theorem illegalTransition : Statement .illegalTransition := of_nothing _ rfl

theorem homingTimerExpiry : Statement .homingTimerExpiry := of_nothing _ rfl

theorem indexWatchExpiry : Statement .indexWatchExpiry := of_nothing _ rfl

theorem seriesComplete (h : Head) : Statement (.seriesComplete h) := of_nothing _ rfl

theorem readyReceived (h : Head) : Statement (.readyReceived h) := of_nothing _ rfl

theorem sampleReceived (h : Head) (m : Sample) : Statement (.sampleReceived h m) := of_nothing _ rfl

theorem alertReceived (h : Head) (code : Byte) : Statement (.alertReceived h code) := of_nothing _ rfl

theorem frameError (h : Head) : Statement (.frameError h) := of_nothing _ rfl

theorem linkLoss (h : Head) : Statement (.linkLoss h) := of_nothing _ rfl

theorem wakeTimerExpiry (h : Head) : Statement (.wakeTimerExpiry h) := of_nothing _ rfl

theorem responseTimerExpiry (h : Head) : Statement (.responseTimerExpiry h) := of_nothing _ rfl

theorem lightJudgedLow : Statement .lightJudgedLow := of_nothing _ rfl

theorem lightJudgedGood : Statement .lightJudgedGood := of_nothing _ rfl

theorem monPulseEnd (m : Mon) : Statement (.monPulseEnd m) := of_nothing _ rfl

theorem filterLimit (h : Head) : Statement (.filterLimit h) := of_nothing _ rfl

theorem referenceDue (h : Head) : Statement (.referenceDue h) := of_nothing _ rfl

theorem referenceOverdue (h : Head) : Statement (.referenceOverdue h) := of_nothing _ rfl

theorem passageComplete (h : Head) : Statement (.passageComplete h) := of_nothing _ rfl

theorem takenLevelChange (line : Line) : Statement (.takenLevelChange line) := of_nothing _ rfl

theorem settleTimerExpiry : Statement .settleTimerExpiry := of_nothing _ rfl

theorem fixtureTimerExpiry : Statement .fixtureTimerExpiry := of_nothing _ rfl

theorem linkRead (r : ReadResult) : Statement (.linkRead r) :=
  fun hw bytes hb => Nat.le_of_eq (length_of_hasLength _ r bytes hw hb).symm

theorem blockStatusRead (r : ReadResult) : Statement (.blockStatusRead r) :=
  fun hw bytes hb => Nat.le_of_eq (length_of_hasLength _ r bytes hw hb).symm

theorem headerRead (r : ReadResult) : Statement (.headerRead r) :=
  fun hw bytes hb => Nat.le_of_eq (length_of_hasLength _ r bytes hw hb).symm

theorem zoneTableRead (r : ReadResult) : Statement (.zoneTableRead r) :=
  fun hw bytes hb => length_of_isZoneTable r bytes hw hb

theorem correctionTableRead (r : ReadResult) : Statement (.correctionTableRead r) :=
  fun hw bytes hb => Nat.le_of_eq (length_of_hasLength _ r bytes hw hb).symm

theorem loadingEnd : Statement .loadingEnd := of_nothing _ rfl

theorem lightGraceExpiry : Statement .lightGraceExpiry := of_nothing _ rfl

theorem lightWaitDeparture : Statement .lightWaitDeparture := of_nothing _ rfl

theorem drainComplete : Statement .drainComplete := of_nothing _ rfl

theorem completionWritten : Statement .completionWritten := of_nothing _ rfl

theorem terminalStatusWritten : Statement .terminalStatusWritten := of_nothing _ rfl

theorem entryGrant (p : Producer) : Statement (.entryGrant p) := of_nothing _ rfl

theorem outputStall : Statement .outputStall := of_nothing _ rfl

theorem segmentEntryRead (bytes : List Byte) : Statement (.segmentEntryRead bytes) := by
  intro hw b hb
  cases hb
  exact Nat.le_of_eq (beq_iff_eq.mp hw).symm

theorem segmentTakeWritten : Statement .segmentTakeWritten := of_nothing _ rfl

theorem recordWritten : Statement .recordWritten := of_nothing _ rfl

theorem fillUpdateWritten : Statement .fillUpdateWritten := of_nothing _ rfl

theorem fullWritten : Statement .fullWritten := of_nothing _ rfl

theorem busWrite (source : BusSource) : Statement (.busWrite source) := of_nothing _ rfl

theorem cellRecordRead (r : ReadResult) : Statement (.cellRecordRead r) :=
  fun hw bytes hb => Nat.le_of_eq (length_of_hasLength _ r bytes hw hb).symm

theorem unitRunning : Statement .unitRunning := of_nothing _ rfl

theorem statusPageWritten : Statement .statusPageWritten := of_nothing _ rfl

theorem stoppedEntryComplete : Statement .stoppedEntryComplete := of_nothing _ rfl

theorem linkActivity (h : Head) : Statement (.linkActivity h) := of_nothing _ rfl

end Sys2Proof.Laws.Checked
end

