-- ==== Sys2Proof/Laws/Steps.lean ====
section
/-! SUPPORT. What starts a step, said once: the entries to LIGHT_WAIT and ACQUIRING, a handshake's result, the end of ARMING, and when no step of the part's own follows. -/

namespace Sys2Proof.Machine

/-! ## Room -/

/-- A full buffer has no room for a record that is no sample (R152). -/
theorem hasRoom_full (r : Record) (s : State) (hr : r.isSample = false) (h : 1024 ≤ s.sb.staged.length) :
    s.hasRoom r = false := by
  unfold State.hasRoom
  rw [hr]
  exact decide_eq_false (Nat.not_lt.2 h)

/-! ## The entries to LIGHT_WAIT and ACQUIRING (R137, R138, R140) -/

/-- All scan records disarmed: the Trigger Generator as the disarming leaves it, and what gaps offered change. -/
theorem disarmScans_passes (s : State) :
    ∃ ports sb rw xe free, disarmScans s
      = { s with
          tg := (forHeads disarmScanOnly s).tg, ports := ports, sb := sb, rw := rw, xe := xe, free := free } := by
  unfold disarmScans
  obtain ⟨ports, sb, rw, xe, free, e⟩ := offerGaps_onlyStaging (forHeads disarmScanOnly s)
  exact ⟨ports, sb, rw, xe, free, e⟩

/-- The entry to LIGHT_WAIT: the engine's three fields, and no scan record armed. -/
theorem enterLightWait_spec (interrupting : Bool) (s : State) :
    (enterLightWait interrupting s).oe = { s.oe with engine := .lightWait, grace := 0, interrupting := interrupting }
    ∧ PassesDisarmed s (enterLightWait interrupting s) ∧ (enterLightWait interrupting s).sf = s.sf
    ∧ (enterLightWait interrupting s).rc = s.rc ∧ (enterLightWait interrupting s).qu = s.qu := by
  unfold enterLightWait
  obtain ⟨_, _, _, _, _, e⟩ := disarmScans_passes
    (s.onOrder fun o => { o with engine := .lightWait, grace := 0, interrupting := interrupting })
  rw [e]
  refine ⟨rfl, ⟨rfl, fun h => ?_, rfl, fun h => ?_⟩, rfl, rfl, rfl⟩
  · cases h <;> exact ⟨rfl, rfl, rfl, rfl⟩
  · cases h <;> rfl

/-- An operation on the passes of each working head changes the passes of the working heads alone. -/
theorem forWorking_passes (f : Head → State → State) (s : State) (g : Head → HeadPasses → HeadPasses)
    (hf : ∀ h u, u.oe.active = s.oe.active → f h u = u.onPasses h (g h)) :
    ∃ tg, forWorking f s = { s with tg := tg } ∧ tg.zones = s.tg.zones
      ∧ ∀ h, tg.heads.get h = if s.inOrder h then g h (s.tg.heads.get h) else s.tg.heads.get h := by
  have step : ∀ (h : Head) (tg : TriggerGen), ∃ tg',
      (if State.inOrder { s with tg := tg } h then f h { s with tg := tg } else { s with tg := tg })
        = { s with tg := tg' }
      ∧ tg'.zones = tg.zones ∧ (∀ k, k ≠ h → tg'.heads.get k = tg.heads.get k)
      ∧ tg'.heads.get h = if s.inOrder h then g h (tg.heads.get h) else tg.heads.get h := by
    intro h tg
    rw [show State.inOrder { s with tg := tg } h = s.inOrder h from rfl]
    split
    · rw [hf h { s with tg := tg } rfl]
      refine ⟨_, rfl, rfl, fun k hk => ?_, ?_⟩
      · cases h <;> cases k <;> first | rfl | exact absurd rfl hk
      · cases h <;> rfl
    · exact ⟨tg, rfl, rfl, fun _ _ => rfl, rfl⟩
  obtain ⟨t0, e0, z0, o0, m0⟩ := step .h0 s.tg
  obtain ⟨t1, e1, z1, o1, m1⟩ := step .h1 t0
  obtain ⟨t2, e2, z2, o2, m2⟩ := step .h2 t1
  obtain ⟨t3, e3, z3, o3, m3⟩ := step .h3 t2
  have e0' : (if s.inOrder .h0 then f .h0 s else s) = { s with tg := t0 } := e0
  refine ⟨t3, ?_, by rw [z3, z2, z1, z0], fun h => ?_⟩
  · unfold forWorking forHeads
    dsimp only
    rw [e0', e1, e2, e3]
  · cases h
    · rw [o3 _ (by decide), o2 _ (by decide), o1 _ (by decide), m0]
    · rw [o3 _ (by decide), o2 _ (by decide), m1, o0 _ (by decide)]
    · rw [o3 _ (by decide), m2, o1 _ (by decide), o0 _ (by decide)]
    · rw [m3, o2 _ (by decide), o1 _ (by decide), o0 _ (by decide)]

/-- A head's passes armed for the R normal passes of a step (R25). -/
theorem armNormal_passes (s : State) (h : Head) (u : State) (hu : u.oe.active = s.oe.active) :
    armNormal h u = u.onPasses h fun p =>
      { p with scan := .armedFor ⟨.normal, 0⟩ s.revolutions, seriesOpen := true, scanEnded := false } := by
  have : u.revolutions = s.revolutions := by
    unfold State.revolutions
    rw [hu]
  unfold armNormal armScan
  rw [this]

/-- A SCAN order enters ACQUIRING while the light condition is absent. -/
theorem enterAcquiring_armed (s : State) (hk : s.orderKind = some .scan) (hl : s.light.present = false) :
    ∃ tg, enterAcquiring s = { s with
        tg := tg
        oe := { s.oe with engine := .acquiring }
        ru := { current := [], next := [], round := 0, phase := .acquiring, awaited := .all false, held := none,
                unresolvedStaged := 0 } }
      ∧ tg.zones = s.tg.zones
      ∧ ∀ h, tg.heads.get h = if s.inOrder h
          then { s.tg.heads.get h with
            scan := .armedFor ⟨.normal, 0⟩ s.revolutions, seriesOpen := true, scanEnded := false }
          else s.tg.heads.get h := by
  unfold enterAcquiring
  rw [hl, if_neg (by decide), if_pos hk]
  obtain ⟨tg, e, z, m⟩ := forWorking_passes armNormal (enterEngine .acquiring s) _
    (armNormal_passes (enterEngine .acquiring s))
  rw [e]
  exact ⟨tg, rfl, z, m⟩

/-- The entry to ACQUIRING leaves the line interface, the Reference Check Unit and the Qualifier as they stand. -/
theorem enterAcquiring_blocks (s : State) :
    (enterAcquiring s).sf = s.sf ∧ (enterAcquiring s).rc = s.rc ∧ (enterAcquiring s).qu = s.qu := by
  unfold enterAcquiring
  split
  · exact (enterLightWait_spec false s).2.2
  · split
    · obtain ⟨_, e, _, _⟩ := forWorking_passes armNormal (enterEngine .acquiring s) _
        (armNormal_passes (enterEngine .acquiring s))
      rw [e]
      exact ⟨rfl, rfl, rfl⟩
    · exact ⟨rfl, rfl, rfl⟩

/-- A SCAN order enters ACQUIRING, or LIGHT_WAIT where the light condition is present. -/
theorem enterAcquiring_spec (s : State) (a : ActiveOrder) (ha : s.oe.active = some a)
    (hk : a.header.kind = some .scan) : AcquiringEntered a.header s.oe s (enterAcquiring s) := by
  have mask : s.mask = a.header.mask := by simp [State.mask, ha]
  have revs : s.revolutions = a.header.revolutions := by simp [State.revolutions, ha]
  have kind : s.orderKind = some .scan := by simp [State.orderKind, ha, hk]
  have working : ∀ h, s.inOrder h = true ↔ a.header.mask.get h = true ∧ s.oe.excluded.get h = false := by
    intro h
    simp [State.inOrder, mask]
  refine ⟨fun hl => ?_, fun hl => ?_⟩
  · obtain ⟨tg, e, z, m⟩ := enterAcquiring_armed s kind hl
    rw [revs] at m
    rw [e]
    refine ⟨rfl, ⟨rfl, fun h m1 m2 => ?_, z, fun h => ?_⟩, fun h hn => ?_⟩
    · unfold State.scan
      dsimp only
      rw [m h, if_pos ((working h).2 ⟨m1, m2⟩)]
      exact ⟨rfl, rfl⟩
    · unfold State.ref
      dsimp only
      rw [m h]
      split <;> rfl
    · dsimp only
      rw [m h, if_neg fun c => hn ((working h).1 c)]
  · unfold enterAcquiring
    rw [if_pos hl]
    exact ⟨(enterLightWait_spec false s).1, (enterLightWait_spec false s).2.1⟩

/-! ## When no step of the part's own follows (log 1) -/

/-- With the Reference Check Unit OFF, past STARTING, with no series complete and the engine in ACQUIRING with an
open series, in LIGHT_WAIT with the condition present, or in STEP_MOVE, no step is due. -/
theorem settle_quiet (u : State) (hm : u.rc.mode = .off) (hu : u.uc.unit ≠ .starting)
    (series : ∀ h, (u.tg.heads.get h).seriesOpen = true → (u.scan h).state ≠ .done)
    (engine : (u.oe.engine = .acquiring ∧ ∃ k, (u.tg.heads.get k).seriesOpen = true)
      ∨ (u.oe.engine = .lightWait ∧ u.light.present = true) ∨ u.oe.engine = .stepMove) : settle u = u := by
  have one : ∀ h, settleSeries h u = u := by
    intro h
    unfold settleSeries State.seriesComplete
    cases open_ : (u.tg.heads.get h).seriesOpen
    · simp
    · simp [series h open_]
  have e1 : forHeads settleSeries u = u := by
    unfold forHeads
    simp only [one]
  have e2 : settlePassages u = u := by
    unfold settlePassages
    rw [show Head.all.filter u.passageComplete = [] by simp [State.passageComplete, hm]]
    rfl
  have e3 : settleOrder u = u := by
    have : settleEngine u = u := by
      unfold settleEngine State.loadingEnded State.passesEnded State.waitEnded
      rcases engine with ⟨he, k, ho⟩ | ⟨he, hp⟩ | he
      · have : (Head.all.all fun h => !(u.tg.heads.get h).seriesOpen) = false := by
          rw [List.all_eq_false]
          exact ⟨k, by cases k <;> decide, by simp [ho]⟩
        simp [he, this]
      · simp [he, hp]
      · simp [he]
    unfold settleOrder settleMeasured State.measured
    rw [this]
    simp [hm]
  have e4 : forHeads settleRequest u = u := by
    unfold forHeads settleRequest State.requests State.requestDue
    simp [hm]
  have e5 : settleDrain u = u := by
    unfold settleDrain State.drainComplete
    rcases engine with ⟨he, _⟩ | ⟨he, _⟩ | he <;> simp [he]
  unfold settle
  rw [e1, e2, e3, e4, e5, settleUnit_not _ hu]

/-- After the entry of a quiet SCAN order with a working head to ACQUIRING, or to LIGHT_WAIT, no step is due. -/
theorem enterAcquiring_quiet (s : State) (hk : s.orderKind = some .scan) (k : Head) (hw : s.inOrder k = true)
    (quiet : Quiet s) : settle (enterAcquiring s) = enterAcquiring s := by
  cases hl : s.light.present
  · obtain ⟨tg, e, _, m⟩ := enterAcquiring_armed s hk hl
    rw [e]
    refine settle_quiet _ quiet.mode quiet.unit (fun h ho => ?_) (.inl ⟨rfl, k, ?_⟩)
    · unfold State.scan
      dsimp only at ho ⊢
      rw [m h] at ho ⊢
      split at ho
      · rename_i c
        rw [if_pos c]
        exact nofun
      · rw [quiet.series h] at ho
        cases ho
    · dsimp only
      rw [m k, if_pos hw]
  · unfold enterAcquiring
    rw [if_pos hl]
    unfold enterLightWait
    obtain ⟨_, _, _, _, _, e⟩ := disarmScans_passes
      (s.onOrder fun o => { o with engine := .lightWait, grace := 0, interrupting := false })
    rw [e]
    refine settle_quiet _ quiet.mode quiet.unit (fun h => ?_) (.inr (.inl ⟨rfl, hl⟩))
    cases h <;> exact nofun

/-! ## A step start (R137, R141) -/

/-- A STEP-begin record taken: the step start time, the flag, the settle state, and the entry to ACQUIRING. -/
theorem stepBeginTaken_spec (time : Time) (s : State) :
    stepBeginTaken time s = enterAcquiring { s with
      qu := { s.qu with settle := s.oe.settle }
      oe := { s.oe with
        stepStart := time
        marker := none
        flags := if s.oe.settle = .unsettled then { s.oe.flags with unsettled := true } else s.oe.flags } } := by
  unfold stepBeginTaken State.onFlags State.onOrder setSettle
  dsimp only
  split <;> rfl

/-- The counters of the mask cleared: the Qualifier's heads change alone. -/
theorem clearCounters_spec (s : State) :
    ∃ heads, clearCounters s = { s with qu := { s.qu with heads := heads } }
      ∧ ∀ h, heads.get h = if s.mask.get h then (s.qu.heads.get h).cleared else s.qu.heads.get h := by
  have step : ∀ (h : Head) (heads : PerHead HeadQual),
      (if (State.mask { s with qu := { s.qu with heads := heads } }).get h
        then State.onQual { s with qu := { s.qu with heads := heads } } h HeadQual.cleared
        else { s with qu := { s.qu with heads := heads } })
      = { s with qu := { s.qu with
          heads := (if s.mask.get h then heads.set h (heads.get h).cleared else heads) } } := by
    intro h heads
    rw [show State.mask { s with qu := { s.qu with heads := heads } } = s.mask from rfl]
    split <;> rfl
  have first : (if s.mask.get .h0 then s.onQual .h0 HeadQual.cleared else s)
      = { s with qu := { s.qu with heads :=
          (if s.mask.get .h0 then s.qu.heads.set .h0 (s.qu.heads.get .h0).cleared else s.qu.heads) } } :=
    step .h0 s.qu.heads
  unfold clearCounters forHeads
  dsimp only at *
  rw [first, step, step, step]
  refine ⟨_, rfl, fun h => ?_⟩
  cases h <;> cases s.mask.get .h0 <;> cases s.mask.get .h1 <;> cases s.mask.get .h2 <;> cases s.mask.get .h3 <;>
    rfl

/-! ## The end of ARMING (R136, R149) -/

/-- ARMING ends: the mode of the reference checks, and the step request or the entry of a calibration. -/
theorem endArming_spec (s : State) (a : ActiveOrder) (ha : s.oe.active = some a) :
    ArmingEnded a.header s.oe s.sf s (endArming s) := by
  refine ⟨fun hk => ?_, fun hk => ?_⟩
  · have kind : s.orderKind = some .scan := by simp [State.orderKind, ha, hk]
    have mode : s.referenceMode = if a.header.flags.referenceChecks then .checking else .off := by
      simp [State.referenceMode, ha, hk]
    have e : endArming s = enterStepMove { s with rc := { s.rc with
        mode := if a.header.flags.referenceChecks then .checking else .off } } := by
      unfold endArming
      rw [mode]
      exact if_pos kind
    rw [e]
    refine ⟨rfl, rfl, rfl, rfl, fun c hc => ?_⟩
    change s.sf.requested s.xe.time = _
    unfold Span.requested Span.settlePeriod
    rw [show (s.sf.config.map (·.settleLimit)).getD 0 = c.settleLimit by rw [hc]; rfl]
    dsimp only
    cases s.sf.settleActive <;> simp [Span.acknowledged]
  · have kind : s.orderKind = some .calibrateReference := by simp [State.orderKind, ha, hk]
    have mode : s.referenceMode = .calibrating := by simp [State.referenceMode, ha, hk]
    have mask : s.mask = a.header.mask := by simp [State.mask, ha]
    have step : ∀ (h : Head) (heads : PerHead HeadRef),
        (if (State.mask { s with rc := { s.rc with mode := .calibrating, heads := heads } }).get h
          then State.onHeadRef { s with rc := { s.rc with mode := .calibrating, heads := heads } } h HeadRef.calCleared
          else { s with rc := { s.rc with mode := .calibrating, heads := heads } })
        = { s with rc := { s.rc with
            mode := .calibrating
            heads := (if a.header.mask.get h then heads.set h (heads.get h).calCleared else heads) } } := by
      intro h heads
      rw [show State.mask { s with rc := { s.rc with mode := .calibrating, heads := heads } } = s.mask from rfl, mask]
      split <;> rfl
    have first := step .h0 s.rc.heads
    let u : State := { s with rc := { s.rc with
      mode := .calibrating
      heads := .of fun h =>
        if a.header.mask.get h then { s.rc.heads.get h with calDone := 0, calTally := ⟨0, 0, 0⟩ }
        else s.rc.heads.get h } }
    have cleared : forHeads (fun h s => if s.mask.get h then s.onHeadRef h HeadRef.calCleared else s)
        { s with rc := { s.rc with mode := .calibrating } } = u := by
      unfold forHeads
      dsimp only at *
      rw [first, step, step, step]
      dsimp only [u, PerHead.of]
      congr 2
      cases a.header.mask.get .h0 <;> cases a.header.mask.get .h1 <;> cases a.header.mask.get .h2 <;>
        cases a.header.mask.get .h3 <;> rfl
    have other : ¬u.orderKind = some .scan := by
      rw [show u.orderKind = s.orderKind from rfl, kind]
      decide
    have e : endArming s = enterAcquiring u := by
      unfold endArming
      rw [mode, ← cleared]
      exact if_neg other
    rw [e]
    refine ⟨(enterAcquiring_blocks u).1, (enterAcquiring_blocks u).2.1, fun hl => ?_, fun hl => ?_⟩
    · unfold enterAcquiring
      rw [if_neg (by simp [u, hl]), if_neg other]
      exact ⟨rfl, rfl, rfl⟩
    · unfold enterAcquiring
      rw [if_pos hl]
      have d := (enterLightWait_spec false u).2.1
      exact ⟨(enterLightWait_spec false u).1, d.lists, d.disarmed, d.zones, d.reference⟩

/-- An ORDER-begin record taken by an order of a measuring kind leads to ARMING (R134, R136). -/
theorem orderBeginTaken_arming (s : State) (a : ActiveOrder) (ha : s.oe.active = some a)
    (hk : a.header.kind = some .scan ∨ a.header.kind = some .calibrateReference) :
    orderBeginTaken s = enterArming (s.onOrder fun o => { o with marker := none, beginTaken := true }) := by
  have h : (s.onOrder fun o => { o with marker := none, beginTaken := true }).oe.active = some a := ha
  unfold orderBeginTaken
  dsimp only
  split
  · rename_i e
    rw [h] at e
    cases e
  · rename_i e
    rw [h] at e
    cases e
    rcases hk with hk | hk <;> rw [hk]

end Sys2Proof.Machine
end

