-- ==== Sys2Proof/Laws/Stopped.lean ====
section
/-! SUPPORT. What the entry to STOPPED lets go of and what it leaves of the writer's close, operation by operation; and the reference point that is next after an offset. -/

namespace Sys2Proof.Machine

/-! ## Accesses let go of (R177; log 19, log 31) -/

/-- Accesses let go of are put behind the strays. -/
theorem letGo_stray (kinds : List BusKind) (s : State) : (letGo kinds s).xe.stray = s.xe.stray ++ kinds := by
  unfold letGo
  split
  · next h => rw [h, List.append_nil]
  · rfl

/-- Letting go of accesses begins no write. -/
theorem letGo_bus (kinds : List BusKind) (s : State) :
    ∃ mid : List BusEvent, (∀ k xs, BusEvent.write k xs ∉ mid) ∧ (letGo kinds s).xe.bus = s.xe.bus ++ mid := by
  unfold letGo
  split
  · exact ⟨[], by simp, by simp⟩
  · exact ⟨[.released kinds], by simp, rfl⟩

/-- The Order Engine's access becomes the last of the strays. -/
theorem letGoOrder_stray (s : State) :
    (letGoOrder s).xe.stray = s.xe.stray ++ s.oe.doing.kind ∧ (letGoOrder s).uc = s.uc
    ∧ (letGoOrder s).rw = s.rw := by
  obtain ⟨_, _, e, _⟩ := letGo_only s.oe.doing.kind { s with oe := { s.oe with doing := .none } }
  refine ⟨letGo_stray _ _, ?_, ?_⟩ <;> (unfold letGoOrder; rw [e])

/-- The read of the Cell Record, where one is in progress, becomes the last of the strays. -/
theorem letGoCell_stray (s : State) :
    (letGoCell s).xe.stray = s.xe.stray ++ (if s.uc.cellReading then [.cellRecord] else [])
    ∧ (letGoCell s).rw = s.rw := by
  obtain ⟨_, _, e, _⟩ := letGo_only (if s.uc.cellReading then [.cellRecord] else [])
    { s with uc := { s.uc with cellReading := false } }
  refine ⟨letGo_stray _ _, ?_⟩
  unfold letGoCell
  rw [e]

/-- The Result Writer's access becomes the last of the strays. -/
theorem letGoWriter_stray (s : State) : (letGoWriter s).xe.stray = s.xe.stray ++ s.rw.doing.kind.toList := by
  unfold letGoWriter
  split
  · next h => rw [h]; simp
  · next k h =>
    rw [h, letGo_stray]
    obtain ⟨_, _, e, _⟩ := breakGroup_only k s
    rw [e]
    rfl

/-- The writes that join the bus with the writer's access let go of are ones of the group it was in. -/
theorem letGoWriter_bus (s : State) :
    ∃ mid : List BusEvent, (∀ k xs, BusEvent.write k xs ∈ mid → BusEvent.write k xs ∈ s.rw.rest)
      ∧ (letGoWriter s).xe.bus = s.xe.bus ++ mid := by
  unfold letGoWriter
  split
  · exact ⟨[], by simp, by simp⟩
  · next k _ =>
    obtain ⟨m, hm, e⟩ := letGo_bus [k] (breakGroup k s)
    rw [e]
    have broken : (breakGroup k s).xe.bus
        = s.xe.bus ++ issuedAfter k (s.rw.rest.take (s.choice (s.rw.rest.length + 1))) := by
      unfold breakGroup State.chosen
      dsimp only
      split <;> rfl
    rw [broken, List.append_assoc]
    refine ⟨_, fun k' xs hx => ?_, rfl⟩
    rcases List.mem_append.mp hx with hx | hx
    · simp only [issuedAfter, List.mem_flatMap] at hx
      obtain ⟨y, hy, hx⟩ := hx
      simp at hx
      rw [← hx] at hy
      exact List.mem_of_mem_take hy
    · exact absurd hx (hm _ _)

/-- At the entry to STOPPED the Result Writer's access is let go of, unless the writer stopped by a fault or a
close is in progress. -/
theorem stopWriter_stray (s : State) :
    (stopWriter s).xe.stray = s.xe.stray ++ (match s.rw.phase with
      | .stoppedByFault | .closingSegment => []
      | .idle | .taking | .starved | .writing => s.rw.doing.kind.toList) := by
  unfold stopWriter
  cases hp : s.rw.phase <;> dsimp only <;> rw [hp] <;> dsimp only
  case stoppedByFault => simp
  case closingSegment => simp
  all_goals
    split
    · unfold beginClose beginGroup
      split <;> (try unfold logBus) <;> exact letGoWriter_stray _
    · exact letGoWriter_stray _

/-- A segment FILLING begins its close with STOP. -/
theorem stopWriter_close (s : State) (g : Segment) (hg : s.rw.filling = some g) (h1 : s.rw.phase ≠ .stoppedByFault)
    (h2 : s.rw.phase ≠ .closingSegment) :
    (stopWriter s).rw.doing = .full .stop ∧ (stopWriter s).rw.filling = some g
    ∧ ∃ w ws mid, closeWrites s.xbase g .stop = w :: ws
      ∧ (∀ k xs, BusEvent.write k xs ∈ mid → BusEvent.write k xs ∈ s.rw.rest)
      ∧ (stopWriter s).xe.bus = s.xe.bus ++ mid ++ [.write .full [w]]
      ∧ (stopWriter s).rw.rest = ws.map fun x => .write .full [x] := by
  let u : State := { s with rw := { s.rw with recheck := false, segments := [], overflow := false, target := none } }
  obtain ⟨r, b, st, fr, e, _⟩ := letGoWriter_only u
  obtain ⟨m, hm, e'⟩ := letGoWriter_bus u
  have closes : stopWriter s = beginClose .stop g (letGoWriter u) := by
    unfold stopWriter
    simp only [u] at e ⊢
    cases hp : s.rw.phase <;> simp_all
  have grown : b = s.xe.bus ++ m := by
    rw [e] at e'
    exact e'
  rw [closes, e, grown]
  cases hc : closeWrites s.xbase g .stop with
  | nil => simp [closeWrites, fillWrites] at hc
  | cons w ws =>
    have base : State.xbase { u with
        rw := { u.rw with doing := .none, rest := r }, xe := { u.xe with bus := s.xe.bus ++ m, stray := st }, free := fr }
        = s.xbase := rfl
    unfold beginClose beginGroup writeGroup
    rw [base, hc]
    exact ⟨rfl, hg, w, ws, m, rfl, hm, rfl, rfl⟩

/-- A Status Page asked for leaves the strays. -/
theorem requestPage_stray (s : State) : (requestPage s).xe.stray = s.xe.stray := by
  unfold requestPage
  split
  · rfl
  · split <;> rfl

/-- A Status Page asked for begins at most one write, the Status Page's own. -/
theorem requestPage_bus (s : State) :
    ∃ page : List BusEvent, (∀ e ∈ page, ∃ w, e = .write .statusPage w)
      ∧ (requestPage s).xe.bus = s.xe.bus ++ page := by
  unfold requestPage
  split
  · exact ⟨[], by simp, by simp⟩
  · split
    · exact ⟨[], by simp, by simp⟩
    · exact ⟨[.write .statusPage _], by simp, rfl⟩

/-- What the entry to STOPPED lets go of: the Order Engine's access, the read of the Cell Record, and the writer's
access. -/
theorem enterStopped_stray (s : State) :
    (enterStopped s).xe.stray = s.xe.stray ++ s.oe.doing.kind ++ (if s.uc.cellReading then [.cellRecord] else [])
      ++ (match s.rw.phase with
        | .stoppedByFault | .closingSegment => []
        | .idle | .taking | .starved | .writing => s.rw.doing.kind.toList) := by
  unfold enterStopped enterUnit
  dsimp only
  rw [requestPage_stray]
  show (stopWriter _).xe.stray = _
  rw [stopWriter_stray]
  obtain ⟨o1, o2, o3⟩ := letGoOrder_stray s
  obtain ⟨c1, c2⟩ := letGoCell_stray (letGoOrder s)
  dsimp only
  rw [c1, c2, o1, o2, o3]

/-! ## The next reference point (R34) -/

/-- The reference point after an offset is the least multiple of the pitch above it, where it lies within the
length; where none is named, none of the points lies above it. -/
theorem firstReferencePoint_next (c : RefConfig) (p : Nat) (hp : 1 ≤ c.pitch) :
    (firstReferencePoint c (p + 1) = none ∧ ∀ k : Nat, k * c.pitch < c.length → k * c.pitch ≤ p)
    ∨ ∃ k : Nat, firstReferencePoint c (p + 1) = some (k * c.pitch) ∧ p < k * c.pitch ∧ k * c.pitch < c.length
        ∧ ∀ j : Nat, p < j * c.pitch → k * c.pitch ≤ j * c.pitch := by
  have run : nextInRun 0 c.pitch (p + 1) = (p / c.pitch + 1) * c.pitch := by
    unfold nextInRun
    rw [if_neg (by omega), show p + 1 - 0 + c.pitch - 1 = p + c.pitch by omega, Nat.add_div_right _ (by omega),
      Nat.zero_add]
  have above : p < (p / c.pitch + 1) * c.pitch := by
    have := Nat.lt_div_mul_add (a := p) (b := c.pitch) (by omega)
    rw [Nat.add_mul]
    omega
  have least : ∀ j, p < j * c.pitch → (p / c.pitch + 1) * c.pitch ≤ j * c.pitch := by
    intro j hj
    apply Nat.mul_le_mul_right
    have := (Nat.div_lt_iff_lt_mul (x := p) (y := j) (k := c.pitch) (by omega)).2 hj
    omega
  unfold firstReferencePoint
  rw [run]
  split
  · exact .inr ⟨_, rfl, above, ‹_›, least⟩
  · refine .inl ⟨rfl, fun k hk => Nat.not_lt.mp fun h => ?_⟩
    have := least k h
    omega

end Sys2Proof.Machine
end

