-- ==== Sys2Proof/Tests/Slice0.lean ====
section
/-! SUPPORT. The model's own tests: the checks of WellFormed, small steps of each command, and for each obligation with hypotheses a state that meets them. -/

namespace Sys2Proof.Tests
open Sys2Proof Sys2Proof.Machine

-- One theorem after another: many kernel evaluations at once would each hold a thread.
set_option Elab.async false

/-! ## WellFormed: an ill-formed term for each check -/

theorem test_wellFormed_refuses_other_rows_writes :
    (Instr.registerWrite 0x0C 15 1).wellFormed = false ∧ (Instr.registerWrite 0x0C 15 0x16).wellFormed = false
    ∧ (Instr.registerWrite 0x14 15 0).wellFormed = false ∧ (Instr.registerWrite 0x18 15 0).wellFormed = false
    ∧ (Instr.registerWrite 0x1C 15 0).wellFormed = false := by decide +kernel

theorem test_wellFormed_takes_this_rows_writes :
    (Instr.registerWrite 0x0C 15 0).wellFormed = true ∧ (Instr.registerWrite 0x0C 15 7).wellFormed = true
    ∧ (Instr.registerWrite 0x0C 7 1).wellFormed = true
    ∧ (Instr.registerWrite 0x04 15 0).wellFormed = true := by decide +kernel

theorem test_wellFormed_refuses_alert_without_code : (Instr.alertReceived .h0 0).wellFormed = false := by decide +kernel

theorem test_wellFormed_refuses_short_link :
    (Instr.linkRead (.data (List.replicate 7 0))).wellFormed = false := by decide +kernel

theorem test_wellFormed_refuses_long_status :
    (Instr.blockStatusRead (.data [0, 0])).wellFormed = false := by decide +kernel

theorem test_wellFormed_refuses_short_header :
    (Instr.headerRead (.data (List.replicate 335 0))).wellFormed = false := by decide +kernel

theorem test_wellFormed_refuses_zone_table_of_other_length :
    (Instr.zoneTableRead (.data (1 :: List.replicate 7 0))).wellFormed = false
    ∧ (Instr.zoneTableRead (.data (33 :: List.replicate 23 0))).wellFormed = false := by decide +kernel

theorem test_wellFormed_refuses_short_correction_table :
    (Instr.correctionTableRead (.data (List.replicate 1035 0))).wellFormed = false := by decide +kernel

theorem test_wellFormed_refuses_short_entry :
    (Instr.segmentEntryRead (List.replicate 31 0)).wellFormed = false := by decide +kernel

theorem test_wellFormed_refuses_short_cell_record :
    (Instr.cellRecordRead (.data (List.replicate 1023 0))).wellFormed = false := by decide +kernel

theorem test_wellFormed_takes_read_errors :
    (Instr.linkRead .error).wellFormed = true ∧ (Instr.zoneTableRead .error).wellFormed = true
    ∧ (Instr.cellRecordRead .error).wellFormed = true := by decide +kernel

/-! ## Decoding: the table gives no row a word of its own -/

theorem test_decode_spells_nothing : decodeTableWord 32 1 = none ∧ decodeTableWord 0 0 = none := by decide +kernel

theorem test_withFetchWord_changes_nothing : State.reset.withFetchWord 32 1 = State.reset := by decide +kernel

/-! ## Small states -/

/-- The next state of a command. -/
def after (c : Instr) (s : State) : State :=
  match exec c s with
  | .next t => t
  | .fault _ => s
  | .refused _ => s

/-- A head configuration. -/
def headConfig : HeadConfig :=
  { present := true, action := some .continueOn, blank := 2, limit := 2, mount := 0, codes := ⟨1, 2, 3, 4⟩, timeout := 20 }

/-- A tracker configuration of 1,024 counts. -/
def trackerConfig : TrackerConfig := { cpr := 1024, origin := 0, sense := .forward, maxPeriod := 10 }

/-- A reference configuration outside the scan window. -/
def refConfig : RefConfig :=
  { start := 512, length := 8, pitch := 4, floor := 10, interval := 4, driftLimit := 5, driftAction := .fail }

/-- A span and fixture configuration: settle line W0, ACTIVE_HIGH, fixture line F0. -/
def spanConfig : SpanConfig :=
  { settleLine := 0, polarity := 0, settleLimit := 1, fixtureMask := 1, fixtureCompare := 1, fixtureWait := 1 }

/-- A zone of ten counts and five points for head 0. -/
def oneZone : Zone :=
  { length := 10, pitch := 2, mask := ⟨true, false, false, false⟩, burst := 1, floor := 10, expClass := 0,
    revisitClass := 1, revisit := true, interleave := false }

/-- A zone table of that zone. -/
def oneTable : ZoneTable := { start := 0, full := false, zones := [oneZone] }

/-- An order header for head 0. -/
def header (k : OrderKind) : OrderHeader :=
  { kind := some k, format := some .standard, mask := ⟨true, false, false, false⟩, tag := 7,
    flags := ⟨false, false, true, true, true, false⟩, stepCount := 2, revolutions := 1, revisitLimit := 1,
    replaceMask := .all false, compactBase := 0, zoneAddr := 0x20000, correctionAddr := .all 0,
    span := List.replicate 256 0 }

/-- An active order. -/
def order (k : OrderKind) : ActiveOrder := { header := header k, zones := some oneTable, tables := .all .identity }

/-- A unit in a state, every block at rest. -/
def unitIn (u : UnitState) : State := { State.reset with uc := { UnitControl.reset with unit := u } }

/-- Head 0 in a state, with its configuration. -/
def portIn (x : HeadState) : Port := { Port.reset with state := x, config := some headConfig }

/-- An order with its engine in a state: unit RUNNING, tracker TRACKING at raw count 0, head 0 READY. -/
def ordered (k : OrderKind) (e : EngineState) : State :=
  { unitIn .running with
    tracker := { Tracker.reset with state := .tracking, config := some trackerConfig,
                                    indexWatch := .running 0 10000 }
    tg := { TriggerGen.reset with zones := some oneTable }
    ports := { PerHead.all Port.reset with h0 := portIn .ready }
    rc := { RefCheck.reset with config := some refConfig }
    sf := { Span.reset ⟨0, 0⟩ with config := some spanConfig }
    oe := { OrderEngine.reset with engine := e, active := some (order k), chain := some 0x10000, activeTag := 7,
                                   lightGrace := some 3 }
    sb := { Staging.reset with stallLimit := some 2 } }

/-- The same with head 0 in another state. -/
def orderedHead (k : OrderKind) (e : EngineState) (x : HeadState) : State :=
  { ordered k e with ports := { PerHead.all Port.reset with h0 := portIn x } }

/-- A marker record to fill a buffer with. -/
def filler : Staged := ⟨.stepEnd ⟨7, 0, 0, 0, 0, 0⟩, 7⟩

/-- The same with the light condition present. -/
def dark (s : State) : State := { s with light := { s.light with present := true } }

/-- A buffer of that many records, behind a writer that is writing. -/
def full (n : Nat) (s : State) : State :=
  { s with sb := { s.sb with staged := List.replicate n filler }
           rw := { s.rw with phase := .writing, doing := .fillUpdate, filling := some ⟨0, 0x100000, 4096, 0, 0, 0⟩ } }

/-- An entry in flight on a normal pass. -/
def flight (seq : BitVec 8) (ordinal burst : Nat) : InFlight :=
  { seq := seq, point := 4, zone := some 0, pass := ⟨.normal, 0⟩, step := some 0, revolution := 0, expClass := 0,
    floor := 10, ordinal := ordinal, burst := burst, issueTime := 0, abandoned := false, timer := .running 0 200,
    result := none }

/-- A head's scan record in a pass. -/
def inPass (position : Int) (next : Option Nat) : PassRecord :=
  { state := .inPass, pass := ⟨.normal, 0⟩, armed := 1, position := some position, reach := 0, zone := some 0,
    nextTrigger := next, withheld := false }

/-- An ordered state in ACQUIRING with head 0's scan record as given, its series open. -/
def scanning (r : PassRecord) : State :=
  { ordered .scan .acquiring with
    tg := { zones := some oneTable, heads := { PerHead.all HeadPasses.reset with
      h0 := { HeadPasses.reset with scan := r, seriesOpen := true } } }
    ru := { Revisit.reset with phase := .acquiring } }

/-- The same, in its first pass, with entries in flight at head 0. -/
def flying (l : List InFlight) : State :=
  { scanning (inPass 5 (some 6)) with
    ports := { PerHead.all Port.reset with h0 := { portIn .ready with inFlight := l } } }

/-- A sample message. -/
def sample (seq : BitVec 8) (quality : Byte) : Sample :=
  { seq := seq, raw := 100, intensity := 5, quality := quality, saturated := false, noPeak := false }

/-! ## The queue (O1, O3) -/

/-- O1's premise, and what the step does there. -/
theorem test_step_runs_front_command :
    ({ State.reset with pending := [.stop, .unitRunning] } : State).pending = .stop :: [.unitRunning]
    ∧ step { State.reset with pending := [.stop, .unitRunning] }
      = exec .stop { State.reset with pending := [.unitRunning] } := by
  exact ⟨rfl, rfl⟩

/-- O3's premise, and what the step does there. -/
theorem test_idle_step_counts_microsecond :
    State.reset.pending = [] ∧ step State.reset = .next { State.reset with xe := { Exchange.reset with time := 1 } } :=
  ⟨rfl, rfl⟩

theorem test_time_base_wraps :
    tick { State.reset with xe := { Exchange.reset with time := 0xFFFFFFFFFFFF } } = State.reset := by decide +kernel

/-! ## The tracker (O4 to O9) -/

/-- A reset state with its tracker in a state, raw count and index level; unit STARTING. -/
def homing (x : TrackerState) (raw : Nat) (travel : Option Int) (index : Bool) : State :=
  { unitIn .starting with
    tracker := { Tracker.reset with state := x, rawCount := raw, travel := travel, config := some trackerConfig,
                                    homingTimer := .running 0 10000, index := index } }

/-- O4's premises: IDLE, LOST and SEEKING. -/
theorem test_meets_uncounted_steps :
    State.reset.tracker.state = .idle ∧ (homing .lost 0 none false).tracker.state = .lost
    ∧ (homing .seeking 0 none false).tracker.state = .seeking := by decide +kernel

/-- O5's premises, at both ends of the count. -/
theorem test_meets_homing_counts :
    ((homing .seeking 1023 none false).tracker.state = .seeking
      ∧ (homing .seeking 1023 none false).tracker.config = some trackerConfig ∧ 1023 < trackerConfig.cpr)
    ∧ ((homing .measuring 0 (some 3) false).tracker.state = .measuring
      ∧ (homing .measuring 0 (some 3) false).tracker.travel = some 3
      ∧ isIndexArrival ((homing .measuring 0 (some 3) false).tracker.isUp .encA) false false = false
      ∧ (homing .measuring 0 (some 3) false).uc.unit = .starting) := by decide +kernel

theorem test_countStep_seeking_wraps_up :
    (after (.countStep .encA false) (homing .seeking 1023 none false)).tracker.rawCount = 0 := by decide +kernel

theorem test_countStep_measuring_down :
    (after (.countStep .encB false) (homing .measuring 0 (some 3) false)).tracker.rawCount = 1023
    ∧ (after (.countStep .encB false) (homing .measuring 0 (some 3) false)).tracker.travel = some 2 := by
  decide +kernel

/-- O6's premise `an arrival`, with the index position at travel 0, CPR, -CPR and elsewhere. -/
theorem test_meets_judged_arrivals :
    isIndexArrival ((homing .measuring 1023 (some (-1)) false).tracker.isUp .encA) false true = true
    ∧ isIndexArrival ((homing .measuring 1023 (some 1023) false).tracker.isUp .encA) false true = true
    ∧ isIndexArrival ((homing .measuring 0 (some (-1024)) true).tracker.isUp .encB) true false = true
    ∧ isIndexArrival ((homing .measuring 4 (some 4) false).tracker.isUp .encA) false true = true
    ∧ (homing .measuring 4 (some 4) false).uc.unit = .starting := by decide +kernel

theorem test_arrival_at_travel_0_goes_on_measuring :
    (after (.countStep .encA true) (homing .measuring 1023 (some (-1)) false)).tracker.state = .measuring := by
  decide +kernel

theorem test_arrival_at_full_travel_tracks :
    (after (.countStep .encA true) (homing .measuring 1023 (some 1023) false)).tracker.state = .tracking
    ∧ (after (.countStep .encA true) (homing .measuring 1023 (some 1023) false)).tracker.rawCount = 0
    ∧ (after (.countStep .encB false) (homing .measuring 0 (some (-1024)) true)).tracker.state = .tracking
    ∧ (after (.countStep .encB false) (homing .measuring 0 (some (-1024)) true)).tracker.rawCount = 1023 := by
  decide +kernel

theorem test_arrival_elsewhere_is_mismatch :
    (after (.countStep .encA true) (homing .measuring 4 (some 4) false)).uc.cause = some .homeMismatch := by
  decide +kernel

/-- O7's and O8's premises: a plain step, and an arrival at raw count 0 from either side. -/
theorem test_meets_tracking_steps :
    ((ordered .scan .acquiring).tracker.state = .tracking
      ∧ (ordered .scan .acquiring).tracker.config = some trackerConfig ∧ trackerConfig.origin < trackerConfig.cpr
      ∧ isIndexArrival ((ordered .scan .acquiring).tracker.isUp .encA) false false = false)
    ∧ (isIndexArrival ((ordered .scan .acquiring).tracker.isUp .encB) true false = true
      ∧ (if (ordered .scan .acquiring).tracker.isUp .encB then 1 else 0) = 0) := by decide +kernel

/-- An ordered state with its tracker at a raw count, the index level given. -/
def trackingAt (e : EngineState) (raw : Nat) (index : Bool) : State :=
  { ordered .scan e with
    tracker := { Tracker.reset with state := .tracking, config := some trackerConfig, rawCount := raw, index := index,
                                    indexWatch := .running 0 10000, revolution := 5 } }

theorem test_index_arrival_steps_revolution :
    (after (.countStep .encA true) (trackingAt .idle 1023 false)).tracker.revolution = 6
    ∧ (after (.countStep .encA true) (trackingAt .idle 1023 false)).tracker.rawCount = 0
    ∧ (after (.countStep .encB false) (trackingAt .idle 0 true)).tracker.revolution = 4 := by decide +kernel

/-- An order waiting in LIGHT_WAIT, its drop flag set, at a grace count and a stall count. -/
def counting (grace stall : Nat) : State :=
  { ordered .scan .lightWait with
    oe := { (ordered .scan .lightWait).oe with grace := grace }
    sb := { Staging.reset with stallLimit := some 2, stallCount := stall, dropFlag := true } }

/-- O8's premises after the delivery: no limit reached, one count below each; the grace reached; the stall
limit reached. -/
theorem test_meets_index_delivery :
    ((indexDelivered false (counting 1 0)).oe.engine = .lightWait ∧ (counting 1 0).oe.marker = none
      ∧ (counting 1 0).oe.lightGrace = some 3 ∧ 1 + 1 < 3 ∧ (counting 1 0).sb.stallLimit = some 2
      ∧ (counting 1 0).rc.mode = .off)
    ∧ (indexDelivered true (counting 1 0)).oe.grace = 2 ∧ (indexDelivered true (counting 1 0)).sb.stallCount = 1
    ∧ (indexDelivered true (counting 2 0)).oe.endSlot = some ⟨.lightLost, 0⟩
    ∧ (indexDelivered true (counting 1 1)).oe.endSlot = some ⟨.outputStall, 2⟩
    ∧ (indexDelivered true (counting 1 1)).sb.dropFlag = false := by decide +kernel

/-- O9's premises: the four encoder faults with the engine IDLE, and the two in a running order. -/
theorem test_meets_encoder_faults :
    ((trackingAt .idle 7 false).uc.unit ≠ .faulted ∧ (trackingAt .idle 7 false).oe.engine = .idle
      ∧ (trackingAt .idle 7 false).tracker.indexWatch ≠ .stopped
      ∧ isIndexArrival ((trackingAt .idle 7 false).tracker.isUp .encA) false true = true
      ∧ (7 + 1) % trackerConfig.cpr ≠ 0)
    ∧ ((homing .seeking 0 none false).tracker.homingTimer ≠ .stopped ∧ (homing .seeking 0 none false).oe.engine = .idle)
    ∧ ((trackingAt .acquiring 7 false).oe.engine.running = true ∧ (trackingAt .acquiring 7 false).oe.endSlot = none
      ∧ (trackingAt .acquiring 7 false).uc.unit = .running) := by decide +kernel

theorem test_slip_and_watch_fault_the_unit :
    (after (.countStep .encA true) (trackingAt .idle 7 false)).uc.cause = some .encoderSlip
    ∧ (after .indexWatchExpiry (trackingAt .idle 7 false)).uc.cause = some .encoderLost := by decide +kernel

theorem test_homingTimerExpiry_faults :
    (after .homingTimerExpiry (homing .seeking 0 none false)).uc.cause = some .homeTimeout := by decide +kernel

theorem test_illegalTransition_closes_order :
    (after .illegalTransition (trackingAt .acquiring 7 false)).oe.endSlot = some ⟨.encoderFault, 4⟩
    ∧ (after .illegalTransition (trackingAt .acquiring 7 false)).uc.unit = .running := by decide +kernel

/-! ## Passes and points (O10 to O13, O18) -/

/-- O10's premise. -/
theorem test_meets_zone_grid : ∀ z ∈ [oneZone], 1 ≤ z.pitch := by decide +kernel

theorem test_points_of_zone :
    normalPoints .h0 0 [oneZone, { oneZone with interleave := true }] 0 0
      = [(0, 0), (2, 0), (4, 0), (6, 0), (8, 0), (10, 1), (12, 1), (14, 1), (16, 1), (18, 1)]
    ∧ normalPoints .h0 1 [oneZone, { oneZone with interleave := true }] 0 0
      = [(0, 0), (2, 0), (4, 0), (6, 0), (8, 0), (11, 1), (13, 1), (15, 1), (17, 1), (19, 1)]
    ∧ normalPoints .h1 0 [oneZone] 0 0 = [] := by decide +kernel

/-- O11's premises, where the list is just full and where it is not. -/
theorem test_meets_due_point :
    (((flying [flight 0 1 7, flight 1 2 7]).ports.get .h0).state = .ready
      ∧ ((flying [flight 0 1 7, flight 1 2 7]).ports.get .h0).inFlight.length + 6 ≤ 8)
    ∧ ¬(((flying [flight 0 1 7, flight 1 2 7]).ports.get .h0).state = .ready
      ∧ ((flying [flight 0 1 7, flight 1 2 7]).ports.get .h0).inFlight.length + 7 ≤ 8)
    ∧ ¬(((orderedHead .scan .acquiring .waking).ports.get .h0).state = .ready
      ∧ ((orderedHead .scan .acquiring .waking).ports.get .h0).inFlight.length + 1 ≤ 8) := by decide +kernel

/-- A head's scan record in a pass at a position, its next point, reach and armed passes as given. -/
def passing (position : Int) (next : Option Nat) (reach armed : Nat) : PassRecord :=
  { inPass position next with reach := reach, armed := armed }

/-- The same with the whole circle as its window. -/
def wholeCircle (s : State) : State := { s with tg := { s.tg with zones := some { oneTable with full := true } } }

/-- O12's premises: a start away from the window's offset 0 and at it; the last position of a pass with another
one armed, in a window that is full and in one that is not, and of the last pass; a pending gap with room. -/
theorem test_meets_scan_passes :
    oneTable.zones = oneZone :: [] ∧ 1 ≤ oneZone.length ∧ 1 ≤ (scanning (inPass 5 (some 6))).cpr
    ∧ ((scanning (.armedFor ⟨.normal, 0⟩ 1)).scan .h0).state = .waitingStart ∧ (1 : Nat) ≠ 0
    ∧ (((scanning (passing 9 none 9 2)).scan .h0).state = .inPass
      ∧ ((scanning (passing 9 none 9 2)).scan .h0).position = some ((oneTable.length : Int) - 1)
      ∧ ((scanning (passing 9 none 9 2)).scan .h0).pass.kind = .normal
      ∧ ((scanning (passing 9 none 9 2)).scan .h0).pass.index + 1 < 2)
    ∧ ¬((scanning (passing 9 none 9 1)).scan .h0).pass.index + 1 < 1
    ∧ oneTable.full = false
    ∧ ((flying []).ports.get .h0).gapWaits = false ∧ (flying []).sb.staged.length < 1024 := by decide +kernel

theorem test_meets_one_head_acts :
    ∀ h k, (scanning (inPass 5 (some 6))).headActs 6 h = true → (scanning (inPass 5 (some 6))).headActs 6 k = true →
      h = k := by
  intro h k
  cases h <;> cases k <;> decide +kernel

/-- A pass starts at offset 0 alone; at its end the next one is awaited, or begins at once where the window is
the whole circle, or the record is done. -/
theorem test_passes_start_and_end :
    let ending (armed : Nat) := scanning (passing 9 none 9 armed)
    scanForward oneTable .h0 1 5 (scanning (.armedFor ⟨.normal, 0⟩ 1)) = scanning (.armedFor ⟨.normal, 0⟩ 1)
    ∧ ((scanForward oneTable .h0 0 5 (scanning (.armedFor ⟨.normal, 0⟩ 1))).scan .h0).nextTrigger = some 2
    ∧ ((scanForward oneTable .h0 10 5 (ending 2)).scan .h0) = .armedFor ⟨.normal, 1⟩ 2
    ∧ ((scanForward { oneTable with full := true } .h0 0 5 (wholeCircle (ending 2))).scan .h0).position = some 0
    ∧ ((scanForward oneTable .h0 10 5 (ending 1)).scan .h0).state = .done
    ∧ ((scanForward oneTable .h0 10 5 (ending 1)).scan .h0).reach = 10 := by decide +kernel

/-- O13's premises at the first and the last position of the window, the zone the only one, no list. -/
theorem test_meets_point_fires_once :
    (((scanning (inPass (-1) (some 0))).scan .h0).state = .inPass
      ∧ ((scanning (inPass (-1) (some 0))).scan .h0).position = some ((0 : Int) - 1) ∧ 0 < oneTable.length
      ∧ ((scanning (inPass (-1) (some 0))).scan .h0).nextTrigger = some (angleOf 1024 oneTable.start 0))
    ∧ (((scanning (inPass 8 (some 9))).scan .h0).position = some ((9 : Int) - 1) ∧ 9 < oneTable.length
      ∧ ((scanning (inPass 8 (some 9))).scan .h0).nextTrigger = some (angleOf 1024 oneTable.start 9))
    ∧ ((∀ x ∈ oneTable.zones, 1 ≤ x.pitch) ∧ (scanning (inPass 8 (some 9))).ru.current = []
      ∧ oneTable.zones[0]? = some oneZone ∧ zonesLength (oneTable.zones.take 0) = 0 ∧ oneZone.length = 10
      ∧ max ((scanning (inPass 8 (some 9))).scan .h0).reach 9 = 9) := by decide +kernel

/-- An entry of the current list whose points a revisit pass fires: O13's order of the list. -/
theorem test_meets_point_of_a_list :
    ([⟨.h0, 0, 2, 4, .none, 0⟩, ⟨.h1, 0, 0, 8, .none, 0⟩, ⟨.h0, 0, 6, 8, .none, 0⟩] : List Entry).Pairwise
      fun a b => a.head = .h0 → b.head = .h0 →
        windowOffset 1024 oneTable.start a.last < windowOffset 1024 oneTable.start b.first := by decide +kernel

/-- A point due at raw count 4 is issued, and the next one is at 6. -/
theorem test_countStep_issues_due_point :
    let s := { scanning (inPass 3 (some 4)) with tracker := (trackingAt .acquiring 3 false).tracker }
    (after (.countStep .encA false) s).oe.counts.issued = 1
    ∧ ((after (.countStep .encA false) s).ports.get .h0).sent = [.trigger 0 0]
    ∧ ((after (.countStep .encA false) s).scan .h0).nextTrigger = some 6 := by decide +kernel

/-- O18's premises for SERIES_COMPLETE: a series complete, with an abandoned entry left; and one not open. -/
theorem test_meets_series_complete :
    (((scanning { inPass 0 none with state := .done }).tg.heads.get .h0).seriesOpen = true
      ∧ ((scanning { inPass 0 none with state := .done }).scan .h0).state = .done
      ∧ ∀ e ∈ [{ flight 0 1 1 with abandoned := true }], e.abandoned = true ∨ e.pass.kind ≠ .normal)
    ∧ ((ordered .scan .acquiring).tg.heads.get .h0).seriesOpen = false := by decide +kernel

/-- The only series of the step completes: ACQUIRING ends, and with nothing to revisit the step closes. -/
theorem test_seriesComplete_ends_acquiring :
    let s := scanning { inPass 0 none with state := .done }
    (after (.seriesComplete .h0) s).oe.counts.stepsCompleted = 1
    ∧ (after (.seriesComplete .h0) s).oe.engine = .stepMove := by decide +kernel

/-! ## Heads (O14, O16 to O18) -/

/-- O14's premises on the head's state. -/
theorem test_meets_unjudged_messages :
    ((orderedHead .scan .acquiring .off).ports.get .h0).state = .off
    ∧ ((orderedHead .scan .acquiring .fault).ports.get .h0).state = .fault
    ∧ ((orderedHead .scan .acquiring .forcedOff).ports.get .h0).state = .forcedOff
    ∧ ((orderedHead .scan .acquiring .waking).ports.get .h0).state ≠ .ready
    ∧ ((orderedHead .scan .acquiring .ready).ports.get .h0).state ≠ .waking := by decide +kernel

/-- O14's premise, and the READY of a waking head. -/
theorem test_readyReceived_ends_wake :
    ((orderedHead .scan .loading .waking).ports.get .h0).state = .waking
    ∧ ((after (.readyReceived .h0) (orderedHead .scan .loading .waking)).ports.get .h0).state = .ready := by
  decide +kernel

theorem test_readyReceived_in_ready_is_link_fault :
    ((after (.readyReceived .h0) (ordered .scan .loading)).ports.get .h0).faultRecord = .port .linkState := by
  decide +kernel

/-- O16's premises: each cause in a state that meets it. -/
theorem test_meets_head_faults :
    ((orderedHead .scan .loading .waking).ports.get .h0).state = .waking
    ∧ ((orderedHead .scan .loading .waking).ports.get .h0).linkWatch = true ∧ (1 : Byte) ≠ 0 ∧ (255 : Byte) ≠ 0
    ∧ ({ portIn .waking with wakeTimer := .running 0 100000 } : Port).wakeTimer ≠ .stopped
    ∧ ((ordered .scan .acquiring).ports.get .h0).state = .ready
    ∧ oldestOpen ((ordered .scan .acquiring).ports.get .h0).inFlight = none
    ∧ oldestOpen ((flying [flight 3 1 1]).ports.get .h0).inFlight = some (flight 3 1 1)
    ∧ (flight 3 1 1).seq ≠ (sample 4 50).seq := by decide +kernel

/-- Two heads in an order, head 0 READY in its first pass with one group in flight and a pending gap. -/
def twoHeads : State :=
  let s := flying [flight 3 1 1]
  let a := order .scan
  { s with
    ports := { s.ports with h0 := { s.ports.h0 with gap := some ⟨2, ⟨.normal, 0⟩, 4, ⟨.normal, 0⟩, 0, 2⟩ }
                            h1 := portIn .ready }
    tg := { s.tg with heads := { s.tg.heads with
      h1 := { HeadPasses.reset with scan := .armedFor ⟨.normal, 0⟩ 1, seriesOpen := true } } }
    oe := { s.oe with active := some { a with header := { a.header with mask := ⟨true, true, false, false⟩ } } } }

/-- O16's premises for an exclusion: of the last head of the mask, and of one of two, with points withheld. -/
theorem test_meets_exclusion :
    ((ordered .scan .acquiring).oe.engine.running = true ∧ (ordered .scan .acquiring).oe.endSlot = none
      ∧ (ordered .scan .acquiring).mask = ⟨true, false, false, false⟩
      ∧ (ordered .scan .acquiring).oe.excluded.get .h0 = false ∧ (ordered .scan .acquiring).orderKind = some .scan)
    ∧ (twoHeads.mask.get .h1 = true ∧ twoHeads.oe.excluded.get .h1 = false ∧ twoHeads.tg.zones = some oneTable
      ∧ (twoHeads.scan .h0).state = .inPass 
      ∧ scanPoints 1024 oneTable [] .h0 ⟨.normal, 0⟩ = [(0, 0), (2, 0), (4, 0), (6, 0), (8, 0)]
      ∧ twoHeads.sb.staged.length ≤ 1022 ∧ (twoHeads.ports.get .h0).heldHeadLost = none)
    ∧ (ordered .mark .idle).oe.engine.running = false := by decide +kernel

/-- The group is abandoned and its point handed first, then the withheld points; the gap stands before the GAP
record that covers them. -/
theorem test_exclusion_hands_points :
    let t := after (.alertReceived .h0 9) twoHeads
    t.oe.counts.abandoned = 1 ∧ t.oe.excluded.get .h0 = true ∧ t.oe.endSlot = none
    ∧ t.ru.next.map (fun e => (e.first, e.last)) = [(4, 8)]
    ∧ t.sb.staged.map (·.record)
      = [.gap ⟨.h0, .gap, 0, 0, ⟨.normal, 0⟩, ⟨.normal, 0⟩, .none, 0, 2, 4, 2⟩,
         .gap ⟨.h0, .headLost, 0, 0, ⟨.normal, 0⟩, ⟨.normal, 0⟩, .none, 0, 6, 8, 2⟩] := by decide +kernel

theorem test_alertReceived_excludes_last_head :
    let t := after (.alertReceived .h0 9) (ordered .scan .acquiring)
    (t.ports.get .h0).faultRecord = .head 9 ∧ t.oe.endSlot = some ⟨.headsLost, 0⟩ := by decide +kernel

theorem test_frameError_is_recorded :
    ((after (.frameError .h0) (ordered .mark .idle)).ports.get .h0).faultRecord = .port .linkFrame := by decide +kernel

theorem test_linkLoss_is_taken_once :
    ((after (.linkLoss .h0) (ordered .mark .idle)).ports.get .h0).faultRecord = .port .linkLost
    ∧ ((after (.linkLoss .h0) (ordered .mark .idle)).ports.get .h0).linkWatch = false
    ∧ after (.linkLoss .h0) (after (.linkLoss .h0) (ordered .mark .idle)) = after (.linkLoss .h0) (ordered .mark .idle) := by
  decide +kernel

theorem test_linkActivity_restarts_watch :
    ((after (.linkActivity .h0) (after (.linkLoss .h0) (ordered .mark .idle))).ports.get .h0).linkWatch = true := by
  decide +kernel

theorem test_wakeTimerExpiry_faults_head :
    let s := { orderedHead .mark .idle .waking with
      ports := { PerHead.all Port.reset with h0 := { portIn .waking with wakeTimer := .running 0 100000 } } }
    ((after (.wakeTimerExpiry .h0) s).ports.get .h0).faultRecord = .port .wakeTimeout := by decide +kernel

/-- O17's premises: the first exposure of a burst of two, with its sequence number. -/
theorem test_meets_replies_retire :
    oldestOpen ((flying [flight 3 1 2, flight 4 2 2]).ports.get .h0).inFlight = some (flight 3 1 2)
    ∧ (flight 3 1 2).ordinal ≠ (flight 3 1 2).burst ∧ (flight 3 1 2).seq = (sample 3 50).seq
    ∧ ((flying [flight 3 1 2, flight 4 2 2]).ports.get .h0).state = .ready := by decide +kernel

/-- O18's premises on the pass: ended with no other group of it left, and going on. -/
theorem test_meets_drained_pass :
    (scanning { inPass 5 none with state := .done }).passEnded .h0 ⟨.normal, 0⟩ = true
    ∧ (flying [flight 3 1 1]).passEnded .h0 ⟨.normal, 0⟩ = false := by decide +kernel

/-- O18's premises, with a group that counts and one that is abandoned. -/
theorem test_meets_completed_group :
    oldestOpen ((flying [flight 3 1 1]).ports.get .h0).inFlight = some (flight 3 1 1)
    ∧ (flight 3 1 1).ordinal = (flight 3 1 1).burst ∧ 1 ≤ (flight 3 1 1).burst
    ∧ (flight 3 1 1).seq = (sample 3 50).seq
    ∧ (([{ flight 3 1 1 with abandoned := true }] : List InFlight).take 1).any (fun g => g.abandoned) = true := by
  decide +kernel

theorem test_sampleReceived_accepts_good_outcome :
    let t := after (.sampleReceived .h0 (sample 3 50)) (flying [flight 3 1 1])
    t.oe.counts.accepted = 1 ∧ (t.ports.get .h0).inFlight = [] ∧ t.sb.staged.length = 1 := by decide +kernel

theorem test_responseTimerExpiry_rejects :
    let t := after (.responseTimerExpiry .h0) (flying [flight 3 1 1])
    t.oe.counts.rejected = 1 ∧ (t.ports.get .h0).inFlight = [] ∧ t.sb.staged = [] := by decide +kernel

/-- O14's premise on the selection. -/
theorem test_meets_pulse_end :
    ∀ h, (⟨.signal .h0 .triggerIssued, true⟩ : MonOutput).selection ≠ .signal h .inPass := by
  intro h
  cases h <;> decide

theorem test_monPulseEnd_lowers_output :
    let s := { State.reset with mon1 := ⟨.signal .h0 .outcomeGood, true⟩ }
    s.monLevel s.mon1 = true ∧ (after (.monPulseEnd .mon1) s).mon1.pulse = false := by decide +kernel

/-! ## Light (O19) -/

/-- O19's premises: the condition absent, present, and present in AUTO. -/
theorem test_meets_light :
    State.reset.light.present = false
    ∧ ({ State.reset with light := ⟨.low, true, .auto⟩ } : State).light.present = true
    ∧ ({ State.reset with light := ⟨.low, true, .auto⟩ } : State).light.mode = .auto
    ∧ ({ State.reset with light := ⟨.low, true, .latched⟩ } : State).light.mode ≠ .auto
    ∧ State.reset.light.judgement ≠ .low ∧ State.reset.light.judgement ≠ .good
    ∧ ({ State.reset with light := ⟨.good, true, .auto⟩ } : State).light.judgement = .good
    ∧ (ordered .scan .acquiring).oe.engine = .acquiring ∧ (ordered .scan .stepMove).oe.engine ≠ .revisiting := by
  decide +kernel

/-- AUTO clears where the judgement becomes GOOD, and not where it is GOOD already. -/
theorem test_lightJudgedGood_again_changes_nothing :
    let s := { State.reset with light := ⟨.good, true, .auto⟩ }
    after .lightJudgedGood s = s
    ∧ (after .lightJudgedGood { s with light := ⟨.low, true, .auto⟩ }).light.present = false := by decide +kernel

theorem test_lightJudgedLow_interrupts_step :
    let t := after .lightJudgedLow (ordered .scan .acquiring)
    t.oe.engine = .lightWait ∧ t.oe.interrupting = true ∧ (t.ports.get .h0).state = .forcedOff
    ∧ (t.ports.get .h0).sent = [.sleep] ∧ t.notice .lightLow = true := by decide +kernel

theorem test_lightJudgedGood_wakes_head :
    let t := after .lightJudgedGood (after .lightJudgedLow (ordered .scan .acquiring))
    t.light.present = false ∧ (t.ports.get .h0).state = .waking
    ∧ (t.ports.get .h0).sent = [.sleep, .wake ⟨1, 2, 3, 4⟩ 20] := by decide +kernel

/-! ## The Qualifier (O20 to O23) -/

/-- An exposure with a reply. -/
def reply (quality : Byte) (saturated : Bool) : Exposure := .reply 100 5 quality saturated false 0

/-- O20's premises: a group with usable exposures, and one without; a quality below and at the floor. -/
theorem test_meets_chosen_exposure :
    (∃ x ∈ [Exposure.noReply 0, reply 20 false, reply 20 false], x.usable = true)
    ∧ (∀ x ∈ [Exposure.noReply 0, reply 20 true], x.usable = false)
    ∧ (9 : Byte).toNat < (10 : Byte).toNat ∧ (10 : Byte).toNat ≤ (10 : Byte).toNat := by decide +kernel

theorem test_chosen_exposure_is_earliest_best :
    chosenExposure [reply 20 false, .reply 1 5 30 false false 0, .reply 2 5 30 false false 0, reply 200 true]
      = .reply 1 5 30 false false 0
    ∧ chosenExposure [.noReply 0, reply 20 true] = .noReply 0 := by decide +kernel

/-- The table whose points are 4,096 i. -/
def straightTable : List Int := (List.range 257).map fun i : Nat => 4096 * (i : Int)

/-- O21's premises, at a raw code on a point and at the last one. -/
theorem test_meets_correction :
    straightTable.length = 257 ∧ (4096 : BitVec 20).toNat % 4096 = 0 ∧ (0xFFFFF : BitVec 20).toNat / 4096 = 255
    ∧ ∀ p ∈ straightTable, -536870912 ≤ p ∧ p ≤ 536870911 := by decide +kernel

theorem test_straight_table_points : ∀ i : Nat, i < 257 → straightTable[i]? = some (4096 * (i : Int)) := by
  intro i hi
  simp [straightTable, hi]

theorem test_correction_floors :
    CorrectionTable.correct (.points straightTable) 0xFFFFF = 1048575
    ∧ CorrectionTable.correct (.points (0 :: -3 :: List.replicate 255 0)) 2000 = -2
    ∧ CorrectionTable.correct .identity 77 = 77 := by decide +kernel

/-- The same state with an order that keeps rejected samples, and a pending gap at head 0. -/
def keeping (s : State) : State :=
  let a := order .scan
  { s with
    ports := s.ports.set .h0 { s.ports.get .h0 with gap := some ⟨2, ⟨.normal, 0⟩, 4, ⟨.normal, 0⟩, 0, 65535⟩ }
    oe := { s.oe with active := some { a with header := { a.header with
      flags := { a.header.flags with keepRejected := true } } } } }

/-- A rejected sample that is kept follows the pending gap; one that is dropped extends it, to its limit. -/
theorem test_kept_rejected_sample :
    (qualify .h0 (flight 3 1 1) [reply 9 false] (keeping (full 1015 (flying [])))).sb.staged.length = 1017
    ∧ (qualify .h0 (flight 3 1 1) [reply 9 false] (keeping (full 1015 (flying [])))).oe.counts.rejected = 1
    ∧ (qualify .h0 (flight 3 1 1) [reply 9 false] (keeping (full 1016 (flying [])))).oe.counts.dropped = 1
    ∧ ((qualify .h0 (flight 3 1 1) [reply 9 false] (keeping (full 1016 (flying [])))).ports.get .h0).gap.map (·.count)
      = some 65535 := by decide +kernel

/-- O22's premises: room for one sample more and for none, and a bad outcome not kept. -/
theorem test_meets_outcome_counted :
    (ordered .scan .acquiring).oe.active = some (order .scan) ∧ (flight 0 1 1).pass.kind ≠ .reference
    ∧ judge (chosenExposure [reply 10 false]) (flight 0 1 1).floor = .none
    ∧ judge (chosenExposure [reply 9 false]) (flight 0 1 1).floor ≠ .none
    ∧ (full 1015 (ordered .scan .acquiring)).sb.staged.length < 1016
    ∧ 1016 ≤ (full 1016 (ordered .scan .acquiring)).sb.staged.length
    ∧ (order .scan).header.flags.keepRejected = false
    ∧ (keeping (flying [])).oe.active.map (·.header.flags.keepRejected) = some true := by decide +kernel

/-- A sample dropped at 1,016 records opens the head's pending gap. -/
theorem test_dropped_sample_opens_gap :
    let t := after (.sampleReceived .h0 (sample 3 50)) (full 1016 (flying [flight 3 1 1]))
    t.oe.counts.dropped = 1 ∧ t.sb.dropFlag = true ∧ t.notice .outputLoss = true
    ∧ ((t.ports.get .h0).gap.map (·.count)) = some 1 := by decide +kernel

/-- Head 0's filter counter and fault action, in an ordered state in its first pass. -/
def filtered (n : Nat) (a : FaultAction) : State :=
  { flying [] with
    ports := { PerHead.all Port.reset with
      h0 := { portIn .ready with config := some { headConfig with action := some a } } }
    qu := { Qualifier.reset with heads := { PerHead.all ⟨.identity, none, 0, 0⟩ with h0 := ⟨.identity, none, 0, n⟩ } } }

/-- O23's premises: the limit reached under each fault action, and not reached. -/
theorem test_meets_filter_limit :
    (((filtered 2 .continueOn).ports.get .h0).config = some headConfig ∧ 0 < headConfig.limit
      ∧ headConfig.limit ≤ ((filtered 2 .continueOn).qu.heads.get .h0).filter
      ∧ headConfig.action = some .continueOn)
    ∧ (((filtered 2 .suspendPass).ports.get .h0).config.map (·.action)) = some (some .suspendPass)
    ∧ (((filtered 2 .failOrder).ports.get .h0).config.map (·.action)) = some (some .failOrder)
    ∧ (filtered 2 .failOrder).oe.engine.running = true ∧ (filtered 2 .failOrder).oe.endSlot = none
    ∧ (filtered 2 .failOrder).uc.unit ≠ .starting
    ∧ (endCondition ⟨.driftLimit, 0⟩ (filtered 2 .failOrder)).oe.endSlot ≠ none
    ∧ ¬(0 < headConfig.limit ∧ headConfig.limit ≤ ((filtered 1 .continueOn).qu.heads.get .h0).filter) := by
  decide +kernel

theorem test_filterLimit_by_action :
    ((after (.filterLimit .h0) (filtered 2 .continueOn)).qu.heads.get .h0).filter = 0
    ∧ ((after (.filterLimit .h0) (filtered 2 .suspendPass)).scan .h0).withheld = true
    ∧ (after (.filterLimit .h0) (filtered 2 .failOrder)).oe.endSlot = some ⟨.headFaultAction, 0⟩ := by decide +kernel

/-! ## Withheld points and the lists (O11, O24 to O26) -/

/-- O24's premises: by the record's state, with points left and none, with room and in a full buffer. -/
theorem test_meets_suspension :
    (scanning (inPass 5 (some 6))).tg.zones = some oneTable
    ∧ ((scanning (inPass 5 (some 6))).scan .h0).state = .inPass
    ∧ ((scanning (.armedFor ⟨.normal, 0⟩ 1)).scan .h0).state = .waitingStart
    ∧ ((ordered .scan .acquiring).scan .h0).state = .notArmed
    ∧ ((scanning { inPass 0 none with state := .done }).scan .h0).state = .done
    ∧ (scanning (inPass 5 (some 6))).suspendedPoints oneTable .h0 = [(6, 0), (8, 0)]
    ∧ (scanning (inPass 8 none)).suspendedPoints oneTable .h0 = []
    ∧ (full 1022 (scanning (inPass 5 (some 6)))).sb.staged.length ≤ 1022
    ∧ ((scanning (inPass 5 (some 6))).ports.get .h0).heldSuspended = none
    ∧ 1024 ≤ (full 1024 (scanning (inPass 5 (some 6)))).sb.staged.length := by decide +kernel

/-- In a full buffer the record is held, and a later one folds into it. -/
theorem test_suspension_holds_its_record :
    let t := suspendScan .h0 (full 1024 (scanning (inPass 5 (some 6))))
    let u := suspendScan .h0 (t.onScan .h0 fun _ => inPass 5 (some 8))
    (t.ports.get .h0).heldSuspended.map (fun r => (r.first, r.last, r.count)) = some (6, 8, 2)
    ∧ (u.ports.get .h0).heldSuspended.map (fun r => (r.first, r.last, r.count)) = some (6, 8, 3) := by decide +kernel

/-- A suspended final pass hands its points as candidates and a GAP record. -/
theorem test_suspension_hands_points :
    let t := suspendScan .h0 (scanning (inPass 5 (some 6)))
    t.ru.next = [⟨.h0, 0, 6, 8, { Reasons.none with suspended := true }, 0⟩] ∧ t.oe.counts.created = 1
    ∧ t.sb.staged.map (·.record)
      = [.gap ⟨.h0, .suspended, 0, 0, ⟨.normal, 0⟩, ⟨.normal, 0⟩, .none, 0, 6, 8, 2⟩] := by
  decide +kernel

/-- An entry of head 0 at the points 4 to 6. -/
def anEntry : Entry := ⟨.h0, 0, 4, 6, { Reasons.none with quality := true }, 0⟩

/-- An ordered state with a next list, in a list phase. -/
def listed (p : ListPhase) (l : List Entry) : State :=
  { flying [] with ru := { Revisit.reset with phase := p, next := l } }

/-- A due point of a pass in the zone of the test table. -/
def dueAt (point : Nat) (pass : PassId) : Request :=
  { point := point, zone := some 0, pass := pass, step := some 0, revolution := 0, expClass := 0, floor := 10, burst := 1 }

/-- O11's premises for a candidate: the last normal pass in a zone with REVISIT, and a revisit pass; and neither. -/
theorem test_meets_busy_candidate :
    ((dueAt 4 ⟨.normal, 0⟩).pass.kind = .normal ∧ 0 + 1 = (listed .acquiring []).revolutions
      ∧ (listed .acquiring []).zone 0 = some oneZone ∧ oneZone.revisit = true)
    ∧ (dueAt 4 ⟨.revisit, 1⟩).pass.kind = .revisit
    ∧ 1 + 1 ≠ (listed .acquiring []).revolutions := by decide +kernel

/-- A point skipped at a head that is not READY is a BUSY candidate in the last pass, and not in another one. -/
theorem test_skipped_point_is_candidate :
    let s := { listed .acquiring [] with ports := .all (portIn .waking) }
    (scanPointDue .h0 0 (dueAt 4 ⟨.normal, 0⟩) s).ru.next = [⟨.h0, 0, 4, 4, .ofBusy, 0⟩]
    ∧ (scanPointDue .h0 0 (dueAt 4 ⟨.normal, 1⟩) s).ru.next = []
    ∧ (scanPointDue .h0 0 (dueAt 4 ⟨.normal, 1⟩) s).oe.counts.skipped = 1 := by decide +kernel

/-- O25's premises: IDLE, an empty list, a full list of another head, a covered point, and points
that abut one entry or two. -/
theorem test_meets_candidate :
    (listed .idle []).ru.phase = .idle
    ∧ ((listed .acquiring []).ru.phase ≠ .idle ∧ (listed .acquiring []).ru.next.length < 128)
    ∧ ((∀ e ∈ (listed .acquiring (List.replicate 128 { anEntry with head := .h1 })).ru.next, e.head ≠ .h0)
      ∧ 128 ≤ (listed .acquiring (List.replicate 128 { anEntry with head := .h1 })).ru.next.length)
    ∧ (anEntry.head = .h0 ∧ anEntry.zone = 0 ∧ anEntry.low 1024 oneTable ≤ windowOffset 1024 oneTable.start 6
      ∧ windowOffset 1024 oneTable.start 6 ≤ anEntry.high 1024 oneTable)
    ∧ (anEntry.high 1024 oneTable + oneTable.pitchOf 0 = windowOffset 1024 oneTable.start 8
      ∧ anEntry.low 1024 oneTable ≠ windowOffset 1024 oneTable.start 8 + oneTable.pitchOf 0)
    ∧ (anEntry.low 1024 oneTable = windowOffset 1024 oneTable.start 2 + oneTable.pitchOf 0
      ∧ anEntry.high 1024 oneTable + oneTable.pitchOf 0 ≠ windowOffset 1024 oneTable.start 2)
    ∧ ({ anEntry with first := 0, last := 0 } : Entry).high 1024 oneTable + oneTable.pitchOf 0
      = windowOffset 1024 oneTable.start 2 := by decide +kernel

/-- O25's premise for a list in the order of R84, with room and no entry near the point 8 of head 1. -/
theorem test_meets_inserted_entry :
    let l : List Entry := [anEntry, { anEntry with head := .h1, first := 0, last := 2 }, { anEntry with head := .h2 }]
    (∀ e ∈ l, ¬(e.head = .h1 ∧ e.high 1024 oneTable + oneTable.pitchOf 0 ≥ windowOffset 1024 oneTable.start 8))
    ∧ l.length < 128
    ∧ (l.Pairwise fun a b => a.head.num < b.head.num
        ∨ (a.head = b.head ∧ a.low 1024 oneTable ≤ b.low 1024 oneTable))
    ∧ (candidate .h1 0 8 .ofBusy (listed .acquiring l)).ru.next
      = l.take 2 ++ ⟨.h1, 0, 8, 8, .ofBusy, 0⟩ :: l.drop 2 := by decide +kernel

/-- Candidates that abut an entry extend it, and one between two entries joins them. -/
theorem test_candidates_merge :
    (candidate .h0 0 8 .ofBusy (listed .acquiring [anEntry])).ru.next.map (·.last) = [8]
    ∧ (candidate .h0 0 2 .ofBusy (listed .acquiring [anEntry])).ru.next.map (·.first) = [2]
    ∧ (candidate .h0 0 2 .ofBusy (listed .acquiring [{ anEntry with first := 0, last := 0 }, anEntry])).ru.next.map
        (fun e => (e.first, e.last)) = [(0, 6)] := by decide +kernel

/-- O26's premises: a round to start, none left, and nothing to revisit. -/
theorem test_meets_round :
    ((listed .acquiring [anEntry]).oe.active = some (order .scan)
      ∧ (listed .acquiring [anEntry]).ru.round < (order .scan).header.revisitLimit
      ∧ ∃ e ∈ (listed .acquiring [anEntry]).ru.next, (listed .acquiring [anEntry]).oe.excluded.get e.head = false)
    ∧ ¬(1 < (order .scan).header.revisitLimit) ∧ (listed .acquiring []).ru.next = [] := by decide +kernel

/-- A step whose revisit limit is reached, with one entry left, at a step index. -/
def lastRound (e : Entry) (step : Nat) : State :=
  let s := listed .acquiring [e]
  { s with ru := { s.ru with round := 1 }, oe := { s.oe with stepIndex := step, beginTaken := true } }

/-- O26's premises for a close: with room to the last entry, in a full buffer, with a step more and with none. -/
theorem test_meets_step_close :
    ¬((lastRound anEntry 0).ru.round < (order .scan).header.revisitLimit)
    ∧ (full 1022 (lastRound anEntry 0)).sb.staged.length + (lastRound anEntry 0).ru.next.length + 1 ≤ 1024
    ∧ 1024 ≤ (full 1024 (lastRound anEntry 0)).sb.staged.length ∧ (lastRound anEntry 0).tg.zones = some oneTable
    ∧ (lastRound anEntry 0).oe.stepIndex + 1 < (order .scan).header.stepCount
    ∧ (order .scan).header.stepCount ≤ (lastRound anEntry 1).oe.stepIndex + 1
    ∧ (lastRound anEntry 0).sf.settleActive = false
    ∧ { (lastRound anEntry 0) with sf := { (lastRound anEntry 0).sf with w := 1 } }.sf.settleActive = true := by decide +kernel

/-- The UNRESOLVED record stands before the STEP-end record; in a full buffer it is held. -/
theorem test_step_close :
    (roundDecision (lastRound anEntry 0)).oe.engine = .stepMove
    ∧ (roundDecision (lastRound anEntry 1)).oe.endSlot = some ⟨.complete, 0⟩
    ∧ (roundDecision (lastRound { anEntry with attempts := 1 } 1)).sb.staged.map (·.record)
      = [.gap ⟨.h0, .unresolved, 1, 0, ⟨.revisit, 1⟩, ⟨.revisit, 1⟩, anEntry.reasons, 1, 4, 6, 2⟩,
         .stepEnd ⟨7, 1, 0, 0, 1, 0⟩]
    ∧ (roundDecision (full 1024 (lastRound anEntry 0))).ru.held.isSome = true
    ∧ (roundDecision (full 1024 (listed .acquiring []))).oe.marker.isSome = true := by decide +kernel

/-! ## Reference checks (O2, O27 to O29) -/

/-- A mode of the Reference Check Unit and head 0's part of it, in an ordered state. -/
def checked (m : RefMode) (r : HeadRef) : State :=
  { ordered (if m = .calibrating then .calibrateReference else .scan) .acquiring with
    tg := (flying []).tg
    rc := { config := some refConfig, mode := m, heads := { PerHead.all HeadRef.reset with h0 := r } } }

/-- A passage whose end has been taken, with a tally. -/
def ended (t : Tally) : HeadRef := { HeadRef.reset with nominalValid := true, passage := .opened, endTaken := true, tally := t }

/-- O27's premises: each verdict's tally, both modes, and a buffer with an entry free and full. -/
theorem test_meets_completed_passage :
    (⟨3, 1, 5⟩ : Tally).good * 2 < (⟨3, 1, 5⟩ : Tally).triggers
    ∧ (¬(⟨2, 1, 6⟩ : Tally).good * 2 < (⟨2, 1, 6⟩ : Tally).triggers ∧ 5 < ((6 : Int) - 0).natAbs)
    ∧ (¬(⟨2, 1, 5⟩ : Tally).good * 2 < (⟨2, 1, 5⟩ : Tally).triggers ∧ ((5 : Int) - 0).natAbs ≤ 5)
    ∧ ((checked .checking (ended ⟨2, 1, 5⟩)).rc.mode = .checking
      ∧ ((checked .checking (ended ⟨2, 1, 5⟩)).rc.heads.get .h0).passage = .opened
      ∧ ((checked .checking (ended ⟨2, 1, 5⟩)).rc.heads.get .h0).endTaken = true
      ∧ ((checked .checking (ended ⟨2, 1, 5⟩)).ports.get .h0).inFlight = []
      ∧ (full 1023 (checked .checking (ended ⟨2, 1, 5⟩))).sb.staged.length < 1024
      ∧ 1024 ≤ (full 1024 (checked .checking (ended ⟨2, 1, 5⟩))).sb.staged.length)
    ∧ (checked .calibrating (ended ⟨2, 1, 5⟩)).rc.mode = .calibrating := by decide +kernel

/-- A passage over the drift limit, with a drift action and an end slot. -/
def overLimit (x : DriftAction) (slot : Option EndSlot) : State :=
  let s := checked .checking (ended ⟨2, 1, 6⟩)
  { s with rc := { s.rc with config := some { refConfig with driftAction := x } }
           oe := { s.oe with endSlot := slot } }

/-- O27's premises for OVER_LIMIT: either drift action, the order's end open and decided; and a SPARSE passage. -/
theorem test_meets_over_limit :
    (let r := (overLimit .warn none).rc.heads.get .h0
     checkVerdict r.tally r.nominalValid r.nominal 5 = .overLimit ∧ (overLimit .warn none).sb.staged.length < 1024)
    ∧ (overLimit .warn none).rc.config.map (·.driftAction) ≠ some .fail
    ∧ ((overLimit .fail none).rc.config.map (·.driftAction) = some .fail
      ∧ (overLimit .fail none).oe.engine.running = true ∧ (overLimit .fail none).oe.endSlot = none)
    ∧ (overLimit .fail (some ⟨.lightLost, 0⟩)).oe.endSlot ≠ none
    ∧ checkVerdict (ended ⟨3, 1, 5⟩).tally true 0 5 = .sparse := by decide +kernel

theorem test_passageComplete_over_limit :
    (let t := after (.passageComplete .h0) (overLimit .warn none)
     t.oe.flags.driftWarned = true ∧ t.oe.endSlot = none ∧ t.notice .drift = true)
    ∧ (let t := after (.passageComplete .h0) (overLimit .fail (some ⟨.lightLost, 0⟩))
       t.oe.endSlot = some ⟨.lightLost, 0⟩ ∧ t.notice .drift = true) := by decide +kernel

theorem test_passageComplete_sets_drift :
    let t := after (.passageComplete .h0) (checked .checking (ended ⟨2, 2, -3⟩))
    (t.rc.heads.get .h0).drift = -2 ∧ (t.rc.heads.get .h0).passage = .idle ∧ t.oe.endSlot = none := by decide +kernel

theorem test_passageComplete_over_limit_ends_order :
    let t := after (.passageComplete .h0) (checked .checking (ended ⟨2, 1, 6⟩))
    t.oe.endSlot = some ⟨.driftLimit, 0⟩ ∧ t.notice .drift = true := by decide +kernel

/-- O28's premises: a passage due, and one a count short. -/
theorem test_meets_due_passage :
    (let s := checked .checking { HeadRef.reset with due := 4 }
     s.rc.mode = .checking ∧ s.rc.config = some refConfig ∧ refConfig.interval ≤ (s.rc.heads.get .h0).due
      ∧ (s.rc.heads.get .h0).passage = .idle ∧ (s.ports.get .h0).state = .ready ∧ s.mask.get .h0 = true
      ∧ s.oe.excluded.get .h0 = false ∧ (s.ref .h0).state = .notArmed)
    ∧ ¬refConfig.interval ≤ ({ HeadRef.reset with due := 3 } : HeadRef).due := by decide +kernel

theorem test_referenceDue_arms_passage :
    let t := after (.referenceDue .h0) (checked .checking { HeadRef.reset with due := 4 })
    (t.ref .h0).state = .waitingStart ∧ (t.rc.heads.get .h0).passage = .opened := by decide +kernel

/-- O29's premises: the one head of the mask judged, not short and short. -/
theorem test_meets_calibration :
    (let s := checked .calibrating { HeadRef.reset with calDone := 1, calTally := ⟨2, 1, 7⟩ }
     s.sb.staged.length + 4 ≤ 1024 ∧ s.judgedHeads = [.h0]
      ∧ ∀ h ∈ s.judgedHeads, ¬(s.rc.heads.get h).calTally.good * 2 < (s.rc.heads.get h).calTally.triggers)
    ∧ (let s := checked .calibrating { HeadRef.reset with calDone := 1, calTally := ⟨3, 1, 7⟩ }
       (∃ h ∈ s.judgedHeads, (s.rc.heads.get h).calTally.good * 2 < (s.rc.heads.get h).calTally.triggers)
        ∧ s.oe.engine.running = true ∧ s.oe.endSlot = none)
    ∧ (full 1020 (checked .calibrating .reset)).sb.staged.length + 4 ≤ 1024 := by decide +kernel

/-- A calibration of two heads in LIGHT_WAIT, both WAKING: head 0 has made its passages, head 1 has not. -/
def halfMeasured : State :=
  let s := ordered .calibrateReference .lightWait
  let a := order .calibrateReference
  { s with
    ports := { PerHead.all Port.reset with h0 := portIn .waking, h1 := portIn .waking }
    rc := { config := some refConfig, mode := .calibrating, heads := { PerHead.all HeadRef.reset with
      h0 := { HeadRef.reset with calDone := 1, calTally := ⟨2, 1, 7⟩ } } }
    oe := { s.oe with beginTaken := true, active := some { a with header := { a.header with mask := ⟨true, true, false, false⟩ } } } }

/-- O29's premises for when a calibration is judged: a measurement that is not finished, and one that an exclusion
finishes in LIGHT_WAIT, which is judged at that exclusion while the wait goes on. -/
theorem test_calibration_judged_in_light_wait :
    (halfMeasured.oe.engine.running = true ∧ halfMeasured.rc.mode = .calibrating ∧ halfMeasured.measured = false)
    ∧ ({ halfMeasured with oe := { halfMeasured.oe with excluded := ⟨false, true, false, false⟩ } } : State).measured
      = true
    ∧ (let t := after (.alertReceived .h1 9) halfMeasured
       t.oe.endSlot = some ⟨.complete, 0⟩ ∧ (t.rc.heads.get .h0).nominal = 7 ∧ (t.rc.heads.get .h0).nominalValid = true
        ∧ (t.rc.heads.get .h1).nominalValid = false ∧ (t.ports.get .h0).state = .waking ∧ t.sb.staged.length = 2) := by
  decide +kernel

/-! ## Lines (O30, O31) -/

/-- An ordered state in STEP_MOVE with a handshake phase and the levels of the wait lines. -/
def handshaking (p : Handshake) (w : BitVec 4) : State :=
  { ordered .scan .stepMove with
    sf := { Span.reset ⟨w, 0⟩ with config := some spanConfig, handshake := p, stepReq := p == .requesting,
                                   settleTimer := .running 0 20000 } }

/-- An ordered state with a fixture phase and the levels of the fixture lines. -/
def watching (p : FixturePhase) (e : EngineState) (f : BitVec 8) : State :=
  { ordered .scan e with
    sf := { Span.reset ⟨0, f⟩ with config := some spanConfig, fixture := p, fixtureTimer := .running 0 100000 } }

/-- O30's premises, line by line. -/
theorem test_meets_line_changes :
    ((handshaking .idle 0).sf.toggled (.wait 1)).isSettleLine (.wait 1) = false
    ∧ ((handshaking .idle 0).sf.toggled (.wait 1)).isWatched (.wait 1) = false
    ∧ ((handshaking .idle 0).sf.toggled (.wait 0)).isSettleLine (.wait 0) = true
    ∧ ((handshaking .requesting 1).sf.toggled (.wait 0)).settleActive = false
    ∧ ((handshaking .settling 0).sf.toggled (.wait 0)).settleActive = true
    ∧ (handshaking .settling 0).oe.active = some (order .scan) ∧ (handshaking .settling 0).sb.staged.length < 1024
    ∧ ((watching .matching .arming 0).sf.toggled (.fixture 0)).isWatched (.fixture 0) = true
    ∧ ((watching .matching .arming 0).sf.toggled (.fixture 0)).matched = true
    ∧ (watching .watching .acquiring 1).oe.engine.running = true
    ∧ (watching .watching .acquiring 1).oe.endSlot = none
    ∧ (watching .watching .acquiring 1).uc.unit ≠ .starting := by decide +kernel

/-- O30's and O31's premises where the step starts: an order's own step alone due, its head working, the light
condition absent and present, and a full buffer; and the fixture match of a calibration. -/
theorem test_meets_step_start :
    Quiet (handshaking .settling 0)
    ∧ ((order .scan).header.mask.get .h0 = true ∧ (handshaking .settling 0).oe.excluded.get .h0 = false
      ∧ (order .scan).header.mask.get .h1 = false)
    ∧ ((handshaking .settling 0).light.present = false ∧ (dark (handshaking .settling 0)).light.present = true)
    ∧ 1024 ≤ (full 1024 (handshaking .settling 0)).sb.staged.length
    ∧ ((order .scan).header.kind = some .scan ∧ (order .calibrateReference).header.kind = some .calibrateReference) :=
  ⟨⟨by decide, fun h => by cases h <;> decide, by decide⟩, by decide +kernel⟩

theorem test_step_start_arms_or_waits :
    (let t := after (.takenLevelChange (.wait 0)) (handshaking .settling 0)
     t.scan .h0 = .armedFor ⟨.normal, 0⟩ 1 ∧ (t.scan .h1).state = .notArmed ∧ t.sf.handshake = .idle)
    ∧ (let t := after .settleTimerExpiry (dark (handshaking .settling 0))
       t.oe.engine = .lightWait ∧ (t.scan .h0).state = .notArmed ∧ t.oe.settle = .unsettled)
    ∧ (after .settleTimerExpiry (full 1024 (handshaking .settling 0))).oe.marker.isSome = true := by decide +kernel

theorem test_takenLevelChange_acknowledges_and_settles :
    (after (.takenLevelChange (.wait 0)) (handshaking .requesting 1)).sf.handshake = .settling
    ∧ (after (.takenLevelChange (.wait 0)) (handshaking .requesting 1)).sf.stepReq = false
    ∧ (after (.takenLevelChange (.wait 0)) (handshaking .settling 0)).oe.engine = .acquiring
    ∧ ((after (.takenLevelChange (.wait 0)) (handshaking .settling 0)).scan .h0).state = .waitingStart := by
  decide +kernel

theorem test_takenLevelChange_of_fixture :
    (after (.takenLevelChange (.fixture 0)) (watching .matching .arming 0)).oe.engine = .stepMove
    ∧ (after (.takenLevelChange (.fixture 0)) (watching .watching .acquiring 1)).oe.endSlot
      = some ⟨.fixtureChanged, 0⟩ := by decide +kernel

/-- The same with an order that does not accept an unsettled step. -/
def strict (s : State) : State :=
  let a := order .scan
  { s with oe := { s.oe with active := some { a with header := { a.header with
    flags := ⟨false, false, false, false, false, true⟩ } } } }

/-- O31's premises. -/
theorem test_meets_line_timers :
    ((handshaking .settling 0).sf.handshake ≠ .idle ∧ (handshaking .settling 0).sf.settleTimer = .running 0 20000
      ∧ (order .scan).header.flags.unsettledOk = true)
    ∧ ((strict (handshaking .requesting 1)).unsettledOk = false
      ∧ (strict (handshaking .requesting 1)).oe.engine.running = true
      ∧ (strict (handshaking .requesting 1)).oe.endSlot = none)
    ∧ ((watching .matching .arming 0).sf.fixture = .matching
      ∧ (watching .matching .arming 0).sf.fixtureTimer = .running 0 100000
      ∧ (watching .matching .arming 0).oe.engine.running = true)
    ∧ (handshaking .idle 0).sf.handshake = .idle ∧ (handshaking .idle 0).sf.fixture ≠ .matching := by decide +kernel

theorem test_settleTimerExpiry :
    (after .settleTimerExpiry (handshaking .settling 0)).oe.flags.unsettled = true
    ∧ (after .settleTimerExpiry (strict (handshaking .settling 0))).oe.endSlot = some ⟨.settleTimeout, 0⟩ := by
  decide +kernel

theorem test_fixtureTimerExpiry :
    (after .fixtureTimerExpiry (watching .matching .arming 2)).oe.endSlot = some ⟨.fixtureTimeout, 0⟩
    ∧ (after .fixtureTimerExpiry (watching .matching .arming 2)).sf.capture = 2 := by decide +kernel

/-! ## Reference passages (O2) -/

/-- An order in which head 0's reference record is as given, its passage OPEN, and its port as given. -/
def passage (r : PassRecord) (p : Port) : State :=
  let s := checked .checking { HeadRef.reset with passage := .opened, tally := ⟨0, 1, 7⟩, due := 4 }
  let passes := { s.tg.heads.get .h0 with ref := r, refIssued := 1, refSkipped := 2 }
  { s with
    tg := { s.tg with heads := s.tg.heads.set .h0 passes }
    ports := { PerHead.all Port.reset with h0 := p } }

/-- A reference record in its passage, at a position with its next point. -/
def inPassage (position : Int) (next : Option Nat) : PassRecord :=
  { inPass position next with pass := ⟨.reference, 0⟩, zone := none }

/-- An entry in flight of a reference passage. -/
def referenceFlight (seq : BitVec 8) : InFlight := { flight seq 1 1 with pass := ⟨.reference, 0⟩, zone := none }

/-- O2's premises on the record: awaited and at the end of its passage; below the window, at its first and its last
position; a point due and none. -/
theorem test_meets_reference_passage :
    (1 ≤ refConfig.pitch ∧ 1 ≤ refConfig.length)
    ∧ ((passage (.armedFor ⟨.reference, 0⟩ 1) (portIn .ready)).ref .h0).state = .waitingStart
    ∧ (((passage (inPassage (-2) none) (portIn .ready)).ref .h0).state = .inPass
      ∧ ((passage (inPassage (-2) none) (portIn .ready)).ref .h0).position = some ((-1 : Int) - 1))
    ∧ (((passage (inPassage (-1) (some 512)) (portIn .ready)).ref .h0).position = some ((0 : Int) - 1)
      ∧ ((passage (inPassage (-1) (some 512)) (portIn .ready)).ref .h0).nextTrigger
        = some (angleOf 1024 refConfig.start 0) ∧ 0 < refConfig.length)
    ∧ (((passage (inPassage 6 none) (portIn .ready)).ref .h0).position = some ((7 : Int) - 1) ∧ 7 < refConfig.length
      ∧ ((passage (inPassage 6 none) (portIn .ready)).ref .h0).nextTrigger ≠ some (angleOf 1024 refConfig.start 7))
    ∧ (((passage (inPassage 7 none) (portIn .ready)).ref .h0).position = some ((refConfig.length : Int) - 1)
      ∧ ((passage (inPassage 7 none) (portIn .ready)).rc.heads.get .h0).passage = .opened)
    ∧ ((ordered .scan .acquiring).rc.heads.get .h0).passage ≠ .opened := by decide +kernel

/-- The passage starts with its point at offset 0, the next point is one pitch on, and the passage ends with the
points issued and skipped. -/
theorem test_reference_passage_runs :
    let t := refForward refConfig .h0 0 5 (passage (.armedFor ⟨.reference, 0⟩ 1) (portIn .ready))
    let u := refForward refConfig .h0 4 5 (passage (inPassage 3 (some 516)) (portIn .waking))
    let v := refForward refConfig .h0 8 5 (passage (inPassage 7 none) (portIn .ready))
    ((t.ports.get .h0).sent = [.trigger 0 0] ∧ (t.ref .h0).nextTrigger = some 516 ∧ (t.tg.heads.get .h0).refIssued = 2)
    ∧ ((u.ports.get .h0).sent = [] ∧ (u.ref .h0).nextTrigger = none ∧ (u.tg.heads.get .h0).refSkipped = 3)
    ∧ ((v.ref .h0).state = .done ∧ (v.rc.heads.get .h0).endTaken = true ∧ (v.rc.heads.get .h0).tally = ⟨3, 1, 7⟩) := by
  decide +kernel

/-- O2's premises on a due point, at a list with one place and with none; and on a REFERENCE outcome, good and bad. -/
theorem test_meets_reference_point :
    (let p : Port := { portIn .ready with inFlight := List.replicate 7 (referenceFlight 0) }
     p.state = .ready ∧ p.inFlight.length < 8)
    ∧ ¬(List.replicate 8 (referenceFlight 0)).length < 8
    ∧ (dueAt 512 ⟨.reference, 0⟩).burst = 1 ∧ (referenceFlight 0).pass.kind = .reference
    ∧ judge (chosenExposure [reply 10 false]) (referenceFlight 0).floor = .none
    ∧ judge (chosenExposure [reply 9 false]) (referenceFlight 0).floor ≠ .none := by decide +kernel

theorem test_reference_outcome_is_tallied :
    let s := passage (inPassage 5 none) (portIn .ready)
    ((qualify .h0 (referenceFlight 0) [reply 10 false] s).rc.heads.get .h0).tally = ⟨0, 2, 107⟩
    ∧ (qualify .h0 (referenceFlight 0) [reply 9 false] s).rc = s.rc := by decide +kernel

/-- O2's premises on the exits from READY and the end of an order. -/
theorem test_meets_passage_without_verdict :
    let s := passage (inPassage 5 none) { portIn .ready with inFlight := [referenceFlight 0, flight 1 1 1] }
    (s.ports.get .h0).state = .ready ∧ (s.ports.get .h0).linkWatch = true ∧ s.light.judgement ≠ .low
    ∧ s.light.present = false ∧ (∀ x, oldestOpen (s.ports.get .h0).inFlight = some x → x.seq ≠ (sample 9 50).seq)
    ∧ s.oe.engine.running = true ∧ s.oe.endSlot = none := by
  refine ⟨rfl, rfl, by decide, rfl, ?_, rfl, rfl⟩
  rintro x ⟨⟩
  decide

/-- A passage ends without a verdict at a fault, at a light loss and at the end of the order, where its entries are
marked; drift and due count stand. -/
theorem test_passage_ends_without_verdict :
    let s := passage (inPassage 5 none) { portIn .ready with inFlight := [referenceFlight 0, flight 1 1 1] }
    let gone (t : State) : Bool := t.rc.heads.get .h0 == { HeadRef.reset with due := 4 } && (t.ref .h0).state == .notArmed
    gone (after (.frameError .h0) s) = true ∧ gone (after .lightJudgedLow s) = true ∧ gone (wakeHead .h0 s) = true
    ∧ gone (endCondition ⟨.lightLost, 0⟩ s) = true
    ∧ ((endCondition ⟨.lightLost, 0⟩ s).ports.get .h0).inFlight.map (·.abandoned) = [true, false] := by decide +kernel

/-! ## The chain and the checks before LOADING (O15, O32 to O34) -/

/-- A running unit with an access of the Order Engine in progress. -/
def accessing (e : EngineState) (d : OrderAccess) : State :=
  { unitIn .running with
    tracker := (ordered .scan .idle).tracker
    ports := (ordered .scan .idle).ports
    rc := { RefCheck.reset with config := some refConfig }
    sf := (ordered .scan .idle).sf
    oe := { OrderEngine.reset with engine := e, chain := some 0x10000, doing := d,
                                   active := if e = .validating then some (order .scan) else none } }

/-- The bytes of a little-endian link. -/
def linkBytes (a : Nat) : List Byte := leBytes 8 a

/-- O32's premises: each value found, and an ABORT pending. -/
theorem test_meets_followed_link :
    ((accessing .idle (.link 0x1400)).uc.unit = .running ∧ (accessing .idle (.link 0x1400)).isStray .link = false
      ∧ (accessing .idle (.link 0x1400)).oe.doing = .link 0x1400
      ∧ (accessing .idle (.link 0x1400)).oe.abortPending = false)
    ∧ (BitVec.ofNat 64 (leNat (linkBytes 0) 0 8) : Addr) = 0
    ∧ (BitVec.ofNat 64 (leNat (linkBytes 0x10020) 0 8) : Addr).toNat % 64 ≠ 0
    ∧ (BitVec.ofNat 64 (leNat (linkBytes 0x10040) 0 8) : Addr) = 0x10040 ∧ (0x10040 : Addr).toNat % 64 = 0
    ∧ (accessing .idle (.status 0x1400 0x10040)).oe.doing = .status 0x1400 0x10040
    ∧ byteAt [0] 0 = 0 ∧ byteAt [1] 0 = 1 ∧ (byteAt [2] 0 ≠ 0 ∧ byteAt [2] 0 ≠ 1)
    ∧ (after .abort (accessing .idle (.link 0x1400))).oe.abortPending = true := by decide +kernel

/-- O32's premises in PARKED, with a recheck pending and with none, and in HALTING. -/
theorem test_meets_parked_link :
    let s := { accessing .idle (.link 0x1400) with uc := (unitIn .parked).uc }
    s.uc.unit = .parked ∧ s.isStray .link = false ∧ s.oe.recheck = false
    ∧ (after (.nudge 0) s).oe.recheck = true ∧ (after (.nudge 0) s).oe.doing = .link 0x1400
    ∧ (after .halt (accessing .idle (.link 0x1400))).uc.unit = .halting := by decide +kernel

theorem test_parked_link_rechecks_once :
    let s := { accessing .idle (.link 0x1400) with uc := (unitIn .parked).uc }
    (after (.linkRead (.data (linkBytes 0))) s).oe.doing = .none
    ∧ (after (.linkRead (.data (linkBytes 0))) (after (.nudge 0) s)).oe.doing = .link 0x1400
    ∧ (after (.linkRead .error) (after .halt (accessing .idle (.link 0x1400)))).uc.unit = .stopped := by decide +kernel

theorem test_linkRead :
    (after (.linkRead (.data (linkBytes 0))) (accessing .idle (.link 0x1400))).uc.unit = .parked
    ∧ (after (.linkRead (.data (linkBytes 0x10020))) (accessing .idle (.link 0x1400))).oe.heldReason
      = some .staleOrder
    ∧ (after (.linkRead (.data (linkBytes 0x10040))) (accessing .idle (.link 0x1400))).oe.doing
      = .status 0x1400 0x10040 := by decide +kernel

theorem test_blockStatusRead :
    (after (.blockStatusRead (.data [1])) (accessing .idle (.status 0x1400 0x10040))).oe.engine = .fetching
    ∧ (after (.blockStatusRead (.data [0])) (accessing .idle (.status 0x1400 0x10040))).oe.park = some 0x1400
    ∧ (after (.blockStatusRead .error) (accessing .idle (.status 0x1400 0x10040))).oe.heldReason
      = some .readError := by decide +kernel

/-- The bytes of an order's header: kind, format, mask, step count, revolutions, revisit limit. -/
def headerBytes (kind format mask steps revs limit : Byte) : List Byte :=
  List.replicate 9 0 ++ [kind, format, mask, 7, 0, 0, 0, 0, 0, steps, revs, limit] ++ List.replicate 11 0
    ++ leBytes 8 0x20000 ++ List.replicate 296 0

/-- O33's premises on the header: each of the checks 1 to 6 in its turn, and a MARK order that passes. -/
theorem test_meets_header_checks :
    ((accessing .fetching .header).uc.fault = none ∧ (accessing .fetching .header).oe.engine.running = false
      ∧ (accessing .fetching .header).isStray .header = false ∧ (headerBytes 3 0 0 0 0 0).length = 336)
    ∧ (readOrderHeader (headerBytes 4 0 1 1 1 0)).kind = none
    ∧ ((readOrderHeader (headerBytes 0 4 1 1 1 0)).kind ≠ none ∧ (readOrderHeader (headerBytes 0 4 1 1 1 0)).format = none)
    ∧ (accessing .fetching .header).headerCheck (readOrderHeader (headerBytes 0 3 0 1 1 0)) = some 3
    ∧ (accessing .fetching .header).headerCheck (readOrderHeader (headerBytes 0 3 2 1 1 0)) = some 3
    ∧ (accessing .fetching .header).headerCheck (readOrderHeader (headerBytes 0 3 1 65 1 0)) = some 4
    ∧ (accessing .fetching .header).headerCheck (readOrderHeader (headerBytes 0 3 1 64 17 0)) = some 5
    ∧ (accessing .fetching .header).headerCheck (readOrderHeader (headerBytes 0 3 1 64 16 5)) = some 6
    ∧ (accessing .fetching .header).headerCheck (readOrderHeader (headerBytes 0 3 1 64 16 4)) = none
    ∧ (readOrderHeader (headerBytes 3 0 0 0 0 0)).kind = some .mark := by decide +kernel

/-- A SETTINGS header that replaces head 0's record by one with this presence and response timeout. -/
def settingsBytes (present timeout : Byte) : List Byte :=
  List.replicate 9 0 ++ [2, 0, 0, 7] ++ List.replicate 8 0 ++ [1] ++ List.replicate 58 0
    ++ [present, 0, 2, 2, 0, 0, 0, 0, 1, 2, 3, 4, timeout] ++ List.replicate 243 0

/-- O33's premises on the header of other kinds: a replacement in range, out of range and of an absent head; a
CALIBRATE_REFERENCE order that fails a check and one that passes; a zone table at a misaligned address. -/
theorem test_meets_other_headers :
    ((readOrderHeader (settingsBytes 1 20)).kind = some .settings
      ∧ (readOrderHeader (settingsBytes 1 20)).replaceMask.get .h0 = true
      ∧ (readOrderHeader (settingsBytes 1 20)).replacement .h0 = headConfig
      ∧ ((readOrderHeader (settingsBytes 1 0)).replacement .h0).inRange = false
      ∧ ((readOrderHeader (settingsBytes 0 20)).replacement .h0).present = false)
    ∧ (accessing .fetching .header).headerCheck (readOrderHeader (settingsBytes 1 20)) = none
    ∧ (accessing .fetching .header).headerCheck (readOrderHeader (settingsBytes 1 0)) = some 7
    ∧ (accessing .fetching .header).headerCheck (readOrderHeader (headerBytes 1 0 0 0 1 0)) = some 3
    ∧ (accessing .fetching .header).headerCheck (readOrderHeader (headerBytes 1 0 1 0 17 0)) = some 5
    ∧ (accessing .fetching .header).headerCheck (readOrderHeader (headerBytes 1 0 1 0 1 9)) = none
    ∧ (0x20004 : Addr).toNat % 8 ≠ 0 := by decide +kernel

theorem test_headerRead_of_other_kinds :
    (after (.headerRead (.data (settingsBytes 1 20))) (accessing .fetching .header)).oe.beginTaken = true
    ∧ (after (.headerRead (.data (settingsBytes 1 0))) (accessing .fetching .header)).oe.endSlot
      = some ⟨.validation, 7⟩
    ∧ (after (.headerRead (.data (headerBytes 1 0 1 0 1 9))) (accessing .fetching .header)).oe.engine = .acquiring := by
  decide +kernel

theorem test_headerRead :
    (after (.headerRead (.data (headerBytes 4 0 1 1 1 0))) (accessing .fetching .header)).oe.endSlot
      = some ⟨.validation, 1⟩
    ∧ (after (.headerRead (.data (headerBytes 0 2 1 1 1 0))) (accessing .fetching .header)).oe.doing = .zoneTable
    ∧ (after (.headerRead (.data (headerBytes 3 0 0 0 0 0))) (accessing .fetching .header)).oe.endSlot
      = some ⟨.complete, 0⟩ := by decide +kernel

/-- A zone table of one zone: start, length, pitch, mask and burst. -/
def zoneBytes (start length pitch : Nat) (mask burst : Byte) : List Byte :=
  [1, 0, 0, 0] ++ leBytes 4 start ++ leBytes 4 length ++ leBytes 2 pitch ++ [mask, burst, 10, 0, 0, 0, 0, 0, 0, 0]

/-- The first failed check of such a table in the test's cell. -/
def tableCheck (bs : List Byte) : Option Nat :=
  zoneTableCheck (accessing .validating .zoneTable).cpr (zoneCount bs) (readZoneTable bs) (order .scan).header.mask
    (order .scan).header.flags.referenceChecks (accessing .validating .zoneTable).rc.config

/-- The bytes of a correction table of zeros with this head identity and this check sum. -/
def tableBytes (head sum : Byte) : List Byte := [head, 0, 0, 0, sum] ++ List.replicate 1031 0

/-- O33's and O34's premises on the tables: each of the checks 8 to 13, and tables that pass. -/
theorem test_meets_table_checks :
    tableCheck (List.replicate 8 0) = some 8 ∧ tableCheck (33 :: List.replicate 7 0) = some 8
    ∧ tableCheck (zoneBytes 1024 10 2 1 1) = some 9 ∧ tableCheck (zoneBytes 0 10 11 1 1) = some 10
    ∧ tableCheck (zoneBytes 0 10 10 1 9) = some 11 ∧ tableCheck (zoneBytes 0 10 2 3 8) = some 12
    ∧ tableCheck (zoneBytes 0 513 2 1 8) = some 13 ∧ tableCheck (zoneBytes 0 512 2 1 8) = none
    ∧ (accessing .validating .zoneTable).oe.active = some (order .scan)
    ∧ correctionTableValid (tableBytes 1 0) .h0 = false
    ∧ correctionTableValid (tableBytes 0 0) .h0 = true := by decide +kernel

/-- A zone table of one zone with FULL set. -/
def fullBytes (length : Nat) : List Byte := (zoneBytes 0 length 2 1 1).set 1 1

/-- O15's premise on the reference window, and the checks of a zone table at the ends of its fields' ranges. -/
theorem test_meets_fields_out_of_range :
    (refConfig.start < 1024 ∧ 1 ≤ refConfig.length ∧ refConfig.length < 1024)
    ∧ tableCheck ((zoneBytes 1023 512 2 1 1)) = none ∧ tableCheck (zoneBytes 1023 0 2 1 1) = some 9
    ∧ tableCheck (zoneBytes 0 1025 2 1 1) = some 9 ∧ tableCheck (zoneBytes 0 1024 2 1 1) = some 9
    ∧ tableCheck (fullBytes 1023) = some 9 ∧ tableCheck (fullBytes 1024) = some 13
    ∧ tableCheck (zoneBytes 0 10 0 1 1) = some 10 ∧ tableCheck (zoneBytes 0 10 10 1 0) = some 11
    ∧ tableCheck (zoneBytes 520 512 2 1 1) = none ∧ tableCheck (zoneBytes 520 1016 2 1 1) = none
    ∧ tableCheck (zoneBytes 520 1017 2 1 1) = some 13 ∧ tableCheck (zoneBytes 519 10 2 1 1) = some 13 := by
  decide +kernel

theorem test_zoneTableRead :
    (after (.zoneTableRead (.data (zoneBytes 0 10 2 1 1))) (accessing .validating .zoneTable)).oe.engine = .arming
    ∧ (after (.zoneTableRead (.data (zoneBytes 0 10 2 1 0))) (accessing .validating .zoneTable)).oe.endSlot
      = some ⟨.validation, 11⟩ := by decide +kernel

theorem test_correctionTableRead :
    (after (.correctionTableRead (.data (tableBytes 1 0))) (accessing .validating (.correction .h0))).oe.endSlot
      = some ⟨.tableCheck, 14⟩
    ∧ (after (.correctionTableRead .error) (accessing .validating (.correction .h0))).oe.endSlot
      = some ⟨.readError, 32⟩ := by decide +kernel

/-- O34's premises on the heads after the one whose table passed: none, and one with an address. -/
theorem test_meets_next_table :
    headsAfter (order .scan).header.mask .h0 = []
    ∧ (headsAfter ⟨true, false, true, false⟩ .h0).find?
        (fun j => decide ((⟨0, 0, 0x30000, 0⟩ : PerHead Addr).get j ≠ 0)) = some .h2
    ∧ aligned 0x30000 8 = true ∧ aligned 0x30004 8 = false := by decide +kernel

/-- A table that passes is in the active copy while the next one is read. -/
theorem test_correctionTableRead_keeps_table :
    let a := order .scan
    let s := accessing .validating (.correction .h0)
    let two (next : Addr) : State := { s with oe := { s.oe with active := some { a with header := { a.header with
      mask := ⟨true, true, false, false⟩, correctionAddr := ⟨0x30000, next, 0, 0⟩ } } } }
    let t := after (.correctionTableRead (.data (tableBytes 0 0))) (two 0x30800)
    t.oe.doing = .correction .h1
    ∧ t.oe.active.map (·.tables.h0) = some (.points (List.replicate 257 0))
    ∧ (after (.correctionTableRead (.data (tableBytes 0 0))) (two 0x30804)).oe.endSlot = some ⟨.readError, 33⟩ := by
  decide +kernel

/-! ## Loading to the end of an order (O35 to O41) -/

/-- O35's premises: an order of heads, a head of the mask that is OFF, with no light condition. -/
theorem test_meets_loading :
    (order .scan).header.kind = some .scan ∧ (order .calibrateReference).header.kind = some .calibrateReference
    ∧ (order .scan).header.mask.get .h0 = true ∧ (orderedHead .scan .validating .off).light.present = false
    ∧ ((orderedHead .scan .validating .off).ports.get .h0).state = .off
    ∧ ((orderedHead .scan .validating .off).ports.get .h0).config = some headConfig
    ∧ (order .scan).header.mask.get .h1 = false := by decide +kernel

theorem test_loading_wakes_head :
    let t := enterLoading (order .scan) (orderedHead .scan .validating .off)
    (t.ports.get .h0).sent = [.wake ⟨1, 2, 3, 4⟩ 20] ∧ t.oe.engine = .loading := by decide +kernel

/-- A SETTINGS order for head 0: the replacement's response timeout. -/
def settingsOrder (timeout : Byte) : ActiveOrder :=
  let a := order .settings
  { a with header := { a.header with
    replaceMask := ⟨true, false, false, false⟩
    span := [1, 0, 2, 2, 0, 0, 0, 0, 1, 2, 3, 4, timeout] ++ List.replicate 243 0 } }

/-- O35's premises for the orders that use no head: room and none, a replacement that changes what the head was
woken with and one that does not, a head OFF and READY. -/
theorem test_meets_loading_without_heads :
    ((order .mark).header.kind = some .mark ∧ (order .mark).header.format = some .standard
      ∧ 1024 ≤ (full 1024 (ordered .mark .validating)).sb.staged.length)
    ∧ ((settingsOrder 20).header.replacement .h0 = headConfig ∧ (settingsOrder 20).header.replaceMask.get .h0 = true
      ∧ ((settingsOrder 30).header.replacement .h0).timeout ≠ headConfig.timeout
      ∧ (settingsOrder 20).header.replaceMask.get .h1 = false)
    ∧ ((ordered .settings .validating).ports.get .h0).state = .ready
    ∧ ((orderedHead .settings .validating .off).ports.get .h0).state = .off
    ∧ ((ordered .mark .validating).ports.get .h0).inFlight = [] := by decide +kernel

theorem test_settings_rewake_changed_head :
    ((enterLoading (settingsOrder 30) (ordered .settings .validating)).ports.get .h0).sent = [.wake ⟨1, 2, 3, 4⟩ 30]
    ∧ ((enterLoading (settingsOrder 20) (ordered .settings .validating)).ports.get .h0).sent = []
    ∧ (enterLoading (order .mark) (full 1024 (ordered .mark .validating))).oe.marker.isSome = true := by decide +kernel

/-- An order in LOADING with its only head excluded. -/
def lostLoading : State :=
  { ordered .scan .loading with oe := { (ordered .scan .loading).oe with excluded := ⟨true, false, false, false⟩ } }

/-- O36's premises in a SETTINGS order: the re-wake outstanding, and ended. -/
theorem test_meets_settings_loading_end :
    let t := enterLoading (settingsOrder 30) (orderedHead .settings .validating .off)
    t.oe.beginTaken = true ∧ t.oe.rewoken.get .h0 = true ∧ (t.ports.get .h0).state = .waking
    ∧ after .loadingEnd t = t
    ∧ (after (.readyReceived .h0) t).oe.endSlot = some ⟨.complete, 0⟩ := by decide +kernel

/-- O36's premises: a wake outstanding, none, and every head excluded. -/
theorem test_meets_loading_end :
    ((ordered .scan .loading).oe.marker = none ∧ (ordered .scan .loading).oe.beginTaken = false
      ∧ (order .scan).header.format = some .standard)
    ∧ ((order .scan).header.mask.get .h0 = true ∧ ((orderedHead .scan .loading .waking).ports.get .h0).state = .waking)
    ∧ ((ordered .scan .loading).oe.excluded.get .h0 = false ∧ (ordered .scan .loading).noWakeOf (ordered .scan .loading).mask)
    ∧ (lostLoading.workingHeads = [] ∧ lostLoading.oe.endSlot = none ∧ lostLoading.uc.unit ≠ .starting) := by
  decide +kernel

/-- An order in LOADING with the fixture lines at a level and a fixture wait. -/
def fixtured (k : OrderKind) (f : BitVec 8) (wait : Nat) : State :=
  { ordered k .loading with sf := { Span.reset ⟨0, f⟩ with config := some { spanConfig with fixtureWait := wait } } }

/-- O36's premises at the match request: CHECK_FIXTURE clear and set, a match, and none with either wait. -/
theorem test_meets_match_request :
    (Quiet (strict (ordered .scan .loading)) ∧ (strict (ordered .scan .loading)).oe.active.map
        (fun a => (a.header.flags.checkFixture, a.header.flags.referenceChecks)) = some (false, false))
    ∧ (order .calibrateReference).header.flags.checkFixture = true
    ∧ ((fixtured .calibrateReference 1 0).sf.matched = true ∧ (fixtured .scan 0 0).sf.matched = false)
    ∧ (fixtured .scan 0 0).oe.endSlot = none
    ∧ 1024 ≤ (full 1024 (fixtured .scan 0 1)).sb.staged.length :=
  ⟨⟨⟨by decide, fun h => by cases h <;> decide, by decide⟩, by decide +kernel⟩, by decide +kernel⟩

theorem test_match_request :
    ((after .loadingEnd (strict (ordered .scan .loading))).oe.engine = .stepMove
      ∧ (after .loadingEnd (strict (ordered .scan .loading))).sf.handshake = .settling)
    ∧ ((after .loadingEnd (fixtured .calibrateReference 1 0)).rc.mode = .calibrating
      ∧ (after .loadingEnd (dark (fixtured .calibrateReference 1 0))).oe.engine = .lightWait)
    ∧ (after .loadingEnd (fixtured .scan 0 0)).oe.endSlot = some ⟨.fixtureTimeout, 0⟩
    ∧ ((after .loadingEnd (fixtured .scan 0 1)).sf.fixture = .matching
      ∧ (after .loadingEnd (fixtured .scan 0 1)).oe.engine = .arming)
    ∧ (after .loadingEnd (full 1024 (fixtured .scan 0 1))).oe.marker.isSome = true := by decide +kernel

theorem test_loadingEnd :
    (after .loadingEnd (ordered .scan .loading)).oe.beginTaken = true
    ∧ (after .loadingEnd lostLoading).oe.endSlot = some ⟨.headsLost, 0⟩ := by decide +kernel

/-- An order in LIGHT_WAIT: whether it interrupts the step, and its restarts. -/
def waiting (interrupting : Bool) (restarts : Nat) : State :=
  { ordered .scan .lightWait with
    oe := { (ordered .scan .lightWait).oe with interrupting := interrupting, restarts := restarts, grace := 3 } }

/-- O37's premises: a wait that cannot end, and the three ways one is left. -/
theorem test_meets_light_wait_left :
    ((orderedHead .scan .lightWait .forcedOff).oe.engine = .lightWait
      ∧ ((orderedHead .scan .lightWait .forcedOff).ports.get .h0).state = .forcedOff
      ∧ (orderedHead .scan .lightWait .forcedOff).oe.excluded.get .h0 = false)
    ∧ ((waiting false 0).light.present = false ∧ (waiting false 0).waitEnded = true
      ∧ (waiting false 0).oe.active = some (order .scan) ∧ (waiting false 0).oe.marker = none)
    ∧ (waiting true 1).oe.restarts < 2 ∧ (waiting true 1).waitEnded = true
    ∧ (2 ≤ (waiting true 2).oe.restarts ∧ (waiting true 2).waitEnded = true ∧ (waiting true 2).oe.endSlot = none) := by
  decide +kernel

theorem test_lightWaitDeparture :
    (after .lightWaitDeparture (waiting false 0)).oe.engine = .acquiring
    ∧ (after .lightWaitDeparture (waiting true 1)).oe.restarts = 2
    ∧ (after .lightWaitDeparture (waiting true 2)).oe.endSlot = some ⟨.lightLost, 0⟩ := by decide +kernel

/-- O37's premises of a restart that is staged, one that is held, and a calibration's return. -/
theorem test_meets_restart :
    ((waiting true 1).sb.staged.length < 1024 ∧ 1024 ≤ (full 1024 (waiting true 1)).sb.staged.length)
    ∧ ((waiting true 1).rc.mode = .off ∧ (waiting true 1).uc.unit ≠ .starting
      ∧ (order .scan).header.mask.get .h0 = true ∧ (waiting true 1).oe.excluded.get .h0 = false)
    ∧ ((ordered .calibrateReference .lightWait).waitEnded = true
      ∧ (ordered .calibrateReference .lightWait).oe.interrupting = false) := by decide +kernel

theorem test_restart_arms_again :
    (let t := after .lightWaitDeparture (waiting true 1)
     t.oe.engine = .acquiring ∧ t.oe.flags.restarted = true ∧ t.oe.counts.stepRestarts = 1
      ∧ t.scan .h0 = .armedFor ⟨.normal, 0⟩ 1 ∧ (t.scan .h1).state = .notArmed ∧ t.ru.phase = .acquiring)
    ∧ (after .lightWaitDeparture (full 1024 (waiting true 1))).oe.marker.isSome = true
    ∧ (after .lightWaitDeparture (ordered .calibrateReference .lightWait)).oe.engine = .acquiring := by decide +kernel

/-- O38's premises: the grace, the stall limit and the due count at their limits and one short. -/
theorem test_meets_revolution_limits :
    ((waiting true 0).oe.lightGrace = some 3 ∧ 3 ≤ (waiting true 0).oe.grace ∧ (ordered .scan .lightWait).oe.grace < 3)
    ∧ ((ordered .scan .acquiring).sb.stallLimit = some 2 ∧ (ordered .scan .acquiring).sb.stallCount < 2)
    ∧ (let s := checked .checking { HeadRef.reset with due := 12 }
       s.rc.mode = .checking ∧ s.rc.config = some refConfig ∧ s.mask.get .h0 = true ∧ s.oe.excluded.get .h0 = false
        ∧ refConfig.interval + 8 ≤ (s.rc.heads.get .h0).due)
    ∧ ({ HeadRef.reset with due := 11 } : HeadRef).due < refConfig.interval + 8 := by decide +kernel

theorem test_lightGraceExpiry :
    (after .lightGraceExpiry (waiting true 0)).oe.endSlot = some ⟨.lightLost, 0⟩ := by decide +kernel

theorem test_outputStall :
    (after .outputStall { flying [] with sb := { Staging.reset with stallLimit := some 2, stallCount := 2 } }).oe.endSlot
      = some ⟨.outputStall, 2⟩ := by decide +kernel

theorem test_referenceOverdue :
    (after (.referenceOverdue .h0) (checked .checking { HeadRef.reset with due := 12 })).oe.endSlot
      = some ⟨.referenceOverdue, 0⟩ := by decide +kernel

/-- O39's premises: an order whose end is open, and one whose end is decided. -/
theorem test_meets_end_condition :
    ((flying []).oe.engine.running = true ∧ (flying []).oe.endSlot = none)
    ∧ ¬((endCondition ⟨.driftLimit, 0⟩ (flying [])).oe.engine.running = true) := by decide +kernel

theorem test_first_end_condition_stands :
    endCondition ⟨.lightLost, 0⟩ (endCondition ⟨.driftLimit, 0⟩ (flying []))
      = endCondition ⟨.driftLimit, 0⟩ (flying []) := by
  decide +kernel

/-- An order in CLOSING, its end decided, at a stage, with the engine's access and head 0's list as given. -/
def closing (g : ClosingStage) (d : OrderAccess) (r : EndReason) (l : List InFlight) : State :=
  { flying l with oe := { (flying l).oe with engine := .closing, stage := g, doing := d, endSlot := some ⟨r, 0⟩,
                                             beginTaken := true } }

/-- O40's premises: drained, not drained, and the completion being written. -/
theorem test_meets_drained :
    ((closing .drain .none .complete []).oe.engine = .closing ∧ (closing .drain .none .complete []).oe.stage = .drain
      ∧ (closing .drain .none .complete []).oe.marker = none
      ∧ (full 1019 (closing .drain .none .complete [])).sb.staged.length ≤ 1019
      ∧ ((closing .drain .none .complete []).rc.heads.get .h0).held = none)
    ∧ (∃ e ∈ ((closing .drain .none .complete [flight 3 1 1]).ports.get .h0).inFlight,
        e.abandoned = false ∧ e.pass.kind ≠ .reference)
    ∧ ((closing .completion .completion .lightLost []).isStray .completion = false
      ∧ (closing .completion .completion .lightLost []).oe.doing = .completion) := by decide +kernel

/-- O40's premises with a pending gap: it is staged before the ORDER-end record. -/
theorem test_drainComplete_stages_gap :
    let s := closing .drain .none .complete []
    let g : PendingGap := ⟨2, ⟨.normal, 0⟩, 4, ⟨.normal, 0⟩, 0, 2⟩
    let gapped : State := { s with ports := s.ports.set .h0 { s.ports.get .h0 with gap := some g } }
    (gapped.ports.get .h0).gapWaits = false
    ∧ (after .drainComplete gapped).sb.staged.map (·.record.typeCode) = [12, 9]
    ∧ ((after .drainComplete gapped).ports.get .h0).gap = none := by decide +kernel

theorem test_drainComplete_stages_order_end :
    (after .drainComplete (closing .drain .none .complete [])).oe.stage = .records
    ∧ (after .drainComplete (closing .drain .none .complete [])).sb.staged.length = 1
    ∧ after .drainComplete (closing .drain .none .complete [flight 3 1 1]) = closing .drain .none .complete [flight 3 1 1] := by
  decide +kernel

theorem test_completionWritten_writes_status :
    (after .completionWritten (closing .completion .completion .lightLost [])).xe.bus
      = [.ended .completion, .write .terminal [⟨0x10008, [4]⟩]] := by decide +kernel

/-- O41's premises, by the routing: a fault noted, HALTING, an abort mark, a failed order, one done. -/
theorem test_meets_routing :
    ((closing .terminal .terminal .complete []).isStray .terminal = false
      ∧ (closing .terminal .terminal .complete []).oe.doing = .terminal
      ∧ (closing .terminal .terminal .complete []).oe.active = some (order .scan)
      ∧ (closing .terminal .terminal .complete []).oe.early = false
      ∧ (closing .terminal .terminal .complete []).oe.chain = some 0x10000
      ∧ (closing .terminal .terminal .complete []).oe.endSlot = some ⟨.complete, 0⟩
      ∧ (closing .terminal .terminal .complete []).uc.unit = .running)
    ∧ (order .scan).header.flags.continueOnFail = false := by decide +kernel

theorem test_terminalStatusWritten_routes :
    (after .terminalStatusWritten (closing .terminal .terminal .complete [])).oe.doing = .link 0x10000
    ∧ (after .terminalStatusWritten (closing .terminal .terminal .lightLost [])).oe.heldReason = some .orderFailed
    ∧ (after .terminalStatusWritten (closing .terminal .terminal .abortCommand [])).oe.heldReason
      = some .orderAborted := by decide +kernel

/-! ## The Staging Buffer and the segments (O42 to O46) -/

/-- A GAP record of a reason. -/
def gapRecord (r : GapReason) : GapRecord := ⟨.h0, r, 0, 0, ⟨.normal, 0⟩, ⟨.normal, 0⟩, .none, 0, 2, 4, 2⟩

/-- A pending gap. -/
def pendingGap : PendingGap := ⟨2, ⟨.normal, 0⟩, 4, ⟨.normal, 0⟩, 0, 2⟩

/-- A reference record of head 0. -/
def referenceRecord : ReferenceRecord := ⟨.h0, .ok, none, 2, 2, 1, 0, 1, 0, 0⟩

/-- An ordered state whose head 0 waits with what is given. -/
def portWaits (gap : Option PendingGap) (suspended lost : Option GapRecord) : State :=
  { flying [] with
    ports := { PerHead.all Port.reset with
      h0 := { portIn .ready with gap := gap, gapWaits := gap.isSome, heldSuspended := suspended,
                                 heldHeadLost := lost } } }

/-- An ordered state with a held REFERENCE record, a held UNRESOLVED record and a held marker. -/
def othersWait : State :=
  { flying [] with
    rc := { RefCheck.reset with heads := { PerHead.all HeadRef.reset with
      h0 := { HeadRef.reset with passage := .held, held := some referenceRecord } } }
    ru := { Revisit.reset with phase := .closing, next := [anEntry], held := some (gapRecord .unresolved) }
    oe := { (flying []).oe with engine := .stepClose, marker := some filler.record } }

/-- O42's premises, producer by producer. -/
theorem test_meets_granted_entry :
    1024 ≤ (full 1024 (portWaits (some pendingGap) none none)).sb.staged.length
    ∧ (((portWaits (some pendingGap) none none).ports.get .h0).gapWaits = true
      ∧ ((portWaits (some pendingGap) none none).ports.get .h0).gap = some pendingGap)
    ∧ (((portWaits none (some (gapRecord .suspended)) none).ports.get .h0).gap = none
      ∧ ((portWaits none (some (gapRecord .suspended)) none).ports.get .h0).heldSuspended ≠ none)
    ∧ (((portWaits none none (some (gapRecord .headLost))).ports.get .h0).heldSuspended = none
      ∧ ((portWaits none none (some (gapRecord .headLost))).ports.get .h0).heldHeadLost ≠ none)
    ∧ ((othersWait.ports.get .h0).waits = false ∧ othersWait.oe.marker = some filler.record
      ∧ othersWait.orderKind ≠ some .settings
      ∧ filler.record.isSample = false ∧ othersWait.ru.held = some (gapRecord .unresolved)
      ∧ Head.all.find? (fun k => (othersWait.rc.heads.get k).held.isSome) = some .h0
      ∧ (othersWait.rc.heads.get .h0).held = some referenceRecord) := by decide +kernel

/-- O42's premises where nothing waits: an entry free, no record held. -/
theorem test_meets_grant_of_nothing :
    (flying []).sb.staged.length < 1024 ∧ (flying []).oe.marker = none ∧ (flying []).ru.held = none
    ∧ (Head.all.all fun h => !((flying []).ports.get h).waits && ((flying []).rc.heads.get h).held.isNone) = true
    ∧ after (.entryGrant .revisit) (flying []) = flying []
    ∧ after (.entryGrant .referenceCheck) (flying []) = flying [] := by
  decide +kernel

theorem test_entryGrant_to_port :
    ((after (.entryGrant (.port .h0)) (portWaits (some pendingGap) none none)).ports.get .h0).gap = none
    ∧ (after (.entryGrant (.port .h0)) (portWaits (some pendingGap) none none)).sb.staged.length = 1
    ∧ after (.entryGrant .orderEngine) (portWaits (some pendingGap) none none) = portWaits (some pendingGap) none none := by
  decide +kernel

theorem test_entryGrant_to_others :
    (after (.entryGrant .referenceCheck) othersWait).sb.staged.map (·.record) = [.reference referenceRecord]
    ∧ (after (.entryGrant .orderEngine) othersWait).oe.counts.stepsCompleted = 1
    ∧ (after (.entryGrant .revisit) othersWait).oe.counts.unresolved = 2 := by decide +kernel

/-- The segment that the tests fill. -/
def segment (fill : Nat) : Segment := ⟨3, 0x100000, 4096, fill, 1, 7⟩

/-- The Result Writer in a phase with an access in progress, in an ordered state. -/
def writing (p : WriterPhase) (d : WriterAccess) (filling : Option Segment) (staged : List Staged) : State :=
  { flying [] with
    sb := { Staging.reset with staged := staged }
    rw := { Writer.reset with phase := p, doing := d, filling := filling, entry := 63, left := 2, cursor := 63 } }

/-- What is read of a Segment Table entry: its state, and its address and length where it is OFFERED. -/
def entryBytes (state : Byte) (address length : Nat) : List Byte :=
  state :: if state = 1 then leBytes 8 address ++ leBytes 4 length else []

/-- O43's premises: an entry not offered, usable at both ends of the length's range, and unusable. -/
theorem test_meets_segment_take :
    ((writing .taking .entry none [filler]).isStray .segmentEntry = false
      ∧ (writing .taking .entry none [filler]).rw.doing = .entry ∧ 2 ≤ (writing .taking .entry none [filler]).rw.left
      ∧ (writing .taking .entry none [filler]).rw.recheck = false)
    ∧ (readSegmentEntry (entryBytes 0 0x100000 4096)).state ≠ 1
    ∧ (readSegmentEntry (entryBytes 1 0x100000 4096)).usable = true
    ∧ (readSegmentEntry (entryBytes 1 0x100000 1048576)).usable = true
    ∧ (readSegmentEntry (entryBytes 1 0x100000 1052672)).usable = false
    ∧ (readSegmentEntry (entryBytes 1 0x100004 4096)).usable = false
    ∧ (readSegmentEntry (entryBytes 1 0 4096)).usable = false
    ∧ ({ (writing .taking .entry none [filler]).rw with left := 1 } : Writer).left ≤ 1
    ∧ (segment 4072).fill + filler.record.length ≤ (segment 4072).length
    ∧ ({ writing .taking .take none [filler] with rw := { (writing .taking .take none [filler]).rw with
        target := some (segment 0) } } : State).rw.target = some (segment 0) := by decide +kernel

/-- The writer's access let go of, its end still to come. -/
theorem test_stray_end_is_counted_off :
    let s := writing .idle .none none []
    let t := after .recordWritten { s with xe := { s.xe with stray := [.record] } }
    t.xe.stray = [] ∧ t.xe.bus = [.ended .record] ∧ t.rw = s.rw := by decide +kernel

/-- A failed take with a recheck pending begins one more from the cursor. -/
theorem test_failed_take_rechecks_once :
    let s := writing .taking .entry none [filler]
    let t := after (.segmentEntryRead (entryBytes 0 0 0)) { s with rw := { s.rw with left := 1, recheck := true } }
    t.rw.phase = .starved ∧ t.rw.doing = .entry ∧ t.rw.entry = 63 ∧ t.rw.left = 64 ∧ t.rw.recheck = false := by
  decide +kernel

theorem test_segmentEntryRead :
    (after (.segmentEntryRead (entryBytes 0 0 0)) (writing .taking .entry none [filler])).rw.entry = 0
    ∧ (after (.segmentEntryRead (entryBytes 1 0x100000 4096)) (writing .taking .entry none [filler])).rw.doing = .take
    ∧ (after (.segmentEntryRead (entryBytes 1 0x100000 4095)) (writing .taking .entry none [filler])).rw.doing
      = .full .fault := by decide +kernel

/-- Six writes of a FAULT close: fill, count, first sequence tag, close reason, FILLING, FULL. -/
theorem test_fault_close_writes :
    faultCloseWrites 0x40000 2 = [⟨0x41054, [0, 0, 0, 0]⟩, ⟨0x41044, [0, 0, 0, 0]⟩, ⟨0x41058, [0, 0, 0, 0]⟩,
      ⟨0x41041, [BitVec.ofNat 8 CloseReason.fault.code]⟩, ⟨0x41040, [2]⟩, ⟨0x41040, [3]⟩] := by decide +kernel

theorem test_segmentTakeWritten_writes_oldest_record :
    let s := writing .taking .take none [filler]
    let t := after .segmentTakeWritten { s with rw := { s.rw with target := some (segment 0) } }
    t.rw.filling = some (segment 0) ∧ t.rw.doing = .record ∧ t.rw.phase = .writing
    ∧ s.rw.cursor = 63 ∧ t.rw.cursor = 4 := by decide +kernel

/-- O44's premises: a record being written, and the fill update after an ORDER-end record. -/
theorem test_meets_written_record :
    ((writing .writing .record (some (segment 0)) [filler]).isStray .record = false
      ∧ (writing .writing .record (some (segment 0)) [filler]).rw.doing = .record
      ∧ (writing .writing .record (some (segment 0)) [filler]).sb.staged = filler :: [])
    ∧ (let s := { closing .records .none .complete [] with
         rw := (writing .writing .fillUpdate (some (segment 24)) []).rw }
       s.rw.doing = .fillUpdate ∧ s.oe.active = some (order .scan) ∧ (order .scan).header.flags.closeAtEnd = false
        ∧ s.oe.engine = .closing ∧ s.oe.stage = .records ∧ s.sb.staged = []) := by decide +kernel

theorem test_recordWritten_advances_segment :
    let t := after .recordWritten (writing .writing .record (some (segment 0)) [filler])
    t.rw.filling = some { segment 24 with count := 2 } ∧ t.rw.segments = [3] ∧ t.sb.staged = []
    ∧ t.rw.doing = .fillUpdate := by decide +kernel

theorem test_fillUpdateWritten_begins_completion :
    (after .fillUpdateWritten { closing .records .none .complete [] with
      rw := (writing .writing .fillUpdate (some (segment 24)) []).rw }).oe.stage = .completion
    ∧ (after .fillUpdateWritten (strict { closing .records .none .complete [] with
      rw := (writing .writing .fillUpdate (some (segment 24)) []).rw })).rw.doing = .full .orderEnd := by decide +kernel

/-- O45's premises: a close for each reason, within a take and at its last entry. -/
theorem test_meets_full_segment :
    ((writing .closingSegment (.full .length) (some (segment 4096)) [filler]).isStray .full = false
      ∧ (writing .closingSegment (.full .length) (some (segment 4096)) [filler]).rw.doing = .full .length)
    ∧ ((closing .segment .none .complete []).oe.engine = .closing
      ∧ (closing .segment .none .complete []).oe.stage = .segment)
    ∧ 2 ≤ (writing .taking (.full .fault) none [filler]).rw.left := by decide +kernel

theorem test_fullWritten :
    (after .fullWritten (writing .closingSegment (.full .length) (some (segment 4096)) [filler])).rw.doing = .entry
    ∧ (after .fullWritten (writing .closingSegment (.full .length) (some (segment 4096)) [filler])).notice .segFull
      = true
    ∧ (after .fullWritten (writing .taking (.full .fault) none [filler])).rw.entry = 0
    ∧ (after .fullWritten { closing .segment .none .complete [] with
        rw := (writing .closingSegment (.full .orderEnd) (some (segment 24)) []).rw }).oe.stage = .completion := by
  decide +kernel

/-- A unit with a Status Page sequence in progress. -/
def paging (u : UnitState) : State := { unitIn u with xe := { Exchange.reset with pageBusy := true } }

/-- O46's premises, source by source, and in STOPPED. -/
theorem test_meets_failed_write :
    ((writing .writing .record (some (segment 0)) [filler]).xe.stray = []
      ∧ (writing .writing .record (some (segment 0)) [filler]).uc.unit ≠ .faulted
      ∧ (writing .writing .record (some (segment 0)) [filler]).rw.doing ≠ .none)
    ∧ (closing .completion .completion .complete []).oe.doing = .completion
    ∧ ((paging .running).xe.pageBusy = true ∧ (paging .running).uc.unit ≠ .stopped)
    ∧ ((paging .stopped).uc.unit = .stopped ∧ (paging .stopped).xe.pageBusy = true)
    ∧ State.reset.rw.doing = .none ∧ State.reset.xe.pageBusy = false
    ∧ ((after (.busWrite .resultWriter) (writing .writing .record (some (segment 0)) [filler])).uc.unit = .faulted
      ∧ ({ paging .faulted with xe := { (paging .faulted).xe with pageQueued := true } } : State).uc.cause ≠ some .busWrite)
    ∧ ((closing .drain .none .complete []).oe.engine = .closing ∧ (closing .drain .none .complete []).oe.doing = .none) := by
  decide +kernel

/-- A page asked for follows a failed one in FAULTED, unless the cause is BUS_WRITE; a write error of the engine in
CLOSING is a fault with no access of CLOSING in progress too. -/
theorem test_busWrite_in_faulted_and_closing :
    let s := { paging .faulted with xe := { (paging .faulted).xe with pageQueued := true } }
    (after (.busWrite .statusPage) s).xe.pageBusy = true ∧ (after (.busWrite .statusPage) s).xe.pageQueued = false
    ∧ (after (.busWrite .orderEngine) (closing .drain .none .complete [])).uc.cause = some .busWrite := by
  decide +kernel

theorem test_busWrite :
    (after (.busWrite .resultWriter) (writing .writing .record (some (segment 0)) [filler])).rw.phase = .stoppedByFault
    ∧ (after (.busWrite .orderEngine) (closing .completion .completion .complete [])).uc.cause = some .busWrite
    ∧ (after (.busWrite .statusPage) (paging .running)).uc.unit = .faulted
    ∧ (after (.busWrite .statusPage) (paging .stopped)).uc.unit = .stopped := by decide +kernel

/-! ## Unit control and registers (O47 to O55) -/

/-- A Cell Record of one present head, each range at a boundary. -/
def cellBytes (lightGrace : Byte) : List Byte :=
  leBytes 4 1024 ++ leBytes 4 1023 ++ leBytes 2 1 ++ [1, 1, lightGrace, 1, 0x11, 0x04] ++ leBytes 4 1023 ++ leBytes 4 1023
    ++ leBytes 2 1023 ++ [10, 1] ++ leBytes 2 0 ++ [1, 3, 0xF, 0, 0xFF, 0, 0] ++ List.replicate 219 0
    ++ [1, 2, 15, 0] ++ leBytes 4 1023 ++ [1, 2, 3, 4, 1] ++ List.replicate 755 0

/-- STARTING with the Cell Record being read. -/
def cellReading : State :=
  { unitIn .starting with uc := { UnitControl.reset with unit := .starting, cellReading := true } }

/-- A stopped unit with an Exchange Area base. -/
def based : State := { State.reset with xe := { Exchange.reset with xbaseL := 0x40000 } }

/-- O47's premises: a completed STOPPED with and without a base, and a Cell Record that passes and one that
fails. -/
theorem test_meets_start :
    (State.reset.uc.unit = .stopped ∧ State.reset.uc.stopping = false ∧ State.reset.xbase = 0 ∧ based.xbase ≠ 0
      ∧ (Head.all.all fun h => (State.reset.ports.get h).gap.isNone) = true)
    ∧ (cellReading.isStray .cellRecord = false ∧ cellReading.uc.cellReading = true ∧ cellReading.uc.unit = .starting)
    ∧ (cellBytes 1).length = 1024 ∧ (readCellRecord (cellBytes 1)).valid = true
    ∧ (readCellRecord (cellBytes 15)).valid = true ∧ (readCellRecord (cellBytes 0)).valid = false
    ∧ (readCellRecord (cellBytes 16)).valid = false
    ∧ ((readCellRecord (cellBytes 1)).heads.get .h0).present = true
    ∧ ((readCellRecord (cellBytes 1)).heads.get .h1).present = false ∧ cellReading.light.present = false
    ∧ (cellReading.ports.get .h0).state = .off := by decide +kernel

theorem test_start_reads_cell_record :
    (after .start based).uc.unit = .starting ∧ (after .start based).uc.cellReading = true
    ∧ (after .start State.reset).uc.cause = some .cellInvalid
    ∧ (after .start State.reset).notice .powerOn = false := by decide +kernel

theorem test_cellRecordRead :
    (after (.cellRecordRead (.data (cellBytes 1))) cellReading).tracker.state = .seeking
    ∧ ((after (.cellRecordRead (.data (cellBytes 1))) cellReading).ports.get .h0).state = .waking
    ∧ (after (.cellRecordRead (.data (cellBytes 0))) cellReading).uc.cause = some .cellInvalid
    ∧ (after (.cellRecordRead .error) cellReading).uc.unit = .faulted := by decide +kernel

/-- STARTING with homing done and no head waking. -/
def started : State := { unitIn .starting with tracker := (ordered .scan .idle).tracker }

/-- An entry to STOPPED in progress. -/
def stoppingState : State := { unitIn .stopped with uc := { UnitControl.reset with stopping := true } }

/-- O48's premises, with no wake of START outstanding; a READY or a FORCED_OFF ends one. -/
theorem test_meets_unit_entries :
    (started.uc.unit = .starting ∧ started.uc.cellReading = false ∧ started.tracker.state = .tracking)
    ∧ (stoppingState.uc.stopping = true ∧ stoppingState.uc.unit = .stopped ∧ stoppingState.rw.doing = .none
      ∧ stoppingState.xe.pageBusy = false ∧ stoppingState.xe.pageQueued = false)
    ∧ State.reset.uc.stopping = false ∧ (paging .running).isStray .statusPage = false
    ∧ (after .halt (paging .running)).xe.pageQueued = true ∧ (paging .running).xe.pageQueued = false := by decide +kernel

/-- A wake that ended FORCED_OFF does not hold STARTING back when the head is woken again. -/
theorem test_forced_off_ends_wake_of_start :
    let s := after (.cellRecordRead (.data (cellBytes 1))) cellReading
    let t := after (.noteRawWrite 0x200) (after .lightJudgedGood (after .lightJudgedLow s))
    s.uc.startWakes.get .h0 = true ∧ (t.ports.get .h0).state = .waking ∧ t.uc.startWakes.get .h0 = false := by
  decide +kernel

theorem test_no_wake_of_start_in_started : ∀ h, started.uc.startWakes.get h = false := by
  intro h
  cases h <;> decide +kernel

theorem test_unitRunning :
    (after .unitRunning started).uc.unit = .running ∧ (after .unitRunning started).oe.doing = .link 0x400
    ∧ after .unitRunning State.reset = State.reset := by decide +kernel

theorem test_statusPageWritten :
    (after .statusPageWritten (paging .running)).xe.pageBusy = false
    ∧ (after .statusPageWritten (after .halt (paging .running))).xe.pageBusy = true
    ∧ (after .statusPageWritten { paging .stopped with uc := stoppingState.uc }).uc.stopping = false := by
  decide +kernel

theorem test_stoppedEntryComplete :
    (after .stoppedEntryComplete stoppingState).uc.stopping = false
    ∧ after .stoppedEntryComplete State.reset = State.reset := by
  decide +kernel

/-- O49's premises: the unit states, the engine's states under an ABORT, and a held point. -/
theorem test_meets_commands :
    ¬(stoppingState.uc.unit = .stopped ∧ stoppingState.uc.stopping = false)
    ∧ ((flying []).uc.unit = .running ∧ (flying []).oe.engine.running = true ∧ (flying []).oe.endSlot = none)
    ∧ (accessing .idle (.link 0)).oe.engine = .idle
    ∧ ((accessing .fetching .header).oe.engine = .fetching ∧ (accessing .fetching .header).oe.early = false)
    ∧ ((accessing .validating .zoneTable).oe.engine = .validating ∧ (accessing .validating .zoneTable).oe.early = false)
    ∧ (closing .drain .none .complete []).oe.engine = .closing
    ∧ (let s := after (.linkRead .error) (accessing .idle (.link 0x1400))
       s.uc.unit = .held ∧ s.oe.heldPoint = some 0x1400) := by decide +kernel

theorem test_start_is_refused_in_running :
    after .start (unitIn .running)
      = { unitIn .running with xe := { Exchange.reset with ucmdCode := 1, ucmdResult := .refusedState } } := by
  decide +kernel

theorem test_halt :
    (after .halt (unitIn .running)).uc.unit = .halting ∧ (after .halt (unitIn .parked)).uc.unit = .stopped
    ∧ (after .halt (unitIn .starting)).xe.ucmdResult = .refusedState := by decide +kernel

theorem test_abort :
    (after .abort (flying [])).oe.endSlot = some ⟨.abortCommand, 0⟩
    ∧ (after .abort (flying [flight 3 1 1])).oe.counts.abandoned = 1
    ∧ (after .abort cellReading).xe.stray = [.cellRecord] := by decide +kernel

theorem test_resume_follows_held_point :
    let s := after (.linkRead .error) (accessing .idle (.link 0x1400))
    (after .resume s).uc.unit = .running ∧ (after .resume s).oe.doing = .link 0x1400 := by decide +kernel

/-- O50's premises, by command and unit state. -/
theorem test_meets_stopped_entry :
    (unitIn .parked).uc.unit = .parked ∧ (unitIn .held).uc.unit = .held ∧ (unitIn .faulted).uc.unit = .faulted
    ∧ (unitIn .starting).uc.unit = .starting
    ∧ ((writing .writing .record (some (segment 0)) [filler]).rw.filling = some (segment 0)
      ∧ (writing .writing .record (some (segment 0)) [filler]).rw.phase ≠ .stoppedByFault
      ∧ (writing .writing .record (some (segment 0)) [filler]).rw.phase ≠ .closingSegment)
    ∧ (after (.busWrite .resultWriter) (writing .writing .record (some (segment 0)) [filler])).uc.unit = .faulted := by
  decide +kernel

/-- O50's premises on the writer, no segment FILLING and a close in progress, and a Cell Record being read. -/
theorem test_meets_stopped_writer :
    ((writing .starved .entry none [filler]).rw.filling = none
      ∧ (writing .starved .entry none [filler]).rw.phase ≠ .stoppedByFault
      ∧ (writing .starved .entry none [filler]).rw.phase ≠ .closingSegment)
    ∧ (writing .closingSegment (.full .length) (some (segment 4096)) []).rw.phase = .closingSegment
    ∧ cellReading.uc.cellReading = true ∧ cellReading.uc.unit = .starting := by decide +kernel

/-- What producers hold is discarded, and the writer's read is a stray one. -/
theorem test_stop_discards_held_records :
    let s := { writing .starved .entry none [filler] with
      uc := (unitIn .parked).uc
      ports := .all { portIn .ready with gap := some pendingGap, gapWaits := true,
                                         heldSuspended := some (gapRecord .suspended)
                                         heldHeadLost := some (gapRecord .headLost) }
      ru := othersWait.ru
      oe := { (flying []).oe with engine := .idle, marker := some filler.record } }
    let t := after .stop s
    (Head.all.all fun h => !(t.ports.get h).waits && (t.ports.get h).gap.isNone) = true ∧ t.ru.held = none
    ∧ t.oe.marker = none ∧ t.xe.stray = [.segmentEntry] := by decide +kernel

theorem test_stop :
    (after .stop (unitIn .held)).uc.stopping = true ∧ (after .stop State.reset).xe.ucmdResult = .accepted
    ∧ (let s := { writing .writing .record (some (segment 8)) [filler] with
         uc := { UnitControl.reset with unit := .parked } }
       (after .stop s).rw.doing = .full .stop ∧ (after .stop s).sb.discarded = 1
        ∧ ((after .stop s).ports.get .h0).sent = [.sleep] ∧ (after .stop s).xe.stray = [.record]) := by decide +kernel

theorem test_softReset_keeps_base_and_light_low :
    let s := { after .lightJudgedLow (flying []) with xe := { (after .lightJudgedLow (flying [])).xe with xbaseH := 5 } }
    let t := after (.softReset ⟨3, 7⟩) s
    t.xe.xbaseH = 5 ∧ t.notice .lightLow = true ∧ t.light.present = false ∧ t.sf.f = 7 ∧ t.uc = UnitControl.reset := by
  decide +kernel

theorem test_coldReset_from_reset : after (.coldReset ⟨0, 0⟩) State.reset = State.reset := by decide +kernel

/-- A parked unit. -/
def parked (d : OrderAccess) : State :=
  { unitIn .parked with oe := { OrderEngine.reset with park := some 0x1400, doing := d } }

/-- O53's premises: a parked unit at rest and rechecking, a starved writer at rest and rechecking, a take. -/
theorem test_meets_nudge :
    ((parked .none).uc.unit = .parked ∧ (parked .none).rw.phase ≠ .starved ∧ (parked .none).rw.phase ≠ .taking
      ∧ (parked .none).oe.doing = .none ∧ (parked .none).oe.park = some 0x1400)
    ∧ (parked (.link 0x1400)).oe.doing ≠ .none
    ∧ ((writing .starved .none none [filler]).uc.unit ≠ .parked ∧ (writing .starved .none none [filler]).rw.phase = .starved
      ∧ (writing .starved .none none [filler]).rw.doing = .none)
    ∧ (writing .starved .entry none [filler]).rw.doing ≠ .none
    ∧ (writing .taking .entry none [filler]).rw.phase = .taking := by decide +kernel

/-- O53's premises where both receivers act: PARKED with the writer STARVED at rest, STARVED in a read, and TAKING. -/
def parkedWriting (p : WriterPhase) (d : WriterAccess) : State :=
  { writing p d none [filler] with uc := (unitIn .parked).uc, oe := (parked .none).oe }

theorem test_nudge_of_both :
    (parkedWriting .starved .none).uc.unit = .parked
    ∧ (after (.nudge 0) (parkedWriting .starved .none)).xe.bus
      = [.read .link 0x1400 8, .read .segmentEntry (entryAddr 0 63) 1]
    ∧ (after (.nudge 0) (parkedWriting .starved .entry)).xe.bus = [.read .link 0x1400 8]
    ∧ (after (.nudge 0) (parkedWriting .starved .entry)).rw.recheck = true
    ∧ (after (.nudge 0) (parkedWriting .taking .entry)).rw.recheck = true := by decide +kernel

theorem test_nudge :
    (after (.nudge 0) (parked .none)).oe.doing = .link 0x1400
    ∧ (after (.nudge 9) (writing .starved .none none [filler])).rw.doing = .entry
    ∧ after (.nudge 9) State.reset = State.reset := by decide +kernel

/-- A light condition in LATCHED with the supply judged GOOD, its notice set. -/
def latched : State :=
  { State.reset with light := ⟨.good, true, .latched⟩, xe := { Exchange.reset with noteRaw := 0x1200 } }

/-- O54's premises: a write that clears the light condition, one that does not, a notice enabled. -/
theorem test_meets_notices :
    ((0x200 : Word).getLsbD 9 = true ∧ latched.light.judgement = .good ∧ latched.light.mode = .latched
      ∧ latched.light.present = true)
    ∧ State.reset.light.judgement ≠ .good ∧ State.reset.xe.noteEn = 0
    ∧ (latched.notice .lightLow = true ∧ (0x200 : Word).getLsbD Notice.lightLow.bit = true) := by decide +kernel

theorem test_noteRawWrite :
    (after (.noteRawWrite 0x200) latched).light.present = false
    ∧ (after (.noteRawWrite 0x200) latched).xe.noteRaw = 0x1000
    ∧ (after (.noteRawWrite 0xFFFFFFFF) { latched with light := ⟨.low, true, .latched⟩ }).xe.noteRaw = 0x200 := by
  decide +kernel

theorem test_noteEnWrite_raises_interrupt :
    State.reset.interrupt = false ∧ (after (.noteEnWrite 0xFFFFF000) State.reset).interrupt = true
    ∧ (after (.noteEnWrite 0xFFFFF000) State.reset).xe.noteEn = 0x1000 := by decide +kernel

/-- O55's premises: open in a completed STOPPED, closed in RUNNING, during an entry, and for a partial write. -/
theorem test_meets_base_written :
    (State.reset.uc.unit = .stopped ∧ State.reset.uc.stopping = false) ∧ (unitIn .running).uc.unit ≠ .stopped
    ∧ stoppingState.uc.stopping = true ∧ (7 : BitVec 4) ≠ 15 := by decide +kernel

theorem test_registerWrite :
    (after (.registerWrite 4 15 0x12345678) State.reset).readRegister 4 = 0x12345000
    ∧ (after (.registerWrite 8 15 0x12345678) State.reset).readRegister 8 = 0x12345678
    ∧ after (.registerWrite 4 7 0x12345678) State.reset = State.reset
    ∧ after (.registerWrite 4 15 0x12345678) stoppingState = stoppingState := by decide +kernel

/-! ## Records and invariants (O56 to O60) -/

/-- The bytes of a STANDARD sample record, written out from the layout (11.5). -/
theorem test_standard_record_bytes :
    Record.bytes (.sample ⟨.h2, 0x010203, 0x80, .lowQuality, true, false, .standard ⟨5, 3, 9, -2, 0x11223344⟩⟩)
      = [0x63, 0x01, 0x1C, 0x10, 0x08, 0x28, 0x93, 0x00, 0xFE, 0xFF, 0xFF, 0xFF, 0x44, 0x33, 0x22, 0x11] := by
  decide +kernel

/-- A byte of a register is read by its offset within it, and a read of any size gives its bytes in order. -/
theorem test_registers_read_by_byte :
    let s := after (.registerWrite 4 15 0x12345678) State.reset
    s.readByte 4 = 0x00 ∧ s.readByte 5 = 0x50 ∧ s.readByte 7 = 0x12 ∧ s.readBytes 5 2 = [0x50, 0x34] := by
  decide +kernel

/-- O57's premises: a state within every capacity, its base aligned. -/
theorem test_meets_capacities :
    (full 1024 (flying [flight 0 1 1])).sb.staged.length ≤ Config.bufferRoom
    ∧ ((full 1024 (flying [flight 0 1 1])).sb.staged.filter Staged.isSample).length ≤ Config.sampleRoom
    ∧ ((flying [flight 0 1 1]).ports.get .h0).inFlight.length ≤ Config.inFlightRoom
    ∧ (listed .acquiring (List.replicate 128 anEntry)).ru.next.length ≤ Config.revisitRoom
    ∧ (flying []).rw.segments.length ≤ Config.segmentListRoom ∧ (0x40000 : Word) &&& 0xFFF = 0 := by decide +kernel

/-- O58's premise: the writer in each of its accesses, with and without a FILLING segment. -/
theorem test_meets_writer_sound :
    WriterSound (writing .taking .entry none [filler]).rw ∧ WriterSound (writing .starved .none none [filler]).rw
    ∧ WriterSound (writing .writing .record (some (segment 0)) [filler]).rw
    ∧ WriterSound (writing .closingSegment (.full .length) (some (segment 4096)) [filler]).rw := by
  refine ⟨⟨fun _ => rfl, ?_⟩, ⟨fun _ => rfl, trivial⟩, ⟨?_, ?_⟩, ⟨?_, ?_⟩⟩ <;>
    simp [Writer.accessFits, Writer.searching, writing]

/-- An order one of whose two points issued is accepted, and the other still open, in a burst of two. -/
def halfDone : State :=
  let s := flying [flight 3 1 2, flight 4 2 2]
  { s with oe := { s.oe with counts := { Counts.zero with issued := 2, accepted := 1 } } }

/-- O59's premises: the counts run and balance, with a group open; and a drained list. -/
theorem test_meets_balance :
    halfDone.countsOrder ∧ halfDone.balanced ∧ halfDone.openGroups = 1
    ∧ (closing .drain .none .complete []).balanced ∧ (closing .drain .none .complete []).drained = true := by
  unfold State.balanced
  exact ⟨⟨rfl, trivial⟩, by decide +kernel⟩

theorem test_meets_flights_sound : FlightsSound halfDone := by
  refine ⟨fun h => ?_, ?_, fun h a hd => ?_, fun h => ?_⟩
  · cases h
    case h0 =>
      refine ⟨[[flight 3 1 2, flight 4 2 2]], rfl, fun g hg => ?_⟩
      rw [List.mem_singleton.mp hg]
      exact ⟨rfl, by simp, by decide +kernel, by decide +kernel, by decide +kernel, by decide +kernel⟩
    all_goals exact ⟨[], rfl, by simp⟩
  · intro z hz x hx
    obtain rfl : oneTable = z := Option.some.inj hz
    revert x
    decide +kernel
  · cases hd
  · cases h <;> exact ⟨by decide +kernel, rfl⟩

end Sys2Proof.Tests
end

section
/-! The Angle Tracker (01): count steps, homing, tracking, index arrivals delivered, and encoder faults. -/

namespace Sys2Proof.Machine

/-! ## The commands of the encoder -/

theorem exec_countStep (p : Phase) (index : Bool) (s : State) :
    exec (.countStep p index) s = execCountStep p index s := rfl

theorem exec_illegalTransition (s : State) : exec .illegalTransition s = execIllegalTransition s := rfl

theorem exec_homingTimerExpiry (s : State) : exec .homingTimerExpiry s = execHomingTimerExpiry s := rfl

theorem exec_indexWatchExpiry (s : State) : exec .indexWatchExpiry s = execIndexWatchExpiry s := rfl

theorem exec_nudge (v : Word) (s : State) : exec (.nudge v) s = .next (indexDelivered false s) := rfl

/-! ## What an edge leaves (R1) -/

section
variable (t : Tracker) (p : Phase) (index : Bool)

@[simp] theorem edge_state : (t.edge p index).state = t.state := by cases p <;> rfl
@[simp] theorem edge_config : (t.edge p index).config = t.config := by cases p <;> rfl
@[simp] theorem edge_rawCount : (t.edge p index).rawCount = t.rawCount := by cases p <;> rfl
@[simp] theorem edge_travel : (t.edge p index).travel = t.travel := by cases p <;> rfl
@[simp] theorem edge_revolution : (t.edge p index).revolution = t.revolution := by cases p <;> rfl

end

/-- An illegal transition's inputs: both phases changed, the index level as held (R2, log 36). -/
def Tracker.bothEdges (t : Tracker) : Tracker := { t with encA := !t.encA, encB := !t.encB }

/-- A step wraps at CPR as the residue does (R1). -/
theorem steppedCount_eq_mod {cpr n : Nat} (up : Bool) (h : n < cpr) :
    steppedCount cpr up n = if up then (n + 1) % cpr else (n + cpr - 1) % cpr := by
  unfold steppedCount
  cases up
  · by_cases hn : n = 0
    · subst hn
      simp [Nat.mod_eq_of_lt (Nat.sub_lt h Nat.one_pos)]
    · have e : n + cpr - 1 = (n - 1) + cpr := by omega
      simp [hn, e, Nat.mod_eq_of_lt (show n - 1 < cpr by omega)]
  · by_cases hn : n + 1 = cpr
    · simp [hn]
    · simp [hn, Nat.mod_eq_of_lt (show n + 1 < cpr by omega)]

theorem steppedCount_lt {cpr n : Nat} (up : Bool) (h : n < cpr) : steppedCount cpr up n < cpr := by
  unfold steppedCount
  repeat' split
  all_goals omega

/-! ## A count step by the tracker's state -/

section
variable {s : State} {c : TrackerConfig} (p : Phase) (index : Bool)

/-- In IDLE and in LOST a count step moves the inputs alone (log 8). -/
theorem exec_countStep_uncounted (h : s.tracker.state = .idle ∨ s.tracker.state = .lost) :
    exec (.countStep p index) s = .next { s with tracker := s.tracker.edge p index } := by
  rw [exec_countStep]
  unfold execCountStep
  rcases h with h | h <;> cases hc : s.tracker.config <;> simp [h, hc]

theorem exec_countStep_seeking (h : s.tracker.state = .seeking) (hc : s.tracker.config = some c) :
    exec (.countStep p index) s = .next { s with
      tracker := if isIndexArrival (s.tracker.isUp p) s.tracker.index index then
          (s.tracker.edge p index).firstIndex c (s.tracker.isUp p) s.xe.time
        else { s.tracker.edge p index with
          rawCount := steppedCount c.cpr (s.tracker.isUp p) s.tracker.rawCount } } := by
  rw [exec_countStep]
  unfold execCountStep
  simp only [edge_config, edge_state, edge_rawCount, h, hc]

theorem exec_countStep_measuring (h : s.tracker.state = .measuring) (hc : s.tracker.config = some c) :
    exec (.countStep p index) s = .next
      (if isIndexArrival (s.tracker.isUp p) s.tracker.index index then
        judgeArrival (s.tracker.edge p index) c (s.tracker.isUp p) s
      else { s with tracker := (s.tracker.edge p index).measured c (s.tracker.isUp p) }) := by
  rw [exec_countStep]
  unfold execCountStep
  simp only [edge_config, edge_state, h, hc]

theorem exec_countStep_tracking (h : s.tracker.state = .tracking) (hc : s.tracker.config = some c) :
    exec (.countStep p index) s = .next
      (trackStep (s.tracker.edge p index) c (s.tracker.isUp p)
        (isIndexArrival (s.tracker.isUp p) s.tracker.index index) s) := by
  rw [exec_countStep]
  unfold execCountStep
  simp only [edge_config, edge_state, h, hc]

end

/-! ## An illegal transition by the tracker's state -/

section
variable {s : State}

/-- Outside MEASURING and TRACKING an illegal transition moves the inputs alone (R2). -/
theorem exec_illegalTransition_uncounted
    (h : s.tracker.state = .idle ∨ s.tracker.state = .lost ∨ s.tracker.state = .seeking) :
    exec .illegalTransition s = .next { s with tracker := s.tracker.bothEdges } := by
  rw [exec_illegalTransition]
  unfold execIllegalTransition Tracker.bothEdges
  rcases h with h | h | h <;> simp only [h]

theorem exec_illegalTransition_measuring (h : s.tracker.state = .measuring) :
    exec .illegalTransition s
      = .next (homingFault .homeMismatch { s with tracker := s.tracker.bothEdges }) := by
  rw [exec_illegalTransition]
  unfold execIllegalTransition Tracker.bothEdges
  simp only [h]

theorem exec_illegalTransition_tracking (h : s.tracker.state = .tracking) :
    exec .illegalTransition s
      = .next (settle (encoderFault .encoderSlip { s with tracker := s.tracker.bothEdges })) := by
  rw [exec_illegalTransition]
  unfold execIllegalTransition Tracker.bothEdges
  simp only [h]

end

/-! ## The timers' expiries -/

section
variable {s : State}

theorem exec_homingTimerExpiry_running (h : s.tracker.state = .seeking ∨ s.tracker.state = .measuring)
    (ht : s.tracker.homingTimer ≠ .stopped) :
    exec .homingTimerExpiry s = .next (homingFault .homeTimeout s) := by
  rw [exec_homingTimerExpiry]
  unfold execHomingTimerExpiry
  cases hr : s.tracker.homingTimer with
  | stopped => exact absurd hr ht
  | running => rcases h with h | h <;> simp only [h]

theorem exec_indexWatchExpiry_running (h : s.tracker.state = .tracking) (ht : s.tracker.indexWatch ≠ .stopped) :
    exec .indexWatchExpiry s = .next (settle (encoderFault .encoderLost s)) := by
  rw [exec_indexWatchExpiry]
  unfold execIndexWatchExpiry
  cases hr : s.tracker.indexWatch with
  | stopped => exact absurd hr ht
  | running => simp only [h]

end

/-! ## Faults of the encoder (R2, R8, R9, R13) -/

/-- A tracker in LOST: timers stopped, travel count not kept, all else as it stood. -/
theorem lost_eq {t : Tracker} (h : t.state ≠ .idle) :
    t.lost = { t with state := .lost, travel := none, homingTimer := .stopped, indexWatch := .stopped } := if_neg h

@[simp] theorem lost_lost (t : Tracker) : t.lost.lost = t.lost := by
  by_cases h : t.state = .idle <;> simp [Tracker.lost, h]

/-- The tracker's own changes leave the registers. -/
theorem trackerUpd_registers (x : Tracker) (s : State) : SameRegisters s { s with tracker := x } :=
  ⟨rfl, rfl, rfl, rfl, rfl, rfl, rfl⟩

/-- From `s`, its tracker having come to `x`, an encoder fault with cause `c` has put the tracker in LOST and the
unit in FAULTED. -/
structure FaultedByEncoder (c : FaultCause) (x : Tracker) (s t : State) : Prop where
  tracker : t.tracker = { x with state := .lost, travel := none, homingTimer := .stopped, indexWatch := .stopped }
  unit : t.uc.unit = .faulted
  cause : t.uc.cause = some c
  notice : t.notice .unitFault = true
  engine : t.oe.engine = .idle
  registers : SameRegisters s t

section
variable {s : State} {x : Tracker}

/-- A homing fault puts the tracker in LOST and the unit in FAULTED (R2, R8, R9). -/
theorem homingFault_spec (c : FaultCause) (hx : x.state ≠ .idle) (hu : s.uc.unit ≠ .faulted) :
    FaultedByEncoder c x s (homingFault c { s with tracker := x }) := by
  obtain ⟨unit, cause, tracker, notice, engine, _, _, registers, _⟩ :=
    enterFaulted_spec c { s with tracker := x.lost } hu
  exact ⟨by rw [← lost_eq hx, ← lost_lost]; exact tracker, unit, cause, notice, engine,
    (trackerUpd_registers _ s).trans registers⟩

/-- With the Order Engine IDLE an encoder fault is the unit's at once (R13). -/
theorem encoderFault_idle (c : FaultCause) (hx : x.state ≠ .idle) (hu : s.uc.unit ≠ .faulted)
    (ho : s.oe.engine = .idle) : FaultedByEncoder c x s (encoderFault c { s with tracker := x }) := by
  have e : encoderFault c { s with tracker := x } = homingFault c { s with tracker := x } := by
    unfold encoderFault homingFault
    simp only [ho]
  exact e ▸ homingFault_spec c hx hu

/-- The steps at the end of the event leave the fault as it was entered. -/
theorem FaultedByEncoder.settled {c : FaultCause} {t : State} (h : FaultedByEncoder c x s t) :
    FaultedByEncoder c x s (settle t) := by
  have steady := settle_steady (Steady.refl t)
  have rest := settle_atRest t (by rw [h.engine]; rfl) (by simp [h.unit])
  exact ⟨steady.tracker.trans h.tracker, by rw [rest.uc, h.unit], by rw [rest.uc, h.cause],
    steady.notices _ h.notice, rest.engine.trans h.engine, h.registers.trans steady.registers⟩

/-- In a state from LOADING to LIGHT_WAIT an encoder fault is the order's end condition, its cause kept for the
unit (R13, R142). -/
theorem encoderFault_running (c : FaultCause) (hr : s.oe.engine.running = true) :
    encoderFault c s
      = endCondition (encoderSlot c) { s with tracker := s.tracker.lost, uc := { s.uc with fault := some c } } := by
  unfold encoderFault
  cases h : s.oe.engine <;> simp only [h, EngineState.running, Bool.false_eq_true] at hr ⊢

/-- From `s`, an encoder fault with cause `c` has ended the running order: the tracker in LOST at the same raw count,
CLOSING begun with ENCODER_FAULT, and the cause kept for the unit, which stays in its state (R13). -/
structure EndedByEncoder (c : FaultCause) (s t : State) : Prop where
  state : t.tracker.state = .lost
  rawCount : t.tracker.rawCount = s.tracker.rawCount
  engine : t.oe.engine = .closing
  endSlot : t.oe.endSlot = some ⟨.encoderFault, c.code⟩
  fault : t.uc.fault = some c
  unit : t.uc.unit = s.uc.unit
  registers : SameRegisters s t

theorem settle_encoderFault_running (c : FaultCause) (hx : x.state ≠ .idle)
    (hraw : x.rawCount = s.tracker.rawCount) (hr : s.oe.engine.running = true) (he : s.oe.endSlot = none)
    (hu : s.uc.unit ≠ .starting) :
    EndedByEncoder c s (settle (encoderFault c { s with tracker := x })) := by
  rw [encoderFault_running c (s := { s with tracker := x }) hr, lost_eq hx]
  generalize hn : ({ s with
      tracker := { x with state := .lost, travel := none, homingTimer := .stopped, indexWatch := .stopped }
      uc := { s.uc with fault := some c } } : State) = noted
  have tracker : noted.tracker
      = { x with state := .lost, travel := none, homingTimer := .stopped, indexWatch := .stopped } := by
    rw [← hn]
  have oe : noted.oe = s.oe := by rw [← hn]
  have uc : noted.uc = { s.uc with fault := some c } := by rw [← hn]
  have registers : SameRegisters s noted := by rw [← hn]; exact ⟨rfl, rfl, rfl, rfl, rfl, rfl, rfl⟩
  have steady := settle_steady (endCondition_steady (encoderSlot c) (Steady.refl noted))
  obtain ⟨engine, endSlot, _, settled⟩ :=
    settle_ended (encoderSlot c) noted (by rw [oe, hr]) (by rw [oe, he]) (by rw [uc]; exact hu)
  have lost := steady.tracker.trans tracker
  have unit := settled.trans uc
  exact ⟨by rw [lost], by rw [lost]; exact hraw, engine, endSlot, by rw [unit], by rw [unit],
    registers.trans steady.registers⟩

end

/-! ## Homing (R1, R8, R10) -/

/-- A count step in MEASURING: the raw count modulo CPR, the travel count without wrapping (R1). -/
theorem measured_eq {t : Tracker} {c : TrackerConfig} {n : Int} (up : Bool) (ht : t.travel = some n)
    (hraw : t.rawCount < c.cpr) :
    t.measured c up = { t with
      rawCount := if up then (t.rawCount + 1) % c.cpr else (t.rawCount + c.cpr - 1) % c.cpr
      travel := some (if up then n + 1 else n - 1) } := by
  unfold Tracker.measured steppedTravel
  rw [steppedCount_eq_mod _ hraw, ht, Option.map_some]

/-- An index position one revolution from the first is raw count 0, whichever way the arrival steps (R10). -/
theorem homed_eq {t : Tracker} {c : TrackerConfig} {up : Bool} {n : Int} (now : Time) (ht : t.travel = some n)
    (hc : 0 < c.cpr) (hm : t.indexTravel up = c.cpr ∨ t.indexTravel up = -(c.cpr : Int)) :
    t.homed c up now = { t with
      state := .tracking, rawCount := if up then 0 else c.cpr - 1, travel := none, revolution := 0,
      homingTimer := .stopped, indexWatch := .running now (1000 * c.maxPeriod) } := by
  have count : (steppedTravel up n % (c.cpr : Int)).toNat = if up then 0 else c.cpr - 1 := by
    simp only [Tracker.indexTravel, ht, Option.getD_some] at hm
    cases up
    · have e : (n - 1) % (c.cpr : Int) = c.cpr - 1 := by
        have last : ((c.cpr : Int) - 1) % c.cpr = c.cpr - 1 := Int.emod_eq_of_lt (by omega) (by omega)
        rcases hm with hm | hm <;> simp only [Bool.false_eq_true, if_false] at hm <;> subst hm
        · exact last
        · rw [show -(c.cpr : Int) - 1 = c.cpr - 1 + c.cpr * (-2) by ring, Int.add_mul_emod_self_left, last]
      simp only [steppedTravel, Bool.false_eq_true, if_false, e]
      omega
    · rcases hm with hm | hm <;> simp only [if_true] at hm <;> simp [hm]
  unfold Tracker.homed TrackerConfig.period
  rw [ht, Option.getD_some, count]

/-! ## The angle arrival of a count step (R4, R5) -/

/-- Adding the complement of `b` is subtracting `b`, to the modulus. -/
theorem add_complement_mod {a b m : Nat} (hb : b < m) :
    (a + (m - b % m)) % m = (((a : Int) - b) % m).toNat := by
  have e : (((a + (m - b % m)) % m : Nat) : Int) = ((a : Int) - b) % m := by
    rw [Nat.mod_eq_of_lt hb]
    push_cast [Nat.cast_sub hb.le]
    rw [show (a : Int) + (m - b) = a - b + m by ring, Int.add_emod_right]
  rw [← e, Int.toNat_natCast]

section
variable {s : State} {c : TrackerConfig} (up : Bool)

/-- The angle arrival of a count step: the blade angle and the direction by the sense (R4, R5). -/
theorem publishAngle_eq (horigin : c.origin < c.cpr) (hraw : s.tracker.rawCount < c.cpr) :
    publishAngle c up s = angleArrival
      (match c.sense with
        | .forward => up
        | .reverse => !up)
      (match c.sense with
        | .forward => ((s.tracker.rawCount : Int) - c.origin) % c.cpr
        | .reverse => ((c.origin : Int) - s.tracker.rawCount) % c.cpr : Int).toNat
      s.tracker.revolution s := by
  unfold publishAngle TrackerConfig.scans TrackerConfig.blade
  cases c.sense with
  | forward => exact congrArg (fun n => angleArrival up n _ s) (add_complement_mod horigin)
  | reverse => exact congrArg (fun n => angleArrival (!up) n _ s) (add_complement_mod hraw)

end

/-! ## A count step in TRACKING (R11) -/

section
variable (t : Tracker) (c : TrackerConfig) (up : Bool) (s : State)

theorem trackStep_ordinary : trackStep t c up false s
    = settle (publishAngle c up { s with tracker := { t with rawCount := steppedCount c.cpr up t.rawCount } }) := by
  unfold trackStep
  rw [if_neg Bool.false_ne_true]

theorem trackStep_onZero (h : indexCheck c up t.rawCount = true) : trackStep t c up true s
    = settle (indexDelivered (c.scans up) (publishAngle c up { s with
        tracker := ({ t with rawCount := steppedCount c.cpr up t.rawCount } : Tracker).indexed c (c.scans up)
          s.xe.time })) := by
  unfold trackStep
  rw [if_pos rfl, if_pos h]

theorem trackStep_offZero (h : indexCheck c up t.rawCount = false) : trackStep t c up true s
    = settle (encoderFault .encoderSlip { s with
        tracker := { t with rawCount := steppedCount c.cpr up t.rawCount } }) := by
  unfold trackStep
  rw [if_pos rfl, if_neg (by simp [h])]

end

theorem indexCheck_iff {c : TrackerConfig} {up : Bool} {raw : Nat} (h : raw < c.cpr) :
    indexCheck c up raw = true ↔ (if up then (raw + 1) % c.cpr else raw) = 0 := by
  unfold indexCheck
  cases up <;> simp [steppedCount_eq_mod _ h]

/-- The step that arrives at an index position of raw count 0 ends at 0, or just below it on the way down. -/
theorem steppedCount_onZero {c : TrackerConfig} {up : Bool} {raw : Nat} (h : indexCheck c up raw = true) :
    steppedCount c.cpr up raw = if up then 0 else c.cpr - 1 := by
  unfold indexCheck at h
  cases up
  · simp only [Bool.false_eq_true, if_false, beq_iff_eq] at h
    simp [steppedCount, h]
  · simpa using h

theorem publishAngle_onward {b s : State} (c : TrackerConfig) (up : Bool) (h : Onward b s) :
    Onward b (publishAngle c up s) := angleArrival_onward _ _ _ h

/-! ## The counts of a scan-direction index arrival (R101, R140, R157) -/

/-- The part of a head counted by the arrival: its due count in CHECKING, where it works for the order (R101). -/
def State.dueStep (s : State) (h : Head) (r : HeadRef) : HeadRef :=
  match s.rc.mode, s.rc.config with
  | .checking, some c => if s.inOrder h then r.dueCounted c.interval else r
  | _, _ => r

@[simp] theorem set_get {α : Type} (p : PerHead α) (h : Head) : p.set h (p.get h) = p := by cases h <;> rfl

theorem countDue_eq (h : Head) (s : State) : countDue h s = s.onHeadRef h (s.dueStep h) := by
  have stay : s = s.onHeadRef h id := by
    unfold State.onHeadRef
    rw [id, set_get]
  unfold countDue State.dueStep
  cases s.rc.mode with
  | off | calibrating => exact stay
  | checking =>
    cases s.rc.config with
    | none => exact stay
    | some c =>
      dsimp only
      split
      · rfl
      · exact stay

/-- Due counting of one head leaves what another's depends on. -/
theorem dueStep_onHeadRef (s : State) (h k : Head) (f : HeadRef → HeadRef) :
    (s.onHeadRef k f).dueStep h = s.dueStep h := rfl

theorem forHeads_countDue (s : State) : forHeads countDue s
    = { s with rc := { s.rc with heads := .of fun h => s.dueStep h (s.rc.heads.get h) } } := by
  unfold forHeads
  simp only [countDue_eq, dueStep_onHeadRef]
  rfl

theorem countGrace_eq (s : State) : countGrace s
    = { s with oe := { s.oe with grace := if s.graceCounts then s.oe.grace + 1 else s.oe.grace } } := by
  unfold countGrace
  split <;> rfl

/-- The order's end is open: it runs, and no end condition has decided it (R142). -/
def State.endOpen (s : State) : Bool := s.oe.engine.running && s.oe.endSlot.isNone

theorem countStall_eq (s : State) : countStall s
    = { s with sb := { s.sb with
        stallCount := if s.endOpen then (if s.sb.dropFlag then min 255 (s.sb.stallCount + 1) else 0)
          else s.sb.stallCount
        dropFlag := if s.endOpen then false else s.sb.dropFlag } } := by
  unfold countStall State.endOpen
  split <;> rfl

/-- The three counts of a scan-direction index arrival, before the end condition they give. -/
def State.indexCounted (s : State) : State := countStall (countGrace (forHeads countDue s))

theorem indexCounted_eq (s : State) : s.indexCounted
    = { s with
      rc := { s.rc with heads := .of fun h => s.dueStep h (s.rc.heads.get h) }
      oe := { s.oe with grace := if s.graceCounts then s.oe.grace + 1 else s.oe.grace }
      sb := { s.sb with
        stallCount := if s.endOpen then (if s.sb.dropFlag then min 255 (s.sb.stallCount + 1) else 0)
          else s.sb.stallCount
        dropFlag := if s.endOpen then false else s.sb.dropFlag } } := by
  unfold State.indexCounted
  rw [forHeads_countDue, countGrace_eq, countStall_eq]
  rfl

theorem indexDelivered_scan (s : State) : indexDelivered true s
    = takeOne (indexDelivered false s).indexCounted.indexConditions (indexDelivered false s).indexCounted := by
  unfold indexDelivered countRevolution State.indexCounted
  rw [if_pos rfl, if_neg Bool.false_ne_true]

/-! ## The end conditions of an index arrival (R101, R140, R142, R157) -/

theorem overdue_iff (s : State) (h : Head) : s.overdue h = true ↔
    ∃ c, s.rc.mode = .checking ∧ s.rc.config = some c ∧ s.mask.get h = true ∧ s.oe.excluded.get h = false
      ∧ c.interval + 8 ≤ (s.rc.heads.get h).due := by
  unfold State.overdue State.inOrder
  cases s.rc.config <;> simp [and_assoc]

theorem graceOver_iff (s : State) : s.graceOver = true ↔
    ∃ g, (s.oe.engine = .lightWait ∧ s.oe.marker = none) ∧ s.oe.lightGrace = some g ∧ g ≤ s.oe.grace := by
  unfold State.graceOver State.graceCounts
  cases s.oe.lightGrace <;> simp

theorem stalled_iff (s : State) (e : EndSlot) : s.stalled = some e ↔
    ∃ k, s.sb.stallLimit = some k ∧ s.oe.engine.running = true ∧ k ≤ s.sb.stallCount ∧ e = ⟨.outputStall, k⟩ := by
  unfold State.stalled
  cases s.sb.stallLimit <;> simp [and_assoc, eq_comm (a := e)]

theorem mem_all (h : Head) : h ∈ Head.all := by cases h <;> decide

/-- The end conditions that an arrival's counts bring: a head overdue, the light grace over, the output stalled. -/
theorem mem_indexConditions (s : State) (e : EndSlot) : e ∈ s.indexConditions ↔
    (∃ h c, s.rc.mode = .checking ∧ s.rc.config = some c ∧ s.mask.get h = true ∧ s.oe.excluded.get h = false
      ∧ c.interval + 8 ≤ (s.rc.heads.get h).due ∧ e = ⟨.referenceOverdue, h.num⟩)
    ∨ (∃ g, (s.oe.engine = .lightWait ∧ s.oe.marker = none) ∧ s.oe.lightGrace = some g ∧ g ≤ s.oe.grace
      ∧ e = ⟨.lightLost, 0⟩)
    ∨ ∃ k, s.sb.stallLimit = some k ∧ s.oe.engine.running = true ∧ k ≤ s.sb.stallCount ∧ e = ⟨.outputStall, k⟩ := by
  have members : e ∈ s.indexConditions ↔ (∃ h, s.overdue h = true ∧ e = ⟨.referenceOverdue, h.num⟩)
      ∨ (s.graceOver = true ∧ e = ⟨.lightLost, 0⟩) ∨ s.stalled = some e := by
    unfold State.indexConditions
    simp only [List.mem_append, List.mem_map, List.mem_filter, mem_all, true_and, Option.mem_toList, or_assoc,
      eq_comm (a := e)]
    cases s.graceOver <;> simp [eq_comm (a := e)]
  rw [members]
  simp only [overdue_iff, graceOver_iff, stalled_iff, ← exists_and_right, and_assoc]

theorem choice_lt (s : State) {n : Nat} (h : 0 < n) : s.choice n < n := by
  unfold State.choice
  split
  · exact h
  · exact Nat.mod_lt _ h

theorem chosen_eq (s : State) (n : Nat) : ∃ free, s.chosen n = { s with free := free } := by
  unfold State.chosen
  split
  · exact ⟨s.free, rfl⟩
  · exact ⟨s.free + 1, rfl⟩

/-- Of the end conditions that come, one is given (log 6). -/
theorem takeOne_spec (cs : List EndSlot) (s : State) (h : ∃ e, e ∈ cs) :
    ∃ e free, e ∈ cs ∧ takeOne cs s = endCondition e { s with free := free } := by
  obtain ⟨e₀, he₀⟩ := h
  have lt := choice_lt s (List.length_pos_of_mem he₀)
  obtain ⟨free, chosen⟩ := chosen_eq s cs.length
  refine ⟨cs[s.choice cs.length], free, List.getElem_mem lt, ?_⟩
  unfold takeOne
  rw [List.getElem?_eq_getElem lt, chosen]

theorem takeOne_nil (cs : List EndSlot) (s : State) (h : ∀ e, e ∉ cs) : takeOne cs s = s := by
  rw [List.eq_nil_iff_forall_not_mem.mpr h]
  rfl

/-- A scan-direction index arrival counts, and gives one of the end conditions that its counts bring. -/
theorem indexDelivered_scan_spec (s : State) (reached : EndSlot → Prop)
    (h : ∀ e, e ∈ (indexDelivered false s).indexCounted.indexConditions ↔ reached e) :
    ((∀ e, ¬reached e) → indexDelivered true s = (indexDelivered false s).indexCounted)
    ∧ ((∃ e, reached e) → ∃ e free, reached e
        ∧ indexDelivered true s = endCondition e { (indexDelivered false s).indexCounted with free := free }) := by
  simp only [← h, indexDelivered_scan]
  exact ⟨takeOne_nil _ _, takeOne_spec _ _⟩

end Sys2Proof.Machine
end

section
/-! The statements of 01 (angle and revolution tracking), settled. -/

open Sys2Proof Sys2Proof.Machine

/-- Settles O4: an edge moves the pair by its phase's level, case by case; the rest is what an event does in a state
that counts nothing. -/
theorem uncountedStepsMoveInputsOnly : Obligations.UncountedStepsMoveInputsOnly := by
  refine ⟨fun t p index => ?_, fun s p index =>
    ⟨exec_countStep_uncounted p index, exec_illegalTransition_uncounted⟩⟩
  unfold Tracker.edge Tracker.isUp
  cases p <;> cases t.encA <;> cases t.encB <;> rfl

/-- Settles O5, state by state. -/
theorem homingCountsItsSteps : Obligations.HomingCountsItsSteps := by
  refine ⟨fun s c p index hstate hconfig hraw => ?_, fun s c n p index hstate hconfig htravel hraw =>
    ⟨fun harrival => ?_, fun hunit => ?_⟩⟩
  · rw [exec_countStep_seeking p index hstate hconfig, steppedCount_eq_mod _ hraw]
    rfl
  · rw [exec_countStep_measuring p index hstate hconfig, harrival, if_neg Bool.false_ne_true,
      measured_eq _ (by simpa using htravel) (by simpa using hraw), edge_rawCount]
  · have f := homingFault_spec .homeMismatch (s := s) (x := s.tracker.bothEdges)
      (by simp [Tracker.bothEdges, hstate]) (by simp [hunit])
    exact ⟨_, exec_illegalTransition_measuring hstate, by rw [f.tracker], by rw [f.tracker]; rfl, f.unit, f.cause,
      f.registers⟩

/-- Settles O6: R8's three outcomes are the branches of `judgeArrival`. -/
theorem measuringJudgesIndexArrivals : Obligations.MeasuringJudgesIndexArrivals := by
  intro s c n p index hstate hconfig htravel hraw hunit harrival
  have travel : (s.tracker.edge p index).travel = some n := by rw [edge_travel, htravel]
  have position : (s.tracker.edge p index).indexTravel (s.tracker.isUp p) = if s.tracker.isUp p then n + 1 else n := by
    simp only [Tracker.indexTravel, travel, Option.getD_some, steppedTravel]
    split <;> rfl
  refine ⟨_, by rw [exec_countStep_measuring p index hstate hconfig, harrival, if_pos rfl], ?_⟩
  intro up m
  have judged : (s.tracker.edge p index).indexTravel up = m := position
  unfold judgeArrival
  dsimp only
  rw [judged]
  by_cases first : m = 0
  · rw [if_pos first, if_pos first, measured_eq _ travel (by simpa using hraw), edge_rawCount]
    rfl
  · rw [if_neg first, if_neg first]
    by_cases whole : m = (c.cpr : Int) ∨ m = -(c.cpr : Int)
    · rw [if_pos whole, if_pos whole, homed_eq _ travel (by omega) (judged ▸ whole)]
      exact settle_steady (Steady.refl _)
    · rw [if_neg whole, if_neg whole]
      have f := homingFault_spec .homeMismatch (s := s) (x := (s.tracker.edge p index).measured c up)
        (by simp [Tracker.measured, hstate]) (by simp [hunit])
      exact ⟨by rw [f.tracker], f.unit, f.cause, f.registers⟩

/-- Settles O7: the blade angle and the direction by the sense; what the scan leaves alone, by `Onward`. -/
theorem trackingPublishesEachStep : Obligations.TrackingPublishesEachStep := by
  intro s c p index hstate hconfig hraw horigin harrival
  refine ⟨_, exec_countStep_tracking p index hstate hconfig, ?_⟩
  intro raw moved blade scan
  have stepped : steppedCount c.cpr (s.tracker.isUp p) s.tracker.rawCount = raw := steppedCount_eq_mod _ hraw
  have inRange : raw < c.cpr := stepped ▸ steppedCount_lt _ hraw
  have published : publishAngle c (s.tracker.isUp p) moved
      = angleArrival scan blade.toNat s.tracker.revolution moved := by
    have revolution : moved.tracker.revolution = s.tracker.revolution := edge_revolution _ p index
    rw [← revolution]
    exact publishAngle_eq _ horigin inRange
  rw [harrival, trackStep_ordinary, edge_rawCount, stepped]
  exact ⟨congrArg settle published,
    (publishAngle_onward c _ (Onward.refl moved)).steady (settle_steady (Steady.refl _))⟩

/-- Settles O8: what an index arrival at raw count 0 brings, what a backward one is, and what a scan-direction one
counts. -/
theorem trackingChecksIndexArrivals : Obligations.TrackingChecksIndexArrivals := by
  refine ⟨fun s c p index hstate hconfig hraw horigin harrival hzero => ?_, fun s v => exec_nudge v s, fun s => ?_⟩
  · intro raw blade scan rev moved
    have checked : indexCheck c (s.tracker.isUp p) (s.tracker.edge p index).rawCount = true := by
      rw [edge_rawCount]
      exact (indexCheck_iff hraw).mpr hzero
    have stepped : steppedCount c.cpr (s.tracker.isUp p) (s.tracker.edge p index).rawCount = raw :=
      steppedCount_onZero checked
    have inRange : raw < c.cpr := stepped ▸ steppedCount_lt _ (by rw [edge_rawCount]; exact hraw)
    have scans : c.scans (s.tracker.isUp p) = scan := by
      unfold TrackerConfig.scans
      cases hs : c.sense <;> simp only [scan, hs]
    have indexed : ({ s.tracker.edge p index with rawCount := raw } : Tracker).indexed c scan s.xe.time
        = moved.tracker := by
      unfold Tracker.indexed steppedRevolution
      dsimp only
      rw [edge_revolution]
      rfl
    have published : publishAngle c (s.tracker.isUp p) moved = angleArrival scan blade.toNat rev moved :=
      publishAngle_eq _ horigin inRange
    refine ⟨_, exec_countStep_tracking p index hstate hconfig, ?_⟩
    rw [harrival, trackStep_onZero _ _ _ _ checked, stepped, scans, indexed]
    exact ⟨congrArg (fun u => settle (indexDelivered scan u)) published,
      (indexDelivered_onward scan (publishAngle_onward c _ (Onward.refl moved))).steady
        (settle_steady (Steady.refl _))⟩
  · have spec := indexDelivered_scan_spec s
    generalize indexDelivered false s = delivered at spec ⊢
    intro r order waits due counted reached
    have waits_iff : r.graceCounts = true ↔ waits := by simp [State.graceCounts, waits]
    have order_iff : r.endOpen = true ↔ order := by simp [State.endOpen, order]
    have due_eq : (fun h => r.dueStep h (r.rc.heads.get h)) = due := by
      funext h
      unfold State.dueStep State.inOrder
      simp only [due]
      cases r.rc.mode with
      | off | calibrating => rfl
      | checking =>
        cases r.rc.config with
        | none => rfl
        | some c => exact if_congr (by simp) rfl rfl
    have counted_eq : r.indexCounted = counted := by
      rw [indexCounted_eq, due_eq, if_congr waits_iff rfl rfl, if_congr order_iff rfl rfl,
        if_congr order_iff rfl rfl]
    have reached_iff : ∀ e, e ∈ counted.indexConditions ↔ reached e := mem_indexConditions counted
    rw [counted_eq] at spec
    exact spec reached reached_iff

/-- Settles O9: each event reaches `homingFault` or `encoderFault`, with the tracker moved by its inputs alone. -/
theorem encoderFaultsEndOrderOrUnit : Obligations.EncoderFaultsEndOrderOrUnit := by
  refine ⟨fun s e cause hunit hengine hevent => ?_,
    fun s e cause hstate hrunning hslot hunit hevent => ?_⟩
  · have faulted : ∃ x t, x.revolution = s.tracker.revolution ∧ exec e s = .next t
        ∧ FaultedByEncoder cause x s t := by
      rcases hevent with ⟨hstate, rfl, rfl⟩ | ⟨hstate, hwatch, rfl, rfl⟩ | ⟨hstate, htimer, rfl, rfl⟩
        | ⟨c, p, index, hstate, hconfig, hraw, harrival, hoff, rfl, rfl⟩
      · exact ⟨s.tracker.bothEdges, _, rfl, exec_illegalTransition_tracking hstate,
          (encoderFault_idle _ (by simp [Tracker.bothEdges, hstate]) hunit hengine).settled⟩
      · exact ⟨s.tracker, _, rfl, exec_indexWatchExpiry_running hstate hwatch,
          (encoderFault_idle _ (by simp [hstate]) hunit hengine).settled⟩
      · exact ⟨s.tracker, _, rfl, exec_homingTimerExpiry_running hstate htimer,
          homingFault_spec _ (by rcases hstate with h | h <;> simp [h]) hunit⟩
      · have off : indexCheck c (s.tracker.isUp p) (s.tracker.edge p index).rawCount = false := by
          rw [edge_rawCount, Bool.eq_false_iff]
          exact fun h => hoff ((indexCheck_iff hraw).mp h)
        have answer := exec_countStep_tracking p index hstate hconfig
        rw [harrival, trackStep_offZero _ _ _ _ off] at answer
        exact ⟨{ s.tracker.edge p index with rawCount := steppedCount c.cpr _ (s.tracker.edge p index).rawCount }, _,
          edge_revolution s.tracker p index, answer,
          (encoderFault_idle _ (by simp [hstate]) hunit hengine).settled⟩
    obtain ⟨x, t, revolution, answer, f⟩ := faulted
    exact ⟨t, answer, by rw [f.tracker], by rw [f.tracker], by rw [f.tracker], by rw [f.tracker]; exact revolution,
      f.unit, f.cause, f.notice, f.registers⟩
  · have starting : s.uc.unit ≠ .starting := by rcases hunit with h | h <;> simp [h]
    have ended : ∃ t, exec e s = .next t ∧ EndedByEncoder cause s t := by
      rcases hevent with ⟨rfl, rfl⟩ | ⟨rfl, hwatch, rfl⟩
      · exact ⟨_, exec_illegalTransition_tracking hstate, settle_encoderFault_running _
          (by simp [Tracker.bothEdges, hstate]) rfl hrunning hslot starting⟩
      · exact ⟨_, exec_indexWatchExpiry_running hstate hwatch, settle_encoderFault_running (x := s.tracker) _
          (by simp [hstate]) rfl hrunning hslot starting⟩
    obtain ⟨t, answer, f⟩ := ended
    exact ⟨t, answer, f.state, f.rawCount, f.engine, f.endSlot, f.fault, f.unit, f.registers⟩

end

section
/-! Zone tables and trigger points (02.1 to 02.3): runs of points, the points of a pass, and the first at or after an
offset. -/

namespace Sys2Proof.Machine

/-! ## Runs of points -/

theorem mem_runOfPoints {first pitch limit x : Nat} (hp : 1 ≤ pitch) :
    x ∈ runOfPoints first pitch limit ↔ ∃ k, x = first + k * pitch ∧ x < limit := by
  unfold runOfPoints
  split
  · rename_i inside
    have counts : ∀ k, k < (limit - 1 - first) / pitch + 1 ↔ first + k * pitch < limit := by
      intro k
      rw [Nat.lt_succ_iff, Nat.le_div_iff_mul_le hp]
      omega
    simp only [List.mem_map, List.mem_range, counts]
    exact ⟨fun ⟨k, hk, e⟩ => ⟨k, e.symm, e ▸ hk⟩, fun ⟨k, e, hk⟩ => ⟨k, e ▸ hk, e.symm⟩⟩
  · simp only [List.not_mem_nil, false_iff, not_exists, not_and]
    intro k e
    omega

/-- The next of a run is the least of its numbers at or after the offset. -/
theorem nextInRun_least (first offset : Nat) {pitch : Nat} (hp : 1 ≤ pitch) :
    (∃ k, nextInRun first pitch offset = first + k * pitch) ∧ offset ≤ nextInRun first pitch offset
    ∧ ∀ j, offset ≤ first + j * pitch → nextInRun first pitch offset ≤ first + j * pitch := by
  unfold nextInRun
  split
  · exact ⟨⟨0, by simp⟩, ‹_›, fun j _ => Nat.le_add_right _ _⟩
  · have reached : offset - first ≤ (offset - first + pitch - 1) / pitch * pitch := by
      have := Nat.lt_div_mul_add (a := offset - first + pitch - 1) (b := pitch) hp
      omega
    refine ⟨⟨_, rfl⟩, by omega, fun j hj => Nat.add_le_add_left (Nat.mul_le_mul_right _ ?_) _⟩
    rw [← Nat.lt_succ_iff, Nat.div_lt_iff_lt_mul hp, Nat.succ_mul]
    omega

/-! ## The least point at or after an offset -/

/-- `x` is the least of the points at or after the offset, or none where there is none. -/
def LeastFrom (offset : Nat) (points : List (Nat × Nat)) : Option Nat → Prop
  | none => ∀ q ∈ points, q.1 < offset
  | some p => (∃ q ∈ points, q.1 = p) ∧ offset ≤ p ∧ ∀ q ∈ points, offset ≤ q.1 → p ≤ q.1

theorem leastFrom_nil (offset : Nat) : LeastFrom offset [] none := nofun

/-- Of two lists of which the first has no point above one of the second, the first is looked at first. -/
theorem LeastFrom.append {offset p : Nat} {a b : List (Nat × Nat)} {y : Option Nat} {c : Prop} [Decidable c]
    (ha : LeastFrom offset a (if c then some p else none)) (hb : LeastFrom offset b y)
    (ascending : ∀ q ∈ a, ∀ r ∈ b, q.1 ≤ r.1) : LeastFrom offset (a ++ b) (if c then some p else y) := by
  split at ha
  · rename_i found
    rw [if_pos found]
    obtain ⟨⟨q, hq, rfl⟩, reached, least⟩ := ha
    refine ⟨⟨q, List.mem_append_left _ hq, rfl⟩, reached, fun r hr hle => ?_⟩
    exact (List.mem_append.mp hr).elim (fun hr => least r hr hle) (ascending q hq r)
  · rename_i unfound
    rw [if_neg unfound]
    cases y with
    | none => exact fun q hq => (List.mem_append.mp hq).elim (ha q) (hb q)
    | some p =>
      obtain ⟨⟨q, hq, rfl⟩, reached, least⟩ := hb
      refine ⟨⟨q, List.mem_append_right _ hq, rfl⟩, reached, fun r hr hle => ?_⟩
      exact (List.mem_append.mp hr).elim (fun hr => absurd (ha r hr) (Nat.not_lt.mpr hle)) (fun hr => least r hr hle)

theorem leastFrom_run (first limit zone offset : Nat) {pitch : Nat} (hp : 1 ≤ pitch) :
    LeastFrom offset ((runOfPoints first pitch limit).map (·, zone))
      (if nextInRun first pitch offset < limit then some (nextInRun first pitch offset) else none) := by
  obtain ⟨⟨k, isPoint⟩, reached, least⟩ := nextInRun_least first offset hp
  have points : ∀ q ∈ (runOfPoints first pitch limit).map (·, zone), q.1 < limit ∧ ∃ j, q.1 = first + j * pitch := by
    intro q hq
    obtain ⟨x, hx, rfl⟩ := List.mem_map.mp hq
    obtain ⟨j, e, hlt⟩ := (mem_runOfPoints hp).mp hx
    exact ⟨hlt, j, e⟩
  split
  · rename_i inside
    refine ⟨⟨(_, zone), List.mem_map_of_mem ((mem_runOfPoints hp).mpr ⟨k, isPoint, inside⟩), rfl⟩, reached,
      fun q hq hle => ?_⟩
    obtain ⟨_, j, e⟩ := points q hq
    rw [e] at hle ⊢
    exact least j hle
  · rename_i outside
    intro q hq
    obtain ⟨hlt, j, e⟩ := points q hq
    refine Nat.not_le.mp fun hle => ?_
    have := least j (e ▸ hle)
    omega

/-! ## The points of a normal pass (R23, R24) -/

section
variable (h : Head) (index : Nat)

theorem phase_eq (z : Zone) (index : Nat) :
    z.phase index = if z.interleave = true ∧ index % 2 = 1 then z.pitch / 2 else 0 := by
  unfold Zone.phase
  exact if_congr (by simp) rfl rfl

/-- The points of zones that begin at `base`, the first of them zone `first`. -/
theorem mem_normalPoints (zones : List Zone) (first base offset zone : Nat) (hp : ∀ z ∈ zones, 1 ≤ z.pitch) :
    (offset, zone) ∈ normalPoints h index zones first base ↔
      ∃ i z, zone = first + i ∧ zones[i]? = some z ∧ z.mask.get h = true
        ∧ ∃ k, z.phase index + k * z.pitch < z.length
          ∧ offset = base + zonesLength (zones.take i) + z.phase index + k * z.pitch := by
  induction zones generalizing first base with
  | nil => simp [normalPoints]
  | cons x xs ih =>
    have here : (offset, zone) ∈ (if x.mask.get h then
          (runOfPoints (base + x.phase index) x.pitch (base + x.length)).map (·, first) else []) ↔
        zone = first ∧ x.mask.get h = true ∧ ∃ k, x.phase index + k * x.pitch < x.length
          ∧ offset = base + x.phase index + k * x.pitch := by
      split
      · rename_i named
        simp only [List.mem_map, mem_runOfPoints (hp x List.mem_cons_self), Prod.mk.injEq, named, true_and]
        constructor
        · rintro ⟨_, ⟨k, rfl, hlt⟩, rfl, rfl⟩
          exact ⟨rfl, k, by omega, rfl⟩
        · rintro ⟨rfl, k, hlt, rfl⟩
          exact ⟨_, ⟨k, rfl, by omega⟩, rfl, rfl⟩
      · rename_i unnamed
        simp [unnamed]
    rw [normalPoints, List.mem_append, here, ih (first + 1) (base + x.length)
      fun z hz => hp z (List.mem_cons_of_mem _ hz)]
    constructor
    · rintro (⟨rfl, named, k, hlt, rfl⟩ | ⟨i, z, rfl, hz, named, k, hlt, rfl⟩)
      · exact ⟨0, x, rfl, rfl, named, k, hlt, by simp [zonesLength]⟩
      · exact ⟨i + 1, z, by omega, hz, named, k, hlt, by simp only [List.take_succ_cons, zonesLength]; omega⟩
    · rintro ⟨i, z, rfl, hz, named, k, hlt, rfl⟩
      cases i with
      | zero =>
        cases hz
        exact .inl ⟨rfl, named, k, hlt, by simp [zonesLength]⟩
      | succ i =>
        exact .inr ⟨i, z, by omega, hz, named, k, hlt, by simp only [List.take_succ_cons, zonesLength]; omega⟩

theorem firstNormalFrom_least (zones : List Zone) (first base offset : Nat) (hp : ∀ z ∈ zones, 1 ≤ z.pitch) :
    LeastFrom offset (normalPoints h index zones first base) (firstNormalFrom h index zones base offset) := by
  induction zones generalizing first base with
  | nil => exact leastFrom_nil offset
  | cons x xs ih =>
    have later : ∀ z ∈ xs, 1 ≤ z.pitch := fun z hz => hp z (List.mem_cons_of_mem _ hz)
    have beyond : ∀ r ∈ normalPoints h index xs (first + 1) (base + x.length), base + x.length ≤ r.1 := by
      rintro ⟨o, zone⟩ hr
      obtain ⟨i, z, _, _, _, k, _, rfl⟩ := (mem_normalPoints h index xs _ _ o zone later).mp hr
      dsimp only
      omega
    rw [normalPoints, firstNormalFrom]
    cases named : x.mask.get h with
    | false => exact ih _ _ later
    | true =>
      have run := leastFrom_run (base + x.phase index) (base + x.length) first offset (hp x List.mem_cons_self)
      have joined := run.append (ih (first + 1) (base + x.length) later) fun q hq r hr => by
        obtain ⟨y, hy, rfl⟩ := List.mem_map.mp hq
        obtain ⟨_, _, hlt⟩ := (mem_runOfPoints (hp x List.mem_cons_self)).mp hy
        exact hlt.le.trans (beyond r hr)
      simpa using joined

end

/-! ## The points of a revisit pass (R33) -/

theorem one_le_pitchOf {t : ZoneTable} (hp : ∀ z ∈ t.zones, 1 ≤ z.pitch) (zone : Nat) : 1 ≤ t.pitchOf zone := by
  unfold ZoneTable.pitchOf
  cases hz : t.zones[zone]? with
  | none => exact le_rfl
  | some z => exact hp z (List.mem_of_getElem? hz)

/-- The entries of a head are in ascending order, without overlap. -/
def EntriesAscend (cpr : Nat) (t : ZoneTable) (h : Head) (l : List Entry) : Prop :=
  l.Pairwise fun a b => a.head = h → b.head = h →
    windowOffset cpr t.start a.last < windowOffset cpr t.start b.first

section
variable (cpr : Nat) (t : ZoneTable) (h : Head) (hp : ∀ z ∈ t.zones, 1 ≤ z.pitch)

include hp in
/-- A revisit point lies at or after the first point of one of the head's entries. -/
theorem revisitPoints_from (l : List Entry) {q : Nat × Nat} (hq : q ∈ revisitPoints cpr t h l) :
    ∃ e ∈ l, e.head = h ∧ windowOffset cpr t.start e.first ≤ q.1 := by
  induction l with
  | nil => cases hq
  | cons x xs ih =>
    rw [revisitPoints, List.mem_append] at hq
    rcases hq with hq | hq
    · split at hq
      · obtain ⟨y, hy, rfl⟩ := List.mem_map.mp hq
        obtain ⟨k, rfl, _⟩ := (mem_runOfPoints (one_le_pitchOf hp _)).mp hy
        exact ⟨x, List.mem_cons_self, ‹_›, Nat.le_add_right _ _⟩
      · cases hq
    · obtain ⟨e, he, isHead, hle⟩ := ih hq
      exact ⟨e, List.mem_cons_of_mem _ he, isHead, hle⟩

include hp in
theorem firstRevisitFrom_least (l : List Entry) (offset : Nat) (ascend : EntriesAscend cpr t h l) :
    LeastFrom offset (revisitPoints cpr t h l) (firstRevisitFrom cpr t h l offset) := by
  induction l with
  | nil => exact leastFrom_nil offset
  | cons x xs ih =>
    obtain ⟨before, later⟩ := List.pairwise_cons.mp ascend
    rw [revisitPoints, firstRevisitFrom]
    by_cases isHead : x.head = h
    · have pitch := one_le_pitchOf hp x.zone
      have run := leastFrom_run (windowOffset cpr t.start x.first) (windowOffset cpr t.start x.last + 1) x.zone offset
        pitch
      rw [if_pos isHead]
      have joined := run.append (ih later) fun q hq r hr => by
        obtain ⟨y, hy, rfl⟩ := List.mem_map.mp hq
        obtain ⟨_, _, hlt⟩ := (mem_runOfPoints pitch).mp hy
        obtain ⟨e, he, eHead, hle⟩ := revisitPoints_from cpr t h hp xs hr
        have := before e he isHead eHead
        dsimp only
        omega
      simpa [isHead, Nat.lt_succ_iff] using joined
    · rw [if_neg isHead, if_neg fun both => isHead both.1, List.nil_append]
      exact ih later

include hp in
/-- The first point of a scan pass at or after an offset is the least of the pass's points there. -/
theorem firstScanPoint_least (l : List Entry) (pass : PassId) (offset : Nat) (ascend : EntriesAscend cpr t h l) :
    LeastFrom offset (scanPoints cpr t l h pass) (firstScanPoint cpr t l h pass offset) := by
  unfold scanPoints firstScanPoint
  cases pass.kind with
  | normal => exact firstNormalFrom_least h pass.index t.zones 0 0 offset hp
  | revisit => exact firstRevisitFrom_least cpr t h hp l offset ascend
  | reference => exact leastFrom_nil offset

end

/-! ## The zone of an offset (R19) -/

theorem zoneIndexFrom_eq (zones : List Zone) (first i offset : Nat) {z : Zone} (hz : zones[i]? = some z)
    (above : zonesLength (zones.take i) ≤ offset) (below : offset < zonesLength (zones.take i) + z.length) :
    zoneIndexFrom zones first offset = some (first + i) := by
  induction zones generalizing first i offset with
  | nil => cases hz
  | cons x xs ih =>
    rw [zoneIndexFrom]
    cases i with
    | zero =>
      cases hz
      rw [if_pos (by simpa [zonesLength] using below), Nat.add_zero]
    | succ i =>
      simp only [List.take_succ_cons, zonesLength] at above below
      rw [if_neg (by omega), ih (first + 1) i (offset - x.length) hz (by omega) (by omega)]
      congr 1
      omega

theorem zoneAt_eq {t : ZoneTable} {i offset : Nat} {z : Zone} (hz : t.zones[i]? = some z)
    (above : zonesLength (t.zones.take i) ≤ offset) (below : offset < zonesLength (t.zones.take i) + z.length) :
    t.zoneAt offset = some i := by
  unfold ZoneTable.zoneAt
  rw [zoneIndexFrom_eq t.zones 0 i offset hz above below, Nat.zero_add]

/-! ## Offsets of a seen angle (R22) -/

/-- A window-relative offset is the difference of the angles, modulo CPR. -/
theorem windowOffset_eq {cpr : Nat} (hc : 1 ≤ cpr) (start a : Nat) :
    windowOffset cpr start a = (((a : Int) - start) % cpr).toNat := by
  have e : ((windowOffset cpr start a : Nat) : Int) = ((a : Int) - start) % cpr := by
    unfold windowOffset
    have le : start % cpr ≤ cpr := (Nat.mod_lt _ hc).le
    push_cast [Nat.cast_sub le]
    rw [show (a : Int) + (cpr - start % cpr) = a - start % cpr + cpr by ring, Int.add_emod_right, Int.sub_emod_emod]
  rw [← e, Int.toNat_natCast]

/-- The offset of a seen angle in a window. -/
theorem windowOffset_seenAngle {cpr : Nat} (hc : 1 ≤ cpr) (start mount blade : Nat) :
    windowOffset cpr start (seenAngle cpr mount blade)
      = (((((blade : Int) - mount) % cpr) - start) % cpr).toNat := by
  rw [windowOffset_eq hc, seenAngle, windowOffset_eq hc,
    Int.toNat_of_nonneg (Int.emod_nonneg _ (by omega))]

end Sys2Proof.Machine
end

section
/-! Scan passes (02.4 to 02.6): points due, motion, zone entries, pass starts and pass ends. -/

namespace Sys2Proof.Machine

/-! ## One head's part set twice -/

@[simp] theorem set_set {α : Type} (p : PerHead α) (h : Head) (x y : α) : (p.set h x).set h y = p.set h y := by
  cases h <;> rfl

section
variable (s : State) (h : Head) (f g : PassRecord → PassRecord)

@[simp] theorem onScan_scan : (s.onScan h f).scan h = f (s.scan h) := by
  simp [State.onScan, State.scan]

theorem onScan_onScan : (s.onScan h f).onScan h g = s.onScan h fun r => g (f r) := by
  simp [State.onScan, State.onPasses]

@[simp] theorem onScan_cpr : (s.onScan h f).cpr = s.cpr := rfl

@[simp] theorem onQual_scan (q : HeadQual → HeadQual) : (s.onQual h q).scan h = s.scan h := rfl

@[simp] theorem onQual_cpr (q : HeadQual → HeadQual) : (s.onQual h q).cpr = s.cpr := rfl

end

/-! ## Points due (R28, R29, R48) -/

section
variable (s : State) (h : Head) (zone : Nat) (r : Request)

theorem canIssue_iff (p : Port) (burst : Nat) :
    p.canIssue burst = true ↔ p.state = .ready ∧ burst ≤ 8 - p.inFlight.length := by
  unfold Port.canIssue Port.freeEntries
  rw [Bool.and_eq_true, beq_iff_eq, decide_eq_true_iff]
  rfl

/-- A burst of at least one exposure can be issued where the head is READY with room for the whole of it. -/
theorem canIssue_iff_room (p : Port) {burst : Nat} (hb : 1 ≤ burst) :
    p.canIssue burst = true ↔ p.state = .ready ∧ p.inFlight.length + burst ≤ 8 := by
  rw [canIssue_iff]
  exact and_congr_right fun _ => by omega

theorem yieldsCandidate_iff (pass : PassId) :
    s.yieldsCandidate pass zone = true ↔ pass.kind = .revisit ∨ (pass.kind = .normal ∧ pass.index + 1 = s.revolutions
      ∧ ∃ z, s.zone zone = some z ∧ z.revisit = true) := by
  unfold State.yieldsCandidate State.finalPass
  cases s.zone zone <;> simp [and_assoc]

theorem scanPointDue_issued (room : (s.ports.get h).canIssue r.burst = true) :
    scanPointDue h zone r s = pulse h .triggerIssued
      ((s.onPort h fun p => p.issue r s.xe.time).onCounts fun c => { c with issued := c.issued + 1 }) := if_pos room

theorem scanPointDue_skipped (blocked : ¬(s.ports.get h).canIssue r.burst = true) :
    scanPointDue h zone r s = if s.yieldsCandidate r.pass zone then
        candidate h zone r.point .ofBusy (s.onCounts fun c => { c with skipped := c.skipped + 1 })
      else s.onCounts fun c => { c with skipped := c.skipped + 1 } := if_neg blocked

/-- One candidate changes the next list, the counts of created and lost ones, and sets notices. -/
theorem candidate_only (point : Nat) (reasons : Reasons) :
    ∃ next created lost raw, candidate h zone point reasons s = { s with
        ru := { s.ru with next := next }
        oe := { s.oe with counts := { s.oe.counts with created := created, lost := lost } }
        xe := { s.xe with noteRaw := raw } } := by
  obtain ⟨next, created, lost, raw, e, _⟩ := candidates_only h reasons [(point, zone)] s
  exact ⟨next, created, lost, raw, e⟩

/-- A due point leaves the Trigger Generator. -/
@[simp] theorem scanPointDue_tg : (scanPointDue h zone r s).tg = s.tg := by
  by_cases room : (s.ports.get h).canIssue r.burst = true
  · rw [scanPointDue_issued s h zone r room]
    rfl
  · rw [scanPointDue_skipped s h zone r room]
    split
    · obtain ⟨_, _, _, _, e⟩ := candidate_only (s.onCounts fun c => { c with skipped := c.skipped + 1 }) h zone
        r.point .ofBusy
      rw [e]
      rfl
    · rfl

end

@[simp] theorem scanPointDue_scan (s : State) (h k : Head) (zone : Nat) (r : Request) :
    (scanPointDue h zone r s).scan k = s.scan k := by
  unfold State.scan
  rw [scanPointDue_tg]

/-! ## Zone entries (R32, R66) -/

/-- The Qualifier's part of a head after its record's zone has become `k`, of class `new` on the record's pass: where
that is another zone, the class in use is the new one, and the blank count is loaded where the class changes (R66). -/
def State.enteredQual (s : State) (t : ZoneTable) (h : Head) (k : Nat) (new : ExpClass) : HeadQual :=
  let q := s.qu.heads.get h
  let left : Option ExpClass := match (s.scan h).zone.bind (t.zones[·]?) with
    | some x => some (x.classOn (s.scan h).pass)
    | none => q.classInUse
  if (s.scan h).zone = some k then q
  else { q with
    blank := if left = none ∨ left = some new then q.blank else ((s.ports.get h).config.map (·.blank)).getD 0
    classInUse := some new }

/-- The record's zone becomes `k`, and the Qualifier takes the entry. -/
theorem enterZone_eq (s : State) {t : ZoneTable} (h : Head) {k : Nat} {z : Zone} (hz : t.zones[k]? = some z) :
    enterZone t h k s = (s.onScan h fun r => { r with zone := some k }).onQual h fun _ =>
      s.enteredQual t h k (z.classOn (s.scan h).pass) := by
  unfold enterZone State.enteredQual
  dsimp only
  by_cases same : (s.scan h).zone = some k
  · rw [if_pos same, if_pos same]
    have kept : ({ s.scan h with zone := some k } : PassRecord) = s.scan h := by rw [← same]
    unfold State.onQual State.onScan State.onPasses
    rw [State.scan] at kept
    dsimp only
    rw [kept, set_get, set_get]
  · simp only [if_neg same, hz]
    unfold zoneEntry State.onQual
    dsimp only
    cases (s.scan h).zone.bind (t.zones[·]?) with
    | some x => simp
    | none => cases inUse : (s.qu.heads.get h).classInUse <;> simp [inUse]

/-! ## What an arrival does to a record in pass (R27, R32) -/

/-- The due point of a scan pass at a position in zone `j` of the table. -/
def State.scanRequest (s : State) (t : ZoneTable) (h : Head) (p j : Nat) (y : Zone) (rev : Rev) : Request :=
  { point := angleOf s.cpr t.start p, zone := some j, pass := (s.scan h).pass, step := s.stepOfPass, revolution := rev,
    expClass := y.classOn (s.scan h).pass, floor := y.floor, burst := y.burst }

section
variable (s : State) {t : ZoneTable} (h : Head) (p : Nat) (rev : Rev) {k : Nat} {z : Zone}

/-- At a position without the next trigger angle the record's zone follows its reach, and nothing else changes. -/
theorem actInScan_between (hk : t.zoneAt (s.scan h).reach = some k)
    (elsewhere : (s.scan h).nextTrigger ≠ some (angleOf s.cpr t.start p)) (hz : t.zones[k]? = some z) :
    actInScan t h p rev s = enterZone t h k s := by
  unfold actInScan
  simp only [hk, enterZone_eq s h hz]
  rw [if_neg (by simpa using elsewhere)]

/-- At the next trigger angle the point is due after the zone entry, and the next one is looked up. -/
theorem actInScan_at (hk : t.zoneAt (s.scan h).reach = some k) (hz : t.zones[k]? = some z) {j : Nat} {y : Zone}
    (trigger : (s.scan h).nextTrigger = some (angleOf s.cpr t.start p)) (hj : t.zoneAt p = some j)
    (hy : t.zones[j]? = some y) :
    actInScan t h p rev s = scanPointDue h j (s.scanRequest t h p j y rev)
      ((enterZone t h k s).onScan h fun r =>
        { r with nextTrigger := s.scanPointAt t h (s.scan h).pass (p + 1) }) := by
  unfold actInScan
  simp only [hk, enterZone_eq s h hz]
  rw [if_pos (by simpa using trigger)]
  simp only [hj, hy, State.scanRequest, onQual_scan, onScan_scan]
  rfl

/-- Whatever falls due, the record keeps its pass, position and reach, in the zone of the reach. -/
theorem actInScan_scan (hk : t.zoneAt (s.scan h).reach = some k) (hz : t.zones[k]? = some z) :
    ∃ next, (actInScan t h p rev s).scan h = { s.scan h with zone := some k, nextTrigger := next } := by
  unfold actInScan
  simp only [hk, enterZone_eq s h hz]
  split
  · refine ⟨s.scanPointAt t h (s.scan h).pass (p + 1), ?_⟩
    repeat' split
    all_goals
      simp only [scanPointDue_scan, onScan_scan, onQual_scan]
      rfl
  · exact ⟨(s.scan h).nextTrigger, by simp only [onQual_scan, onScan_scan]⟩

end

/-! ## Motion of a record in pass (R27) -/

section
variable (s : State) (t : ZoneTable) (h : Head) (offset : Nat) (rev : Rev)

theorem scanForward_inside {p : Nat} (state : (s.scan h).state = .inPass)
    (position : (s.scan h).position = some ((p : Int) - 1)) (inside : p < t.length) :
    scanForward t h offset rev s
      = actInScan t h p rev (s.onScan h fun r => { r with position := some (p : Int), reach := max r.reach p }) := by
  unfold scanForward
  simp only [state, position, Option.getD_some, Int.sub_add_cancel, Int.toNat_natCast]
  rw [if_neg (by omega), if_pos (by omega)]

theorem scanForward_atEnd (state : (s.scan h).state = .inPass)
    (position : (s.scan h).position = some ((t.length : Int) - 1)) :
    scanForward t h offset rev s
      = endScan t h rev (s.onScan h fun r =>
          { r with position := some (t.length : Int), reach := max r.reach t.length }) := by
  unfold scanForward
  simp only [state, position, Option.getD_some, Int.sub_add_cancel, Int.toNat_natCast, if_true]

theorem scanForward_waiting (state : (s.scan h).state = .waitingStart) :
    scanForward t h offset rev s = if offset = 0 then actInScan t h 0 rev (startScan t h s) else s := by
  unfold scanForward
  simp only [state]

end

/-! ## The start and the end of a pass (R26, R30, R155) -/

theorem offerGap_tg (h : Head) (s : State) : (offerGap h s).tg = s.tg := by
  obtain ⟨_, _, _, _, _, e⟩ := offerGap_onlyStaging h s
  rw [e]

@[simp] theorem offerGap_scan (h k : Head) (s : State) : (offerGap h s).scan k = s.scan k := by
  unfold State.scan
  rw [offerGap_tg]

theorem startScan_eq (t : ZoneTable) (h : Head) (s : State) : startScan t h s = s.onScan h fun r =>
    { r with state := .inPass, position := some 0, reach := 0, zone := none,
             nextTrigger := if r.withheld then none
               else (firstScanPoint s.cpr t s.ru.current h (s.scan h).pass 0).map (angleOf s.cpr t.start) } := rfl

section
variable (s : State) {t : ZoneTable} (h : Head) (rev : Rev) {z : Zone} {zs : List Zone}

/-- A pass starts in zone 0, at position and reach 0. -/
theorem actInScan_startScan (zones : t.zones = z :: zs) (length : 1 ≤ z.length) :
    ∃ next, (actInScan t h 0 rev (startScan t h s)).scan h = { s.scan h with
      state := .inPass, position := some 0, reach := 0, zone := some 0, nextTrigger := next } := by
  have first : t.zones[0]? = some z := by rw [zones]; rfl
  have inZone : t.zoneAt ((startScan t h s).scan h).reach = some 0 := by
    rw [startScan_eq, onScan_scan]
    refine zoneAt_eq first (Nat.zero_le _) ?_
    rw [List.take_zero, zonesLength, Nat.zero_add]
    exact length
  obtain ⟨next, e⟩ := actInScan_scan _ h 0 rev inZone first
  exact ⟨next, by rw [e, startScan_eq, onScan_scan]⟩

/-- The end of a pass that is not the last: the record awaits the next, or has started it in a FULL window. -/
theorem endScan_more (zones : t.zones = z :: zs) (length : 1 ≤ z.length)
    (more : (s.scan h).pass.kind = .normal ∧ (s.scan h).pass.index + 1 < (s.scan h).armed) :
    (t.full = false → (endScan t h rev s).scan h = (s.scan h).next)
    ∧ (t.full = true → ∃ next, (endScan t h rev s).scan h = { (s.scan h).next with
        state := .inPass, position := some 0, reach := 0, zone := some 0, nextTrigger := next }) := by
  unfold endScan
  simp only [offerGap_scan, if_pos more]
  refine ⟨fun full => by simp [full], fun full => ?_⟩
  obtain ⟨next, e⟩ := actInScan_startScan ((offerGap h s).onScan h PassRecord.next) h rev zones length
  exact ⟨next, by simpa [full] using e⟩

theorem endScan_last (last : ¬((s.scan h).pass.kind = .normal ∧ (s.scan h).pass.index + 1 < (s.scan h).armed)) :
    (endScan t h rev s).scan h = (s.scan h).finished := by
  unfold endScan
  simp [if_neg last]

/-- At the end of a pass the pending gap is offered before anything else. -/
theorem endScan_gap (t : ZoneTable) {g : PendingGap} (gap : (s.ports.get h).gap = some g)
    (idle : (s.ports.get h).gapWaits = false) (room : s.sb.staged.length < 1024) :
    s.sb.staged ++ [⟨.gap (g.record h), s.oe.activeTag⟩] <+: (endScan t h rev s).sb.staged := by
  have offered := offerGap_staged_room h s room
  simp only [gap, idle] at offered
  rw [← offered]
  unfold endScan
  dsimp only
  split
  · split
    · exact (actInScan_onward t h 0 rev (startScan_onward t h (onScan_onward h _ (Onward.refl _)))).staged
    · exact ⟨[], List.append_nil _⟩
  · exact ⟨[], List.append_nil _⟩

end

/-! ## One arrival at the heads (R22, R27) -/

/-- A backward arrival changes the records in pass alone, of every head. -/
theorem angleArrival_backward (blade : Nat) (rev : Rev) (s : State) :
    angleArrival false blade rev s = { s with tg := { s.tg with heads := s.tg.heads.map fun p =>
      { p with scan := p.scan.backward, ref := p.ref.backward } } } := rfl

theorem backward_eq (r : PassRecord) :
    r.backward = if r.state = .inPass then { r with position := some (r.position.getD 0 - 1) } else r := by
  unfold PassRecord.backward
  cases h : r.state <;> rfl

theorem filter_all_length_le_one (p : Head → Bool) (one : ∀ h k, p h = true → p k = true → h = k) :
    (Head.all.filter p).length ≤ 1 := by
  have distinct : (Head.all.filter p).Nodup := List.Nodup.filter p (by decide)
  refine Nat.not_lt.mp fun two => ?_
  have mem : ∀ i (hi : i < (Head.all.filter p).length), p (Head.all.filter p)[i] = true := fun i hi =>
    (List.mem_filter.mp (List.getElem_mem hi)).2
  have same := one _ _ (mem 0 (by omega)) (mem 1 two)
  exact absurd ((distinct.getElem_inj_iff).mp same) (by omega)

/-- Where the order can be seen for one head at most, an operation for every head is one in some order of the heads,
without a free choice. -/
theorem forHeadsFree_one (p : Head → Bool) (f : Head → State → State) (s : State)
    (one : ∀ h k, p h = true → p k = true → h = k) :
    ∃ hs : List Head, hs.Perm Head.all ∧ forHeadsFree p f s = hs.foldl (fun u h => f h u) s := by
  refine ⟨(Head.all.filter fun h => !p h) ++ Head.all.filter p,
    List.perm_append_comm.trans (List.filter_append_perm p Head.all), ?_⟩
  rw [List.foldl_append]
  unfold forHeadsFree
  have short := filter_all_length_le_one p one
  match Head.all.filter p, short with
  | [], _ => rfl
  | [x], _ => rfl

theorem Onward.cpr {s t : State} (onward : Onward s t) : t.cpr = s.cpr := by
  unfold State.cpr
  rw [onward.tracker]

/-- The two records of a head take an arrival at their offsets, the scan record first. -/
theorem headForward_eq (s : State) (blade : Nat) (rev : Rev) (h : Head) {t : ZoneTable} {c : RefConfig}
    (zones : s.tg.zones = some t) (config : s.rc.config = some c) :
    headForward blade rev h s
      = refForward c h (windowOffset s.cpr c.start (seenAngle s.cpr (s.mount h) blade)) rev
          (scanForward t h (windowOffset s.cpr t.start (seenAngle s.cpr (s.mount h) blade)) rev s) := by
  have onward := scanForward_onward t h (windowOffset s.cpr t.start (seenAngle s.cpr (s.mount h) blade)) rev
    (Onward.refl s)
  unfold headForward
  simp only [zones, onward.reference, config, onward.cpr]

end Sys2Proof.Machine
end

section
/-! Withheld points and the GAP records that cover them (R35, R37, R155, R156). -/

namespace Sys2Proof.Machine

/-! ## Pending gaps offered -/

/-- The record of a head's pending gap that does not wait yet. -/
def State.gapRecords (s : State) (h : Head) : List Staged :=
  match (s.ports.get h).gap, (s.ports.get h).gapWaits with
  | some g, false => [⟨.gap (g.record h), s.oe.activeTag⟩]
  | _, _ => []

theorem gapRecords_length (s : State) (h : Head) : (s.gapRecords h).length ≤ 1 := by
  unfold State.gapRecords
  split <;> simp

theorem offerGap_staged_gapRecords (h : Head) (s : State) (room : s.sb.staged.length < 1024) :
    (offerGap h s).sb.staged = s.sb.staged ++ s.gapRecords h := offerGap_staged_room h s room

/-- A pending gap offered to a full buffer joins no record. -/
theorem offerGap_full (h : Head) (s : State) (full : 1024 ≤ s.sb.staged.length) : (offerGap h s).sb = s.sb := by
  unfold offerGap
  split
  · rfl
  · rename_i g _
    rw [hasRoom_full (.gap (g.record h)) s rfl full, if_neg Bool.false_ne_true]
    split <;> rfl

/-- A pending gap offered changes the head's gap alone in its port. -/
theorem offerGap_ports (h : Head) (s : State) :
    ∃ gap waits, (offerGap h s).ports = s.ports.set h { s.ports.get h with gap := gap, gapWaits := waits } := by
  unfold offerGap takeGap
  repeat' split
  · exact ⟨_, _, (set_get s.ports h).symm⟩
  · exact ⟨_, _, (set_get s.ports h).symm⟩
  · exact ⟨none, false, takeRecord_ports _ _⟩
  · exact ⟨_, true, rfl⟩

theorem offerGap_heldSuspended (h : Head) (s : State) :
    ((offerGap h s).ports.get h).heldSuspended = (s.ports.get h).heldSuspended := by
  obtain ⟨_, _, e⟩ := offerGap_ports h s
  rw [e, get_set_same]

/-! ## Points handed over (R35 to R37) -/

/-- The GAP record that covers the points from `first` to `last` of one pass. -/
def withheldGap (h : Head) (reason : GapReason) (step : Nat) (pass : PassId) (first last count : Nat) : GapRecord :=
  { head := h, reason := reason, step := step, zone := 0, firstPass := pass, lastPass := pass, causes := .none,
    attempts := 0, first := first, last := last, count := count }

section
variable (h : Head) (reason : GapReason) (reasons : Reasons) (pass : PassId) (ps : List (Nat × Nat)) (s : State)

theorem handWithheld_nil : handWithheld h reason reasons pass [] s = s := rfl

theorem handWithheld_ends {a b : Nat × Nat} (ha : ps.head? = some a) (hb : ps.getLast? = some b) :
    handWithheld h reason reasons pass ps s
      = offerPortRecord h (withheldGap h reason s.oe.stepIndex pass a.1 b.1 ps.length)
          (offerGap h (candidates h reasons (ps.filter fun p => s.yieldsCandidate pass p.2) s)) := by
  unfold handWithheld withheldRecord
  rw [ha, hb]
  rfl

/-- Points handed over leave the pass records. -/
theorem handWithheld_tg : (handWithheld h reason reasons pass ps s).tg = s.tg := by
  obtain ⟨_, _, _, _, _, e⟩ := handWithheld_only h reason reasons pass ps s
  obtain ⟨_, _, _, _, c, _⟩ := candidates_only h reasons (ps.filter fun p => s.yieldsCandidate pass p.2) s
  rw [e, c]

end

section
variable (h : Head) (reasons : Reasons) (l : List (Nat × Nat)) (s : State)

/-- Candidates leave what a GAP record's staging depends on: the buffer, the ports and the order's tag. -/
theorem candidates_staging : (candidates h reasons l s).sb = s.sb ∧ (candidates h reasons l s).ports = s.ports
    ∧ (candidates h reasons l s).oe.activeTag = s.oe.activeTag
    ∧ (candidates h reasons l s).gapRecords h = s.gapRecords h := by
  obtain ⟨_, _, _, _, e, _⟩ := candidates_only h reasons l s
  rw [e]
  exact ⟨rfl, rfl, rfl, rfl⟩

/-- With room for two records and none held, a SUSPENDED record is staged after the head's pending gap. -/
theorem offerSuspended_room (x : GapRecord) (suspended : x.reason = .suspended) (room : s.sb.staged.length ≤ 1022)
    (unheld : (s.ports.get h).heldSuspended = none) :
    (offerPortRecord h x (offerGap h s)).sb.staged
      = s.sb.staged ++ s.gapRecords h ++ [⟨.gap x, s.oe.activeTag⟩] := by
  have staged := offerGap_staged_gapRecords h s (by omega)
  have free : (offerGap h s).hasRoom (.gap x) = true := hasRoom_other (.gap x) _ rfl (by
    rw [staged, List.length_append]
    have := gapRecords_length s h
    omega)
  have holds : ((offerGap h s).ports.get h).holds x = false := by
    rw [Port.holds, suspended]
    dsimp only
    rw [offerGap_heldSuspended, unheld]
    rfl
  unfold offerPortRecord
  rw [holds, free, Bool.not_false, Bool.and_self, if_pos rfl, takeRecord_room _ _ free, staged,
    (offerGap_steady h (Steady.refl s)).activeTag]

/-- With a full buffer a SUSPENDED record is held by the port, or extends the one held (R156). -/
theorem offerSuspended_full (x : GapRecord) (suspended : x.reason = .suspended) (full : 1024 ≤ s.sb.staged.length) :
    (offerPortRecord h x (offerGap h s)).sb.staged = s.sb.staged
    ∧ ((offerPortRecord h x (offerGap h s)).ports.get h).heldSuspended
      = some (((s.ports.get h).heldSuspended.map (·.merged x)).getD x) := by
  have same := offerGap_full h s full
  have noRoom : (offerGap h s).hasRoom (.gap x) = false := hasRoom_full (.gap x) _ rfl (by rw [same]; exact full)
  unfold offerPortRecord
  rw [noRoom, Bool.false_and, if_neg Bool.false_ne_true]
  refine ⟨congrArg _ same, ?_⟩
  rw [onPort_ports, get_set_same, Port.hold, suspended]
  dsimp only
  rw [offerGap_heldSuspended]

end

/-! ## A suspension (R35) -/

section
variable (s : State) (h : Head) {t : ZoneTable}

theorem suspendScan_eq (zones : s.tg.zones = some t)
    (armed : (s.scan h).state = .inPass ∨ (s.scan h).state = .waitingStart) :
    suspendScan h s = handWithheld h .suspended .ofSuspended (s.scan h).pass (s.bladePoints t (s.suspendedPoints t h))
      (s.onScan h fun r => { r with withheld := true, nextTrigger := none }) := by
  unfold suspendScan
  rcases armed with e | e <;> simp only [zones, e]

theorem suspendScan_disarmed (state : (s.scan h).state = .notArmed ∨ (s.scan h).state = .done) :
    suspendScan h s = s := by
  unfold suspendScan
  rcases state with e | e <;> cases s.tg.zones <;> simp only [e]

end

end Sys2Proof.Machine
end

section
/-! Reference passages (02.7, 06.3): motion, points due, outcomes, and the ends without a verdict. -/

namespace Sys2Proof.Machine

/-! ## One head's reference record -/

section
variable (s : State) (h : Head) (f g : PassRecord → PassRecord)

@[simp] theorem onRef_ref : (s.onRef h f).ref h = f (s.ref h) := by
  simp [State.onRef, State.ref]

theorem onRef_onRef : (s.onRef h f).onRef h g = s.onRef h fun r => g (f r) := by
  simp [State.onRef, State.onPasses]

theorem onRef_passes : (s.onRef h f).tg.heads.get h = { s.tg.heads.get h with ref := f (s.ref h) } := by
  simp [State.onRef, State.ref]

end

/-! ## Motion and points due (R27, R34) -/

/-- The reference point looked up after a position, as a blade angle. -/
theorem refPointAt_next (s : State) (c : RefConfig) (p : Nat) (hp : 1 ≤ c.pitch) :
    (s.refPointAt c (p + 1) = none ∧ ∀ k : Nat, k * c.pitch < c.length → k * c.pitch ≤ p)
    ∨ ∃ k : Nat, s.refPointAt c (p + 1) = some (angleOf s.cpr c.start (k * c.pitch)) ∧ p < k * c.pitch
        ∧ k * c.pitch < c.length ∧ ∀ j : Nat, p < j * c.pitch → k * c.pitch ≤ j * c.pitch := by
  unfold State.refPointAt
  rcases firstReferencePoint_next c p hp with ⟨e, last⟩ | ⟨k, e, next⟩
  · exact .inl ⟨by rw [e]; rfl, last⟩
  · exact .inr ⟨k, by rw [e]; rfl, next⟩

/-- The due point of a passage at a position. -/
def State.refRequest (s : State) (c : RefConfig) (h : Head) (p : Nat) (rev : Rev) : Request :=
  { point := angleOf s.cpr c.start p, zone := none, pass := (s.ref h).pass, step := s.stepOfPass, revolution := rev,
    expClass := 0, floor := c.floor, burst := 1 }

section
variable (s : State) (c : RefConfig) (h : Head) (offset p : Nat) (rev : Rev)

theorem actInRef_between (elsewhere : (s.ref h).nextTrigger ≠ some (angleOf s.cpr c.start p)) :
    actInRef c h p rev s = s := if_neg elsewhere

theorem actInRef_at (trigger : (s.ref h).nextTrigger = some (angleOf s.cpr c.start p)) :
    actInRef c h p rev s = refPointDue h (s.refRequest c h p rev)
      (s.onRef h fun r => { r with nextTrigger := s.refPointAt c (p + 1) }) := if_pos trigger

theorem refForward_stopped (state : (s.ref h).state = .notArmed ∨ (s.ref h).state = .done) :
    refForward c h offset rev s = s := by
  unfold refForward
  rcases state with e | e <;> simp only [e]

theorem refForward_waiting (state : (s.ref h).state = .waitingStart) :
    refForward c h offset rev s = if offset = 0 then actInRef c h 0 rev (startRef c h s) else s := by
  unfold refForward
  simp only [state]

/-- The passage starts with its point at 0 as the next, and takes the arrival at it. -/
theorem actInRef_startRef (length : 1 ≤ c.length) :
    actInRef c h 0 rev (startRef c h s) = refPointDue h (s.refRequest c h 0 rev)
      (s.onRef h fun r => { r with
        state := .inPass, position := some 0, reach := 0, nextTrigger := s.refPointAt c 1 }) := by
  have first : s.refPointAt c 0 = some (angleOf s.cpr c.start 0) := by
    unfold State.refPointAt firstReferencePoint nextInRun
    simp [Nat.lt_of_lt_of_le Nat.zero_lt_one length]
  have trigger : ((startRef c h s).ref h).nextTrigger = some (angleOf (startRef c h s).cpr c.start 0) := by
    unfold startRef
    rw [onRef_ref, first]
    rfl
  rw [actInRef_at _ c h 0 rev trigger]
  unfold startRef State.refRequest
  rw [onRef_onRef, onRef_ref]
  rfl

theorem refForward_moved {q : Int} (state : (s.ref h).state = .inPass)
    (position : (s.ref h).position = some (q - 1)) : refForward c h offset rev s =
    let u := s.onRef h fun r => { r with position := some q, reach := max r.reach q.toNat }
    if q = (c.length : Int) then endRef h u else if 0 ≤ q then actInRef c h q.toNat rev u else u := by
  unfold refForward
  simp only [state, position, Option.getD_some, Int.sub_add_cancel]

theorem endRef_closed (closed : (s.rc.heads.get h).passage ≠ .opened) :
    endRef h s = s.onRef h PassRecord.finished := by
  unfold endRef State.onHeadRef
  dsimp only [onRef_rc]
  rw [if_neg closed, set_get]
  rfl

/-- The passage's end, taken by an OPEN passage with the points issued and skipped. -/
theorem endRef_opened (opened : (s.rc.heads.get h).passage = .opened) :
    endRef h s = { s.onRef h PassRecord.finished with
      rc := { s.rc with heads := s.rc.heads.set h { s.rc.heads.get h with
        endTaken := true
        tally := { (s.rc.heads.get h).tally with
          triggers := (s.tg.heads.get h).refIssued + (s.tg.heads.get h).refSkipped } } } } := by
  unfold endRef State.onHeadRef
  dsimp only [onRef_rc]
  rw [if_pos opened]

end

/-! ## A reference point due (R28, R29, R48) -/

section
variable (s : State) (h : Head) (r : Request)

theorem refPointDue_issued (room : (s.ports.get h).canIssue r.burst = true) :
    refPointDue h r s = pulse h .triggerIssued
      ((s.onPort h fun p => p.issue r s.xe.time).onPasses h fun p => { p with refIssued := p.refIssued + 1 }) :=
  if_pos room

theorem refPointDue_skipped (blocked : ¬(s.ports.get h).canIssue r.burst = true) :
    refPointDue h r s = s.onPasses h fun p => { p with refSkipped := p.refSkipped + 1 } := if_neg blocked

/-- A burst of one is one message and one entry. -/
theorem issue_one (p : Port) (now : Time) (one : r.burst = 1) : p.issue r now = { p with
    sent := p.sent ++ [.trigger p.seqCounter r.expClass]
    seqCounter := p.seqCounter + 1
    inFlight := p.inFlight ++ [r.entry p.seqCounter 1 now p.timeoutInForce] } := by
  unfold Port.issue Port.send
  rw [one]
  simp

end

/-! ## A REFERENCE outcome (R82, R103) -/

theorem referenceOutcome_eq (h : Head) (good : Bool) (value : Int) (s : State) : referenceOutcome h good value s
    = { s with rc := if (s.rc.heads.get h).passage = .opened ∧ good = true then
          { s.rc with heads := s.rc.heads.set h { s.rc.heads.get h with tally := { (s.rc.heads.get h).tally with
            good := (s.rc.heads.get h).tally.good + 1, sum := (s.rc.heads.get h).tally.sum + value } } }
        else s.rc } := by
  unfold referenceOutcome State.onHeadRef
  dsimp only
  split
  · rfl
  · rw [set_get]

theorem isGood_iff (c : RejectCause) : (!(c != .none)) = true ↔ c = .none := by cases c <;> decide

/-- A REFERENCE outcome is a pulse, and a good one in an OPEN passage counts in its tally. -/
theorem qualify_reference (s : State) (h : Head) (e : InFlight) (xs : List Exposure) (kind : e.pass.kind = .reference) :
    ∃ sig, qualify h e xs s = { pulse h sig s with
      rc := if (s.rc.heads.get h).passage = .opened ∧ judge (chosenExposure xs) e.floor = .none then
          { s.rc with heads := s.rc.heads.set h { s.rc.heads.get h with tally := { (s.rc.heads.get h).tally with
            good := (s.rc.heads.get h).tally.good + 1
            sum := (s.rc.heads.get h).tally.sum
              + (s.qu.heads.get h).table.correct (chosenExposure xs).raw } } }
        else s.rc } := by
  refine ⟨if (judge (chosenExposure xs) e.floor != .none) = true then .outcomeBad else .outcomeGood, ?_⟩
  unfold qualify
  dsimp only
  rw [if_pos kind, referenceOutcome_eq]
  simp only [isGood_iff]
  rfl

end Sys2Proof.Machine
end

section
/-! Passages that end without a verdict (R34, R54, R104): at an exit from READY, and at the entry to CLOSING. -/

namespace Sys2Proof.Machine

/-! ## No REFERENCE record staged -/

/-- Every REFERENCE record staged in `t` was staged in `s`. -/
def NoVerdict (s t : State) : Prop := ∀ y ∈ t.sb.staged, ∀ z, y.record = .reference z → y ∈ s.sb.staged

section
variable {b s t : State}

theorem NoVerdict.same (sb : t.sb = s.sb) : NoVerdict s t := fun _ hy _ _ => sb ▸ hy

theorem NoVerdict.trans (h : NoVerdict b s) (k : NoVerdict s t) : NoVerdict b t :=
  fun y hy z e => h y (k y hy z e) z e

theorem NoVerdict.added {r : Record} {tag : Word} (other : ∀ z, r ≠ .reference z)
    (staged : t.sb.staged = s.sb.staged ++ [⟨r, tag⟩]) : NoVerdict s t := by
  intro y hy z e
  rw [staged, List.mem_append, List.mem_singleton] at hy
  rcases hy with hy | rfl
  · exact hy
  · exact absurd e (other z)

end

section
variable (s : State)

theorem takeRecord_noVerdict {r : Record} (other : ∀ z, r ≠ .reference z) : NoVerdict s (takeRecord r s) := by
  unfold takeRecord
  split
  · exact .added other (joinRecord_staged r s)
  · exact .same rfl

theorem offerGap_noVerdict (h : Head) : NoVerdict s (offerGap h s) := by
  rcases offerGap_staged h s with e | ⟨g, tag, e⟩
  · exact fun _ hy _ _ => e ▸ hy
  · exact .added (r := .gap g) nofun e

theorem offerPortRecord_noVerdict (h : Head) (r : GapRecord) : NoVerdict s (offerPortRecord h r s) := by
  unfold offerPortRecord
  split
  · exact takeRecord_noVerdict s nofun
  · exact .same rfl

theorem handWithheld_noVerdict (h : Head) (reason : GapReason) (reasons : Reasons) (pass : PassId)
    (ps : List (Nat × Nat)) : NoVerdict s (handWithheld h reason reasons pass ps s) := by
  have handed := NoVerdict.same (candidates_staging h reasons (ps.filter fun p => s.yieldsCandidate pass p.2) s).1
  unfold handWithheld
  dsimp only
  split
  · exact handed
  · exact handed.trans ((offerGap_noVerdict _ h).trans (offerPortRecord_noVerdict _ h _))

theorem groupsRemoved_noVerdict (h : Head) (gs : List InFlight) : NoVerdict s (groupsRemoved h gs s) := by
  unfold groupsRemoved
  split
  · exact offerGap_noVerdict s h
  · exact .same rfl

end

/-! ## What operations in a free order keep (log 6) -/

section
variable {α : Type} (P : State → Prop) (f : α → State → State)

theorem inFreeOrder_kept (kept : ∀ x s, P s → P (f x s)) (chosen : ∀ n s, P s → P (s.chosen n)) (n : Nat)
    (xs : List α) (s : State) (hs : P s) : P (inFreeOrder f n xs s) := by
  induction n generalizing xs s with
  | zero => exact hs
  | succ n ih =>
    unfold inFreeOrder
    split
    · exact hs
    · exact ih _ _ (kept _ _ (chosen _ _ hs))

/-- Each thing of the list has its turn: what its operation brings about, from what the others keep, and all of them
keep, holds at the end. -/
theorem inFreeOrder_made (I : State → Prop) (x : α) (made : ∀ s, I s → P (f x s)) (keptI : ∀ y s, I s → I (f y s))
    (kept : ∀ y s, P s → P (f y s)) (chosenI : ∀ n s, I s → I (s.chosen n)) (chosen : ∀ n s, P s → P (s.chosen n))
    (n : Nat) (xs : List α) (s : State) (len : xs.length = n) (mem : x ∈ xs) (hs : I s) :
    P (inFreeOrder f n xs s) := by
  induction n generalizing xs s with
  | zero => exact absurd mem (by rw [List.length_eq_zero_iff.mp len]; exact List.not_mem_nil)
  | succ n ih =>
    have lt : s.choice xs.length < xs.length := choice_lt s (by omega)
    unfold inFreeOrder
    simp only [List.getElem?_eq_getElem lt]
    by_cases turn : xs[s.choice xs.length] = x
    · rw [turn]
      exact inFreeOrder_kept P f kept chosen _ _ _ (made _ (chosenI _ _ hs))
    · refine ih _ _ (by rw [List.length_eraseIdx_of_lt lt, len, Nat.add_sub_cancel]) ?_ (keptI _ _ (chosenI _ _ hs))
      obtain ⟨i, hi, e⟩ := List.mem_iff_getElem.mp mem
      refine List.mem_eraseIdx_iff_getElem.mpr ⟨i, hi, fun same => turn ?_, e⟩
      subst same
      exact e

theorem foldl_kept (kept : ∀ x s, P s → P (f x s)) (xs : List α) (s : State) (hs : P s) :
    P (xs.foldl (fun s x => f x s) s) := by
  induction xs generalizing s with
  | nil => exact hs
  | cons x xs ih => exact ih _ (kept x s hs)

end

section
variable (P : State → Prop) (p : Head → Bool) (f : Head → State → State)

theorem forHeadsFree_kept (kept : ∀ h s, P s → P (f h s)) (chosen : ∀ n s, P s → P (s.chosen n)) (s : State)
    (hs : P s) : P (forHeadsFree p f s) :=
  inFreeOrder_kept P f kept chosen _ _ _ (foldl_kept P f kept _ s hs)

/-- Each head has its turn, whatever the order. -/
theorem forHeadsFree_made (I : State → Prop) (h : Head) (made : ∀ s, I s → P (f h s))
    (keptI : ∀ k s, I s → I (f k s)) (kept : ∀ k s, P s → P (f k s)) (chosenI : ∀ n s, I s → I (s.chosen n))
    (chosen : ∀ n s, P s → P (s.chosen n)) (s : State) (hs : I s) : P (forHeadsFree p f s) := by
  unfold forHeadsFree forFree
  by_cases free : p h = true
  · exact inFreeOrder_made P f I h made keptI kept chosenI chosen _ _ _ rfl
      (List.mem_filter.mpr ⟨mem_all h, free⟩) (foldl_kept I f keptI _ s hs)
  · have first : h ∈ Head.all.filter fun k => !p k := List.mem_filter.mpr ⟨mem_all h, by simpa using free⟩
    obtain ⟨before, after, e⟩ := List.append_of_mem first
    rw [e, List.foldl_append, List.foldl_cons]
    exact inFreeOrder_kept P f kept chosen _ _ _
      (foldl_kept P f kept _ _ (made _ (foldl_kept I f keptI _ s hs)))

end

/-! ## An open passage ended (R104) -/

/-- A head's reference state after its passage, if open, has ended without a verdict. -/
def HeadRef.ended (r : HeadRef) : HeadRef := if r.passage = .opened then r.passageIdle else r

@[simp] theorem ended_passageIdle (r : HeadRef) : r.passageIdle.ended = r.passageIdle := rfl

/-- The head's passage, open in `s`, has ended without a verdict in `u`: IDLE with its tally discarded and all else
as it stood, its record disarmed. -/
def PassageEnded (h : Head) (s u : State) : Prop :=
  (s.rc.heads.get h).passage = .opened →
    u.rc.heads.get h = (s.rc.heads.get h).passageIdle ∧ (u.ref h).state = .notArmed

/-- A head's reference state and record stand. -/
def PassageStands (h : Head) (s u : State) : Prop := u.rc.heads.get h = s.rc.heads.get h ∧ u.ref h = s.ref h

section
variable {h : Head} {b s t : State}

theorem PassageStands.same (rc : t.rc = s.rc) (tg : t.tg = s.tg) : PassageStands h s t :=
  ⟨by rw [rc], by unfold State.ref; rw [tg]⟩

theorem PassageStands.trans (k : PassageStands h b s) (l : PassageStands h s t) : PassageStands h b t :=
  ⟨l.1.trans k.1, l.2.trans k.2⟩

theorem OnlyStaging.passage (k : OnlyStaging s t) : PassageStands h s t := by
  obtain ⟨_, _, _, _, _, rfl⟩ := k
  exact ⟨rfl, rfl⟩

theorem PassageEnded.stands (k : PassageEnded h b s) (l : PassageStands h s t) : PassageEnded h b t := by
  intro opened
  rw [l.1, l.2]
  exact k opened

theorem PassageStands.ended (k : PassageStands h b s) (l : PassageEnded h s t) : PassageEnded h b t := by
  intro opened
  rw [← k.1] at opened ⊢
  exact l opened

end

section
variable (s : State) (h : Head)

theorem candidates_passage (k : Head) (reasons : Reasons) (l : List (Nat × Nat)) :
    PassageStands k s (candidates h reasons l s) := by
  obtain ⟨_, _, _, _, c, _⟩ := candidates_only h reasons l s
  rw [c]
  exact ⟨rfl, rfl⟩

theorem endPassage_closed (closed : (s.rc.heads.get h).passage ≠ .opened) : endPassage h s = s := if_neg closed

theorem endPassage_ended : PassageEnded h s (endPassage h s) := by
  intro opened
  unfold endPassage
  rw [if_pos opened]
  refine ⟨by simp [disarmRef], ?_⟩
  simp [disarmRef, State.ref, State.onRef, PassRecord.disarmed]

/-- The end of another head's passage leaves this one's, and its port. -/
theorem endPassage_other {k : Head} (other : h ≠ k) :
    PassageStands h s (endPassage k s) ∧ (endPassage k s).ports.get h = s.ports.get h := by
  unfold endPassage
  split
  · unfold disarmRef PassageStands State.ref State.onRef
    simp [get_set_other _ _ other]
  · exact ⟨⟨rfl, rfl⟩, rfl⟩

theorem endPassage_noVerdict : NoVerdict s (endPassage h s) := by
  unfold endPassage
  split <;> exact .same rfl

/-! ## Exits from READY (R54) -/

/-- An exit from READY ends the passage last: what comes before leaves the passages and the other heads' ports. -/
theorem leaveReady_cases (toFault : Bool) : ∃ u, leaveReady h toFault s = endPassage h u ∧ (∀ k, PassageStands k s u)
    ∧ (∀ k, k ≠ h → u.ports.get k = s.ports.get k) ∧ NoVerdict s u := by
  unfold leaveReady
  dsimp only
  generalize hgs : groupsOf ((s.ports.get h).inFlight.filter InFlight.openScan) = gs
  have counted : ∃ oe, countAbandoned gs.length (s.onPort h fun p => { p with inFlight := [] })
      = { s.onPort h fun p => { p with inFlight := [] } with oe := oe } := by
    unfold countAbandoned
    split
    · exact ⟨_, rfl⟩
    · exact ⟨_, rfl⟩
  obtain ⟨oe, e⟩ := counted
  rw [e]
  refine ⟨_, rfl, ?_⟩
  generalize hp : ({ s.onPort h fun p => { p with inFlight := [] } with oe := oe } : State) = emptied
  have handed : ∃ ru oe xe, (if toFault = true then candidates h .ofHeadLost (emptied.lostPoints gs) emptied
      else emptied) = { emptied with ru := ru, oe := oe, xe := xe } := by
    split
    · obtain ⟨_, _, _, _, c, _⟩ := candidates_only h .ofHeadLost (emptied.lostPoints gs) emptied
      exact ⟨_, _, _, c⟩
    · exact ⟨_, _, _, rfl⟩
  obtain ⟨ru, oe', xe, c⟩ := handed
  rw [c]
  subst hp
  refine ⟨fun k => ?_, fun k other => ?_, ?_⟩
  · exact PassageStands.trans (PassageStands.same rfl rfl) (groupsRemoved_onlyStaging _ _ _).passage
  · unfold groupsRemoved
    split
    · obtain ⟨_, _, g⟩ := offerGap_ports h { s.onPort h fun p => { p with inFlight := [] } with
        oe := oe', ru := ru, xe := xe }
      refine (congrArg (PerHead.get · k) g).trans ?_
      rw [get_set_other _ _ other]
      exact get_set_other _ _ other
    · exact get_set_other _ _ other
  · exact NoVerdict.trans (.same rfl) (groupsRemoved_noVerdict _ _ _)

variable (toFault : Bool)

theorem leaveReady_ended : PassageEnded h s (leaveReady h toFault s) := by
  obtain ⟨u, e, stands, _, _⟩ := leaveReady_cases s h toFault
  rw [e]
  exact (stands h).ended (endPassage_ended u h)

theorem leaveReady_closed (closed : (s.rc.heads.get h).passage ≠ .opened) :
    PassageStands h s (leaveReady h toFault s) := by
  obtain ⟨u, e, stands, _, _⟩ := leaveReady_cases s h toFault
  rw [e, endPassage_closed u h (by rw [(stands h).1]; exact closed)]
  exact stands h

theorem leaveReady_other {k : Head} (other : h ≠ k) : PassageStands h s (leaveReady k toFault s)
    ∧ (leaveReady k toFault s).ports.get h = s.ports.get h := by
  obtain ⟨u, e, stands, ports, _⟩ := leaveReady_cases s k toFault
  obtain ⟨passage, port⟩ := endPassage_other u h other
  rw [e]
  exact ⟨(stands h).trans passage, port.trans (ports h other)⟩

theorem leaveReady_noVerdict : NoVerdict s (leaveReady h toFault s) := by
  obtain ⟨u, e, _, _, records⟩ := leaveReady_cases s h toFault
  rw [e]
  exact records.trans (endPassage_noVerdict u h)

end

/-! ## The entry to CLOSING (R38, R104, R143) -/

theorem marked_marked (p : Port) (test : InFlight → Bool) (stable : ∀ e, test { e with abandoned := true } = test e) :
    (p.marked test).marked test = p.marked test := by
  unfold Port.marked
  simp only [List.map_map]
  congr 1
  refine List.map_congr_left fun e _ => ?_
  dsimp only [Function.comp]
  by_cases bears : test e = true
  · simp [bears, stable]
  · simp [bears]

/-- A head's reference record at the entry to CLOSING: the passage ended, the record disarmed, the REFERENCE entries
marked. -/
theorem closePassage_eq (h : Head) (s : State) : closePassage h s = { s with
    tg := { s.tg with heads := s.tg.heads.set h { s.tg.heads.get h with ref := (s.ref h).disarmed } }
    rc := { s.rc with heads := s.rc.heads.set h (s.rc.heads.get h).ended }
    ports := s.ports.set h ((s.ports.get h).marked fun e => e.pass.kind == .reference) } := by
  unfold closePassage endPassage HeadRef.ended
  split
  · unfold disarmRef State.onRef State.onPasses State.onPort State.onHeadRef
    dsimp only
    simp only [get_set_same, set_set]
    rw [marked_marked]
    · rfl
    · exact fun _ => rfl
  · rw [set_get]
    rfl

theorem forHeads_closePassage (s : State) : forHeads closePassage s = { s with
    tg := { s.tg with heads := s.tg.heads.map fun p => { p with ref := p.ref.disarmed } }
    rc := { s.rc with heads := s.rc.heads.map HeadRef.ended }
    ports := s.ports.map fun p => p.marked fun e => e.pass.kind == .reference } := by
  unfold forHeads
  simp only [closePassage_eq]
  rfl

/-- Stage 1 of CLOSING concerns the engine and the buffer. -/
theorem openClosing_blocks (s : State) : (openClosing s).tg = s.tg ∧ (openClosing s).rc = s.rc
    ∧ (openClosing s).ports = s.ports ∧ NoVerdict s (openClosing s) := by
  unfold openClosing holdMarker
  repeat' split
  · exact ⟨rfl, rfl, rfl, .same rfl⟩
  · exact ⟨takeRecord_tg _ _, takeRecord_rc _ _, takeRecord_ports _ _,
      NoVerdict.trans (.same rfl) (takeRecord_noVerdict _ nofun)⟩
  · exact ⟨rfl, rfl, rfl, .same rfl⟩
  · exact ⟨rfl, rfl, rfl, .same rfl⟩

theorem offerGap_inFlight (h k : Head) (s : State) :
    ((offerGap h s).ports.get k).inFlight = (s.ports.get k).inFlight := by
  obtain ⟨_, _, e⟩ := offerGap_ports h s
  rw [e]
  by_cases same : k = h
  · subst same
    rw [get_set_same]
  · rw [get_set_other _ _ same]

theorem chosen_sb (n : Nat) (s : State) : (s.chosen n).sb = s.sb := by
  obtain ⟨_, e⟩ := chosen_eq s n
  rw [e]

theorem chosen_ports (n : Nat) (s : State) : (s.chosen n).ports = s.ports := by
  obtain ⟨_, e⟩ := chosen_eq s n
  rw [e]

/-- The scan records disarmed leave the passages and the in-flight lists. -/
theorem disarmScans_passages (s : State) : (disarmScans s).rc = s.rc ∧ (∀ h, (disarmScans s).ref h = s.ref h)
    ∧ (∀ h, ((disarmScans s).ports.get h).inFlight = (s.ports.get h).inFlight) ∧ NoVerdict s (disarmScans s) := by
  obtain ⟨tg, _, _, _, _, _, e, _, refs⟩ := disarmScans_only s
  refine ⟨by rw [e], fun h => by rw [e]; exact (refs h).2, fun h => ?_, ?_⟩
  · exact inFreeOrder_kept (fun u => (u.ports.get h).inFlight = (s.ports.get h).inFlight) offerGap
      (fun k u hu => (offerGap_inFlight k h u).trans hu) (fun n u hu => by rw [chosen_ports]; exact hu) _ _ _ rfl
  · exact inFreeOrder_kept (NoVerdict s) offerGap (fun k u hu => hu.trans (offerGap_noVerdict u k))
      (fun n u hu => hu.trans (.same (chosen_sb n u))) _ _ _ (.same rfl)

/-- The entry to CLOSING ends every open passage without a verdict, disarms the reference records, and marks the
REFERENCE entries in flight. -/
theorem enterClosing_passages (slot : EndSlot) (s : State) :
    (∀ h, (enterClosing slot s).rc.heads.get h = (s.rc.heads.get h).ended
      ∧ ((enterClosing slot s).ref h).state = .notArmed
      ∧ ((enterClosing slot s).ports.get h).inFlight = (s.ports.get h).inFlight.map fun e =>
          if e.pass.kind == .reference then { e with abandoned := true } else e)
    ∧ NoVerdict s (enterClosing slot s) := by
  unfold enterClosing
  dsimp only
  generalize noted : s.onOrder (fun o => { o with
    engine := .closing, endSlot := some slot, stage := .orderBegin, interrupting := false,
    marker := keptMarker o.marker }) = u
  have entered : u.rc = s.rc ∧ u.ports = s.ports ∧ u.sb = s.sb := by rw [← noted]; exact ⟨rfl, rfl, rfl⟩
  obtain ⟨rc, ports, sb⟩ := entered
  obtain ⟨disarmedRc, _, inFlight, disarmed⟩ := disarmScans_passages u
  obtain ⟨tgOpen, rcOpen, portsOpen, opened⟩ :=
    openClosing_blocks (forHeads closePassage (referenceOff ((disarmScans u).onSpan Span.ended)))
  rw [forHeads_closePassage] at tgOpen rcOpen portsOpen opened ⊢
  refine ⟨fun h => ⟨?_, ?_, ?_⟩, ?_⟩
  · rw [rcOpen]
    simp only [get_map, referenceOff, onSpan_rc, disarmedRc, rc]
  · rw [State.ref, tgOpen]
    simp [PassRecord.disarmed]
  · rw [portsOpen]
    simp only [get_map, Port.marked, referenceOff, onSpan_ports, inFlight, ports]
  · exact (NoVerdict.same sb).trans (disarmed.trans (NoVerdict.trans (.same rfl) opened))

theorem endCondition_passages (slot : EndSlot) (s : State) (hr : s.oe.engine.running = true)
    (he : s.oe.endSlot = none) :
    (∀ h, (endCondition slot s).rc.heads.get h = (s.rc.heads.get h).ended
      ∧ ((endCondition slot s).ref h).state = .notArmed
      ∧ ((endCondition slot s).ports.get h).inFlight = (s.ports.get h).inFlight.map fun e =>
          if e.pass.kind == .reference then { e with abandoned := true } else e)
    ∧ NoVerdict s (endCondition slot s) := by
  rw [endCondition_taken slot s hr he]
  obtain ⟨heads, records⟩ := enterClosing_passages slot (emptyLists .idle s)
  exact ⟨heads, NoVerdict.trans (.same rfl) records⟩

/-- An end condition keeps a passage that has ended so. -/
theorem endCondition_keepsEnded {h : Head} {b : State} (slot : EndSlot) (s : State) (k : PassageEnded h b s) :
    PassageEnded h b (endCondition slot s) ∧ NoVerdict s (endCondition slot s) := by
  by_cases ends : s.oe.engine.running = true ∧ s.oe.endSlot = none
  · obtain ⟨heads, records⟩ := endCondition_passages slot s ends.1 ends.2
    obtain ⟨rc, ref, _⟩ := heads h
    refine ⟨fun opened => ⟨?_, ref⟩, records⟩
    rw [rc, (k opened).1, ended_passageIdle]
  · rw [endCondition_not slot s (by simpa [or_iff_not_imp_left] using ends)]
    exact ⟨k, .same rfl⟩

/-! ## A head's entry to FAULT (R45, R135) -/

section
variable (s : State) (h : Head)

theorem excludeScan_passage : PassageStands h s (excludeScan h s) ∧ NoVerdict s (excludeScan h s) := by
  have disarmed : PassageStands h s (disarmScan h s) ∧ NoVerdict s (disarmScan h s) := by
    have only : PassageStands h s (disarmScanOnly h s) := ⟨rfl, by simp [State.ref, disarmScanOnly]⟩
    exact ⟨only.trans (offerGap_onlyStaging h _).passage, NoVerdict.trans (.same rfl) (offerGap_noVerdict _ h)⟩
  unfold excludeScan
  split
  · exact disarmed
  · exact ⟨disarmed.1.trans ((candidates_passage _ h h _ _).trans (handWithheld_only h _ _ _ _ _).passage),
      disarmed.2.trans (handWithheld_noVerdict _ h _ _ _ _)⟩

theorem excludeHead_keepsEnded {b : State} (k : PassageEnded h b s) :
    PassageEnded h b (excludeHead h s) ∧ NoVerdict s (excludeHead h s) := by
  unfold excludeHead
  dsimp only
  obtain ⟨stands, records⟩ := excludeScan_passage (s.onOrder fun o => { o with excluded := o.excluded.set h true }) h
  have ended : PassageEnded h b (unawait h (excludeScan h (s.onOrder fun o =>
      { o with excluded := o.excluded.set h true }))) :=
    k.stands (PassageStands.trans ⟨rfl, rfl⟩ stands)
  have unjudged : NoVerdict s (unawait h (excludeScan h (s.onOrder fun o =>
      { o with excluded := o.excluded.set h true }))) := NoVerdict.trans (.same rfl) records
  split
  · obtain ⟨closed, later⟩ := endCondition_keepsEnded ⟨.headsLost, 0⟩ _ ended
    exact ⟨closed, unjudged.trans later⟩
  · exact ⟨ended, unjudged⟩

/-- The entry of a READY head to FAULT ends its open passage without a verdict. -/
theorem headFault_ended (r : FaultRecord) (ready : (s.ports.get h).state = .ready) :
    PassageEnded h s (headFault h r s) ∧ NoVerdict s (headFault h r s) := by
  unfold headFault
  dsimp only
  rw [if_pos ready]
  generalize faulted : setNotice .headFault (endWake h ((leaveReady h true s).onPort h fun p =>
    { p with state := .fault, faultRecord := r, wakeTimer := .stopped })) = u
  have ended : PassageEnded h s u := by
    rw [← faulted]
    exact (leaveReady_ended s h true).stands ⟨rfl, rfl⟩
  have unjudged : NoVerdict s u := by
    rw [← faulted]
    exact (leaveReady_noVerdict s h true).trans (.same rfl)
  split
  · obtain ⟨kept, later⟩ := excludeHead_keepsEnded u h ended
    exact ⟨kept, unjudged.trans later⟩
  · exact ⟨ended, unjudged⟩

/-! ## The light condition becoming present (R58, R140) -/

theorem forceOff_ready (ready : (s.ports.get h).state = .ready) : forceOff h s
    = (leaveReady h false s).onPort h fun p =>
        { p.send [.sleep] with state := .forcedOff, wakePending := true, wakeTimer := .stopped } := by
  unfold forceOff
  simp only [ready]

theorem forceOff_notReady (other : (s.ports.get h).state ≠ .ready) (k : Head) :
    PassageStands k s (forceOff h s) ∧ (k ≠ h → (forceOff h s).ports.get k = s.ports.get k)
    ∧ (forceOff h s).sb = s.sb := by
  unfold forceOff
  split
  · exact absurd ‹_› other
  · exact ⟨⟨rfl, rfl⟩, fun hk => get_set_other _ _ hk, rfl⟩
  all_goals exact ⟨⟨rfl, rfl⟩, fun _ => rfl, rfl⟩

theorem forceOff_other {k : Head} (other : h ≠ k) : PassageStands h s (forceOff k s)
    ∧ (forceOff k s).ports.get h = s.ports.get h := by
  by_cases ready : (s.ports.get k).state = .ready
  · obtain ⟨stands, port⟩ := leaveReady_other s h false other
    rw [forceOff_ready s k ready]
    exact ⟨stands.trans ⟨rfl, rfl⟩, (get_set_other _ _ other).trans port⟩
  · obtain ⟨stands, ports, _⟩ := forceOff_notReady s k ready h
    exact ⟨stands, ports other⟩

theorem forceOff_noVerdict : NoVerdict s (forceOff h s) := by
  by_cases ready : (s.ports.get h).state = .ready
  · rw [forceOff_ready s h ready]
    exact (leaveReady_noVerdict s h false).trans (.same rfl)
  · exact .same (forceOff_notReady s h ready h).2.2

/-- A READY head forced off ends its open passage. -/
theorem forceOff_ended (ready : (s.ports.get h).state = .ready) : PassageEnded h s (forceOff h s) := by
  rw [forceOff_ready s h ready]
  exact (leaveReady_ended s h false).stands ⟨rfl, rfl⟩

/-- A passage that has ended stays so when heads are forced off. -/
theorem forceOff_keepsEnded {b : State} (k : Head) (e : PassageEnded h b s) : PassageEnded h b (forceOff k s) := by
  by_cases same : h = k
  · subst same
    by_cases ready : (s.ports.get h).state = .ready
    · intro opened
      have closed : (s.rc.heads.get h).passage ≠ .opened := by rw [(e opened).1]; exact nofun
      rw [forceOff_ready s h ready]
      exact (e.stands (leaveReady_closed s h false closed)).stands ⟨rfl, rfl⟩ opened
    · exact e.stands (forceOff_notReady s h ready h).1
  · exact e.stands (forceOff_other s h same).1

/-- The head is READY with its passage as it stood, or its passage has ended. -/
def PassageDue (h : Head) (b s : State) : Prop :=
  (PassageStands h b s ∧ (s.ports.get h).state = .ready) ∨ PassageEnded h b s

theorem forceOff_due {b : State} (e : PassageDue h b s) : PassageEnded h b (forceOff h s) := by
  rcases e with ⟨stands, ready⟩ | e
  · exact stands.ended (forceOff_ended s h ready)
  · exact forceOff_keepsEnded s h h e

theorem forceOff_keepsDue {b : State} (k : Head) (e : PassageDue h b s) : PassageDue h b (forceOff k s) := by
  by_cases same : h = k
  · subst same
    exact .inr (forceOff_due s h e)
  · obtain ⟨stands, port⟩ := forceOff_other s h same
    rcases e with ⟨kept, ready⟩ | e
    · exact .inl ⟨kept.trans stands, by rw [port]; exact ready⟩
    · exact .inr (e.stands stands)

theorem chosen_passage (n : Nat) : PassageStands h s (s.chosen n) := (chosen_onlyStaging n s).passage

theorem lightLost_passage (ready : (s.ports.get h).state = .ready) :
    PassageDue h s (lightLost s) ∧ NoVerdict s (lightLost s) := by
  have waits : ∀ interrupting, PassageDue h s (enterLightWait interrupting s)
      ∧ NoVerdict s (enterLightWait interrupting s) := by
    intro interrupting
    obtain ⟨rc, refs, _, records⟩ := disarmScans_passages
      (s.onOrder fun o => { o with engine := .lightWait, grace := 0, interrupting := interrupting })
    refine ⟨.inl ⟨⟨congrArg (fun x => x.heads.get h) rc, refs h⟩, ?_⟩, NoVerdict.trans (.same rfl) records⟩
    rw [((enterLightWait_steady interrupting (Steady.refl s)).ports h).state, ready]
  unfold lightLost
  split
  · exact waits _
  · exact waits _
  · exact ⟨.inl ⟨⟨rfl, rfl⟩, ready⟩, .same rfl⟩

/-- The light condition becoming present ends the open passage of every READY head without a verdict. -/
theorem lightFails_ended (ready : (s.ports.get h).state = .ready) :
    PassageEnded h s (lightFails s) ∧ NoVerdict s (lightFails s) := by
  obtain ⟨due, records⟩ :=
    lightLost_passage (setNotice .lightLow { s with light := { s.light with present := true } }) h ready
  refine ⟨?_, ?_⟩
  · exact forHeadsFree_made (PassageEnded h s) _ forceOff (PassageDue h s) h (fun u => forceOff_due u h)
      (fun k u => forceOff_keepsDue u h k) (fun k u => forceOff_keepsEnded u h k)
      (fun n u e => e.imp
        (fun ⟨stands, ready⟩ => ⟨stands.trans (chosen_passage u h n), by rw [chosen_ports]; exact ready⟩)
        (·.stands (chosen_passage u h n)))
      (fun n u e => e.stands (chosen_passage u h n)) _ due
  · exact forHeadsFree_kept (NoVerdict s) _ forceOff (fun k u e => e.trans (forceOff_noVerdict u k))
      (fun n u e => e.trans (.same (chosen_sb n u))) _ (NoVerdict.trans (.same rfl) records)

theorem wakeHead_ended (ready : (s.ports.get h).state = .ready) (light : s.light.present = false) :
    PassageEnded h s (wakeHead h s) ∧ NoVerdict s (wakeHead h s) := by
  unfold wakeHead
  simp only [light, ready, Bool.false_eq_true, if_false]
  exact ⟨(leaveReady_ended s h false).stands ⟨rfl, rfl⟩, (leaveReady_noVerdict s h false).trans (.same rfl)⟩

/-! ## The commands at which a READY head leaves READY (R40, R42, R58) -/

theorem portFault_ready (c : PortCause) (ready : (s.ports.get h).state = .ready) :
    portFault c h s = settle (headFault h (.port c) s) := by
  unfold portFault
  simp only [ready]

/-- A command at which READY head `h` leaves READY: a frame error, an unexpected READY, an ALERT, the loss of its link,
a SAMPLE that is not awaited, or a light loss (R40, R42, R50, R58). -/
def LeavesReady (c : Instr) : Prop :=
  c = .frameError h ∨ c = .readyReceived h ∨ (∃ code, c = .alertReceived h code)
    ∨ ((s.ports.get h).linkWatch = true ∧ c = .linkLoss h)
    ∨ (∃ m, (∀ x, oldestOpen (s.ports.get h).inFlight = some x → x.seq ≠ m.seq) ∧ c = .sampleReceived h m)
    ∨ (s.light.judgement ≠ .low ∧ s.light.present = false ∧ c = .lightJudgedLow)

theorem exec_unexpectedSample (m : Sample) (ready : (s.ports.get h).state = .ready)
    (unawaited : ∀ x, oldestOpen (s.ports.get h).inFlight = some x → x.seq ≠ m.seq) :
    exec (.sampleReceived h m) s = .next (settle (headFault h (.port .linkOrder) s)) := by
  change execSampleReceived h m s = _
  unfold execSampleReceived
  simp only [ready]
  cases oldest : oldestOpen (s.ports.get h).inFlight with
  | none => rfl
  | some x => simp only [if_neg (unawaited x oldest)]

theorem exec_lightJudgedLow_fails (judged : s.light.judgement ≠ .low) (light : s.light.present = false) :
    exec .lightJudgedLow s = .next (settle (lightFails { s with light := { s.light with judgement := .low } })) := by
  change execLightJudgedLow s = _
  unfold execLightJudgedLow
  simp only [if_neg judged, light, Bool.false_eq_true, if_false]

/-- Each of these commands ends the head's open passage without a verdict, and then the steps at the end of the event
follow. -/
theorem leavesReady_ended {c : Instr} (ready : (s.ports.get h).state = .ready) (leaves : LeavesReady s h c) :
    ∃ u, exec c s = .next (settle u) ∧ PassageEnded h s u ∧ NoVerdict s u := by
  rcases leaves with rfl | rfl | ⟨code, rfl⟩ | ⟨watch, rfl⟩ | ⟨m, unawaited, rfl⟩ | ⟨judged, light, rfl⟩
  · refine ⟨_, ?_, headFault_ended s h (.port .linkFrame) ready⟩
    change execFrameError h s = _
    unfold execFrameError
    rw [portFault_ready s h .linkFrame ready]
  · refine ⟨_, ?_, headFault_ended s h (.port .linkState) ready⟩
    change execReadyReceived h s = _
    unfold execReadyReceived
    simp only [ready]
  · refine ⟨_, ?_, headFault_ended s h (if code = 0 then .port .linkFrame else .head code) ready⟩
    change execAlertReceived h code s = _
    unfold execAlertReceived
    simp only [ready]
  · have lapsed : ((s.onPort h fun p => { p with linkWatch := false }).ports.get h).state = .ready := by
      rw [onPort_ports, get_set_same]
      exact ready
    refine ⟨_, ?_, headFault_ended (s.onPort h fun p => { p with linkWatch := false }) h (.port .linkLost) lapsed⟩
    change execLinkLoss h s = _
    unfold execLinkLoss
    rw [if_pos watch, portFault_ready _ h .linkLost lapsed]
  · exact ⟨_, exec_unexpectedSample s h m ready unawaited, headFault_ended s h _ ready⟩
  · exact ⟨_, exec_lightJudgedLow_fails s judged light,
      lightFails_ended { s with light := { s.light with judgement := .low } } h ready⟩

end

end Sys2Proof.Machine
end

section
/-! The statements of 02 (zone tables and trigger generation), settled. -/

open Sys2Proof Sys2Proof.Machine

/-- Settles O2: the motion of a passage, its due points, its outcomes, the exits from READY, and the entry to
CLOSING. -/
theorem referencePassageRunsAndEnds : Obligations.ReferencePassageRunsAndEnds := by
  refine ⟨fun s c h offset rev pitch length => ?_, fun s h r burst => ?_, fun s h e xs kind => ?_, fun s h ready => ?_,
    fun s slot running undecided => ?_⟩
  · intro r u above moved due
    have next : ∀ p, above p (s.refPointAt c (p + 1)) := fun p => refPointAt_next s c p pitch
    refine ⟨refForward_stopped s c h offset rev, fun waiting elsewhere => ?_, fun waiting start => ?_,
      fun q state position => ?_⟩
    · exact (refForward_waiting s c h offset rev waiting).trans (if_neg elsewhere)
    · refine ⟨_, next 0, ?_⟩
      exact (refForward_waiting s c h offset rev waiting).trans
        ((if_pos start).trans (actInRef_startRef s c h rev length))
    · have step : u = _ := refForward_moved s c h offset rev state position
      dsimp only at step
      refine ⟨fun below => ?_, fun p hp inside => ?_, fun atEnd => ?_⟩
      · rw [step, if_neg (by omega), if_neg (by omega), Int.toNat_of_nonpos below.le]
        simp only [Nat.max_zero]
        rfl
      · subst hp
        rw [step, if_neg (by omega), if_pos (by omega), Int.toNat_natCast]
        refine ⟨fun elsewhere => ?_, fun trigger => ⟨_, next p, ?_⟩⟩
        · rw [actInRef_between _ c h p rev (by rw [onRef_ref]; exact elsewhere)]
          rfl
        · rw [actInRef_at _ c h p rev (by rw [onRef_ref]; exact trigger), onRef_onRef, State.refRequest, onRef_ref]
          rfl
      · subst atEnd
        rw [step, if_pos rfl, Int.toNat_natCast]
        intro x ended
        refine ⟨fun closed => ?_, fun opened => ?_⟩
        · rw [endRef_closed (s.onRef h _) h closed, onRef_onRef]
          rfl
        · rw [endRef_opened (s.onRef h _) h opened, onRef_passes, onRef_onRef]
          rfl
  · intro p g u issued
    have room : p.canIssue r.burst = true ↔ p.state = .ready ∧ p.inFlight.length < 8 := by
      rw [canIssue_iff_room p burst.ge, burst]
      rfl
    refine ⟨fun free => ?_, fun blocked => refPointDue_skipped s h r (mt room.mp blocked)⟩
    have due : u = _ := refPointDue_issued s h r (room.mpr free)
    have entry : r.entry p.seqCounter 1 s.xe.time p.timeoutInForce = issued := by
      unfold Request.entry
      rw [burst]
    rw [due, ← entry]
    exact ⟨congrArg (s.ports.set h) (issue_one r p s.xe.time burst), rfl, rfl, rfl, rfl, rfl, rfl⟩
  · intro u x r
    obtain ⟨sig, qualified⟩ := qualify_reference s h e xs kind
    have taken : u = _ := qualified
    rw [taken]
    exact ⟨rfl, rfl, rfl, rfl, rfl, fun good => if_pos good, fun bad => if_neg bad⟩
  · exact ⟨fun c leaves => leavesReady_ended s h ready leaves, wakeHead_ended s h ready⟩
  · obtain ⟨heads, records⟩ := endCondition_passages slot s running undecided
    refine ⟨fun h => ?_, records⟩
    obtain ⟨rc, ref, inFlight⟩ := heads h
    refine ⟨rc, ref, ?_⟩
    rw [inFlight]
    simp only [beq_iff_eq]

/-- Settles O10, by the points of the zones from any base on. -/
theorem normalPassPointsLieOnZoneGrid : Obligations.NormalPassPointsLieOnZoneGrid := by
  intro h index zones offset zone hp
  rw [mem_normalPoints h index zones 0 0 offset zone hp]
  simp only [phase_eq, Nat.zero_add]
  constructor
  · rintro ⟨i, z, rfl, points⟩
    exact ⟨z, points⟩
  · rintro ⟨z, points⟩
    exact ⟨zone, z, rfl, points⟩

/-- Settles O11, by whether the head can issue the point's burst. -/
theorem duePointIssuedWholeOrSkipped : Obligations.DuePointIssuedWholeOrSkipped := by
  intro s h zone r
  refine ⟨fun ⟨ready, room⟩ => ?_, fun blocked burst => ?_⟩
  · rw [scanPointDue_issued s h zone r ((canIssue_iff _ _).mpr ⟨ready, by omega⟩)]
    simp [pulse, Port.issue, Port.send]
  · rw [← canIssue_iff_room _ burst] at blocked
    intro skipped yields
    have due : scanPointDue h zone r s
        = if s.yieldsCandidate r.pass zone then candidate h zone r.point .ofBusy skipped else skipped :=
      scanPointDue_skipped s h zone r blocked
    have yields_iff : s.yieldsCandidate r.pass zone = true ↔ yields := yieldsCandidate_iff s zone r.pass
    rw [due]
    refine ⟨fun yes => if_pos (yields_iff.mpr yes), fun no => if_neg (mt yields_iff.mp no), ?_⟩
    split
    · obtain ⟨_, _, _, _, e⟩ := candidate_only skipped h zone r.point .ofBusy
      rw [e]
      exact ⟨rfl, rfl, rfl⟩
    · exact ⟨rfl, rfl, rfl⟩

/-- Settles O12: the backward arrival, the heads one by one, and the start and the end of a pass. -/
theorem angleArrivalsMoveScanPasses : Obligations.AngleArrivalsMoveScanPasses := by
  refine ⟨fun s blade rev => ?_, fun s blade rev one => forHeadsFree_one _ _ s one,
    fun s blade rev h t c zones config cpr => ?_, fun s t h offset rev z zs zones length => ⟨?_, ?_, ?_⟩⟩
  · simp only [angleArrival_backward, backward_eq]
  · rw [headForward_eq s blade rev h zones config, windowOffset_seenAngle cpr, windowOffset_seenAngle cpr]
  · intro waiting elsewhere
    rw [scanForward_waiting s t h offset rev waiting, if_neg elsewhere]
  · intro waiting start
    rw [scanForward_waiting s t h offset rev waiting, if_pos start]
    obtain ⟨next, e⟩ := actInScan_startScan s h rev zones length
    refine ⟨rfl, ?_⟩
    rw [e]
    exact ⟨rfl, rfl, rfl, rfl, rfl⟩
  · intro state position more
    rw [scanForward_atEnd s t h offset rev state position]
    generalize moved : s.onScan h (fun r =>
      { r with position := some (t.length : Int), reach := max r.reach t.length }) = u
    have scan : u.scan h
        = { s.scan h with position := some (t.length : Int), reach := max (s.scan h).reach t.length } := by
      rw [← moved, onScan_scan]
    refine ⟨fun g gap idle room => ?_, fun again full => ?_, fun again full => ?_, fun last => ?_⟩
    · subst moved
      exact endScan_gap (s.onScan h _) h rev t gap idle room
    · rw [(endScan_more u h rev zones length (by rw [scan]; exact again)).1 full, scan, PassRecord.next, again.1]
    · obtain ⟨next, e⟩ := (endScan_more u h rev zones length (by rw [scan]; exact again)).2 full
      rw [e, scan, PassRecord.next, again.1]
      exact ⟨rfl, rfl, rfl, rfl, rfl⟩
    · rw [endScan_last u h rev (by rw [scan]; exact last), scan]
      rfl

/-- Settles O13: the motion and the zone entry, then the point at the next trigger angle, and the least point above
it. -/
theorem pointFiresOnceInPass : Obligations.PointFiresOnceInPass := by
  intro s t h p offset rev j k y z state position inside pitches ascend r reach hy yAbove yBelow hz zAbove zBelow
    left blank entered moved points
  have inZone : t.zoneAt p = some j := zoneAt_eq hy yAbove yBelow
  have reachZone : t.zoneAt reach = some k := zoneAt_eq hz zAbove zBelow
  have least := firstScanPoint_least s.cpr t h pitches s.ru.current r.pass (p + 1) ascend
  rw [scanForward_inside s t h offset rev state position inside]
  generalize stepped : s.onScan h (fun r => { r with position := some (p : Int), reach := max r.reach p }) = u
  have scan : u.scan h = { r with position := some (p : Int), reach := reach } := by rw [← stepped, onScan_scan]
  have triggers : (u.scan h).nextTrigger = some (angleOf u.cpr t.start p)
      ↔ r.nextTrigger = some (angleOf s.cpr t.start p) := by
    rw [scan, ← stepped]
    rfl
  have qualifier : u.enteredQual t h k (z.classOn (u.scan h).pass) = entered := by
    rw [State.enteredQual, scan, ← stepped]
    rfl
  have zoned : enterZone t h k u = moved r.nextTrigger := by
    rw [enterZone_eq u h hz, qualifier, ← stepped, onScan_onScan]
    rfl
  have looked : ∀ next, (moved r.nextTrigger).onScan h (fun x => { x with nextTrigger := next }) = moved next := by
    intro next
    rw [← zoned, enterZone_eq u h hz, qualifier, ← stepped, onScan_onScan]
    simp only [State.onScan, State.onPasses, State.onQual, get_set_same, set_set]
    rfl
  have reached : t.zoneAt (u.scan h).reach = some k := by rw [scan]; exact reachZone
  refine ⟨fun elsewhere => ?_, fun trigger => ?_⟩
  · rw [actInScan_between u h p rev reached (mt triggers.mp elsewhere) hz, zoned]
  · refine ⟨(firstScanPoint s.cpr t s.ru.current h r.pass (p + 1)).map (angleOf s.cpr t.start), ?_, ?_⟩
    · rw [actInScan_at u h p rev reached hz (triggers.mpr trigger) inZone hy, zoned, looked, State.scanRequest, scan,
        ← stepped]
      rfl
    · cases hf : firstScanPoint s.cpr t s.ru.current h r.pass (p + 1) with
      | none =>
        rw [hf] at least
        exact .inl ⟨rfl, fun q hq => Nat.lt_succ_iff.mp (least q hq)⟩
      | some o =>
        rw [hf] at least
        obtain ⟨⟨q, hq, rfl⟩, above, minimal⟩ := least
        exact .inr ⟨q, hq, rfl, above, minimal⟩

/-- Settles O24: the points of the pass, the candidates, then the record staged or held. -/
theorem suspensionWithholdsPass : Obligations.SuspensionWithholdsPass := by
  intro s h t zones u r
  refine ⟨?_, suspendScan_disarmed s h, suspendScan_onward h (Onward.refl s)⟩
  intro armed all points withheld yields marked handed gap
  have blade : s.bladePoints t (s.suspendedPoints t h) = withheld := by
    refine congrArg (List.map _) ?_
    unfold State.suspendedPoints State.pointsFrom
    rcases armed with state | state
    · simp only [points, r, state, if_true]
      cases (s.scan h).nextTrigger <;> simp [all, r]
    · simp only [points, r, state]
      rfl
  have handedOver : u = handWithheld h .suspended .ofSuspended r.pass withheld marked := by
    rw [← blade]
    exact suspendScan_eq s h zones armed
  have only : OnlyStaging handed u := by
    rw [handedOver]
    exact handWithheld_only h .suspended .ofSuspended r.pass withheld marked
  refine ⟨?_, ?_, ?_, ?_, ?_⟩
  · rw [handedOver, State.scan, handWithheld_tg]
    exact congrArg HeadPasses.scan (get_set_same _ _ _)
  · obtain ⟨_, _, _, _, _, e⟩ := only
    rw [e]
  · obtain ⟨_, _, _, _, _, e⟩ := only
    rw [e]
  · intro empty
    rw [handedOver, empty, handWithheld_nil]
  · intro a b ha hb x
    obtain ⟨sb, ports, tag, records⟩ : handed.sb = s.sb ∧ handed.ports = s.ports
        ∧ handed.oe.activeTag = s.oe.activeTag ∧ handed.gapRecords h = gap :=
      candidates_staging h .ofSuspended (withheld.filter fun q => yields q.2) marked
    have offered : u = offerPortRecord h x (offerGap h handed) := by
      rw [handedOver, handWithheld_ends h .suspended .ofSuspended r.pass withheld marked ha hb]
      rfl
    rw [offered]
    refine ⟨fun room unheld => ?_, fun full => ?_⟩
    · rw [offerSuspended_room h handed x rfl (by rw [sb]; exact room) (by rw [ports]; exact unheld), sb, tag, records]
    · obtain ⟨staged, held⟩ := offerSuspended_full h handed x rfl (by rw [sb]; exact full)
      refine ⟨by rw [staged, sb], ?_⟩
      rw [held, ports]
      cases (s.ports.get h).heldSuspended <;> rfl

end

section
/-! The heads' messages, the ports' timers and link watches (03): what each command does by the head's state. -/

namespace Sys2Proof.Machine

/-! ## One head's port -/

/-- A port's change that changes nothing. -/
theorem onPort_same (s : State) (h : Head) (f : Port → Port) (same : f (s.ports.get h) = s.ports.get h) :
    s.onPort h f = s := by
  unfold State.onPort
  rw [same, set_get]

theorem onPort_onPort (s : State) (h : Head) (f g : Port → Port) :
    (s.onPort h f).onPort h g = s.onPort h fun p => g (f p) := by
  simp [State.onPort]

/-! ## Messages and expiries by the head's state (R40, R42, R44) -/

/-- The head is in a state in which its port judges no message. -/
def State.unjudged (s : State) (h : Head) : Prop :=
  (s.ports.get h).state = .off ∨ (s.ports.get h).state = .fault ∨ (s.ports.get h).state = .forcedOff

/-- The head is in WAKING or READY. -/
def State.judged (s : State) (h : Head) : Prop := (s.ports.get h).state = .waking ∨ (s.ports.get h).state = .ready

section
variable {s : State} {h : Head}

theorem portFault_unjudged (c : PortCause) (asleep : s.unjudged h) : portFault c h s = s := by
  unfold portFault
  rcases asleep with e | e | e <;> simp only [e]

theorem portFault_judged (c : PortCause) (awake : s.judged h) :
    portFault c h s = settle (headFault h (.port c) s) := by
  unfold portFault
  rcases awake with e | e <;> simp only [e]

theorem exec_readyReceived_unjudged (asleep : s.unjudged h) : exec (.readyReceived h) s = .next s := by
  change execReadyReceived h s = _
  unfold execReadyReceived
  rcases asleep with e | e | e <;> simp only [e]

theorem exec_readyReceived_waking (waking : (s.ports.get h).state = .waking) :
    exec (.readyReceived h) s = .next (settle (endWake h (s.onPort h Port.awake))) := by
  change execReadyReceived h s = _
  unfold execReadyReceived
  simp only [waking]

theorem exec_readyReceived_ready (ready : (s.ports.get h).state = .ready) :
    exec (.readyReceived h) s = .next (settle (headFault h (.port .linkState) s)) := by
  change execReadyReceived h s = _
  unfold execReadyReceived
  simp only [ready]

theorem exec_alertReceived_unjudged (code : Byte) (asleep : s.unjudged h) :
    exec (.alertReceived h code) s = .next s := by
  change execAlertReceived h code s = _
  unfold execAlertReceived
  rcases asleep with e | e | e <;> simp only [e]

theorem exec_alertReceived_judged {code : Byte} (coded : code ≠ 0) (awake : s.judged h) :
    exec (.alertReceived h code) s = .next (settle (headFault h (.head code) s)) := by
  change execAlertReceived h code s = _
  unfold execAlertReceived
  rcases awake with e | e <;> simp only [e, if_neg coded]

theorem exec_frameError (s : State) (h : Head) : exec (.frameError h) s = .next (portFault .linkFrame h s) := rfl

/-- A link loss of a running watch lapses it, and is then judged by the head's state. -/
theorem exec_linkLoss_running (watch : (s.ports.get h).linkWatch = true) :
    exec (.linkLoss h) s = .next (portFault .linkLost h (s.onPort h fun p => { p with linkWatch := false })) := by
  change execLinkLoss h s = _
  unfold execLinkLoss
  rw [if_pos watch]

/-- A link loss of a lapsed watch changes nothing (log 10). -/
theorem exec_linkLoss_lapsed (watch : (s.ports.get h).linkWatch = false) : exec (.linkLoss h) s = .next s := by
  change execLinkLoss h s = _
  unfold execLinkLoss
  rw [watch, if_neg Bool.false_ne_true]

/-- In a state that judges nothing a link loss lapses the watch alone. -/
theorem exec_linkLoss_unjudged (asleep : s.unjudged h) :
    exec (.linkLoss h) s = .next (s.onPort h fun p => { p with linkWatch := false }) := by
  cases watch : (s.ports.get h).linkWatch with
  | true =>
    rw [exec_linkLoss_running watch, portFault_unjudged]
    unfold State.unjudged
    rw [onPort_ports, get_set_same]
    exact asleep
  | false => rw [exec_linkLoss_lapsed watch, onPort_same s h _ (by rw [← watch])]

theorem exec_sampleReceived_unjudged (m : Sample) (other : (s.ports.get h).state ≠ .ready) :
    exec (.sampleReceived h m) s = .next s := by
  change execSampleReceived h m s = _
  unfold execSampleReceived
  cases state : (s.ports.get h).state with
  | ready => exact absurd state other
  | off | waking | fault | forcedOff => rfl

theorem exec_wakeTimerExpiry_unjudged (other : (s.ports.get h).state ≠ .waking) :
    exec (.wakeTimerExpiry h) s = .next s := by
  change execWakeTimerExpiry h s = _
  unfold execWakeTimerExpiry
  cases state : (s.ports.get h).state with
  | waking => exact absurd state other
  | off | ready | fault | forcedOff => rfl

theorem exec_wakeTimerExpiry_running (waking : (s.ports.get h).state = .waking)
    (running : (s.ports.get h).wakeTimer ≠ .stopped) :
    exec (.wakeTimerExpiry h) s = .next (settle (headFault h (.port .wakeTimeout) s)) := by
  change execWakeTimerExpiry h s = _
  unfold execWakeTimerExpiry
  cases timer : (s.ports.get h).wakeTimer with
  | stopped => exact absurd timer running
  | running start period => simp only [waking]

/-! ## Replies and response expiries (R50, R51) -/

theorem exec_sampleReceived_awaited {m : Sample} {e : InFlight} (ready : (s.ports.get h).state = .ready)
    (oldest : oldestOpen (s.ports.get h).inFlight = some e) (awaited : e.seq = m.seq) :
    exec (.sampleReceived h m) s = .next (settle (retire h (Sample.exposure m s.xe.time) e s)) := by
  change execSampleReceived h m s = _
  unfold execSampleReceived
  simp only [ready, oldest, if_pos awaited]

theorem exec_responseTimerExpiry {e : InFlight} (oldest : oldestOpen (s.ports.get h).inFlight = some e) :
    exec (.responseTimerExpiry h) s = .next (settle (retire h (.noReply s.xe.time) e s)) := by
  change execResponseTimerExpiry h s = _
  unfold execResponseTimerExpiry
  simp only [oldest]

/-- The oldest unretired entry, where it is not the last of its group, retires alone. -/
theorem retire_inside {e : InFlight} (x : Exposure) (inside : e.ordinal ≠ e.burst) :
    retire h x e s = s.onPort h fun p => { p with inFlight := retireOldest x p.inFlight } := by
  unfold retire
  rw [if_neg inside]

end

/-! ## Monitor outputs (R61) -/

/-- An output that shows no IN_PASS signal is low without a pulse. -/
theorem monLevel_low (s : State) (m : MonOutput) (signal : ∀ h, m.selection ≠ .signal h .inPass) :
    s.monLevel { m with pulse := false } = false := by
  unfold State.monLevel
  cases selection : m.selection with
  | none => rfl
  | signal h sig =>
    cases sig with
    | inPass => exact absurd selection (signal h)
    | triggerIssued | outcomeGood | outcomeBad => rfl

end Sys2Proof.Machine
end

section
/-! Completed groups and completed series (R31, R50 to R53, R65, R155). -/

namespace Sys2Proof.Machine

/-! ## The outcome counted in the filter (R67) -/

theorem countsInFilter_iff (s : State) (h : Head) (kind : PassKind) (cause : RejectCause) :
    (kind != .reference && s.countsInFilter h (cause != .none)) = true
      ↔ kind ≠ .reference ∧ cause ≠ .none ∧ (s.qu.heads.get h).blank = 0 := by
  unfold State.countsInFilter
  simp only [Bool.and_eq_true, bne_iff_ne, beq_iff_eq]

/-! ## The pending gap at a group's removal (R155, R53) -/

/-- A scan pass of a head has ended, and no unmarked entry of it is left in the list (log 20). -/
def State.passDrained (s : State) (h : Head) (pass : PassId) : Prop :=
  pass.kind ≠ .reference ∧ s.passEnded h pass = true
    ∧ ∀ y ∈ (s.ports.get h).inFlight, y.abandoned = true ∨ y.pass.kind = .reference ∨ y.pass ≠ pass

section
variable (s : State) (h : Head) (g : InFlight)

theorem openScan_iff : g.openScan = true ↔ g.abandoned = false ∧ g.pass.kind ≠ .reference := by
  unfold InFlight.openScan
  simp only [Bool.and_eq_true, Bool.not_eq_true', bne_iff_ne]

/-- An unmarked group is the last of its ended pass exactly where that pass is drained. -/
theorem removes_iff (unmarked : g.abandoned = false) :
    ([g].any fun g => g.openScan && s.passEnded h g.pass
      && !((s.ports.get h).inFlight.any fun e => e.openScan && e.pass == g.pass)) = true
      ↔ s.passDrained h g.pass := by
  unfold State.passDrained
  simp only [List.any_cons, List.any_nil, Bool.or_false, Bool.and_eq_true, Bool.not_eq_true', openScan_iff, unmarked,
    true_and, List.any_eq_false, and_assoc, beq_iff_eq]
  refine and_congr_right fun _ => and_congr_right fun _ => forall₂_congr fun y _ => ?_
  rw [← Bool.not_eq_true]
  tauto

theorem groupsRemoved_drained (unmarked : g.abandoned = false) (drained : s.passDrained h g.pass) :
    groupsRemoved h [g] s = offerGap h s := if_pos ((removes_iff s h g unmarked).mpr drained)

theorem groupsRemoved_undrained (unmarked : g.abandoned = false) (going : ¬s.passDrained h g.pass) :
    groupsRemoved h [g] s = s := if_neg (mt (removes_iff s h g unmarked).mp going)

end

/-! ## A group's last entry (R50 to R52, R65) -/

section
variable {s : State} {h : Head} {e : InFlight}

theorem retire_last (x : Exposure) (last : e.ordinal = e.burst) :
    retire h x e s
      = completeGroup h e.burst (s.onPort h fun p => { p with inFlight := retireOldest x p.inFlight }) := by
  unfold retire
  rw [if_pos last]

/-- A marked group leaves the list, and forms no outcome (R53). -/
theorem completeGroup_marked {n : Nat}
    (marked : ((s.ports.get h).inFlight.take n).any (fun g => g.abandoned) = true) :
    completeGroup h n s = s.onPort h fun p => { p with inFlight := p.inFlight.drop n } := by
  unfold completeGroup
  dsimp only
  split
  · rfl
  · rw [if_pos marked]

/-- An unmarked group's outcome is handled with its first entry, the filter's limit last, and the removal reported. -/
theorem completeGroup_unmarked {n : Nat} {g : InFlight} {rest : List InFlight}
    (group : (s.ports.get h).inFlight.take n = g :: rest) (unmarked : ∀ y ∈ g :: rest, y.abandoned = false)
    {u : State} (removed : (s.onPort h fun p => { p with inFlight := p.inFlight.drop n }) = u) :
    completeGroup h n s = groupsRemoved h [g]
      (if (g.pass.kind != .reference && u.countsInFilter h
          (judge (chosenExposure ((g :: rest).filterMap (·.result))) g.floor != .none)) = true then
        settleFilter h (qualify h g ((g :: rest).filterMap (·.result)) u)
      else qualify h g ((g :: rest).filterMap (·.result)) u) := by
  have unmarkedAll : (g :: rest).any (·.abandoned) = false := List.any_eq_false.mpr fun y hy => by simp [unmarked y hy]
  unfold completeGroup
  rw [group, removed]
  dsimp only
  rw [unmarkedAll, if_neg Bool.false_ne_true]

end

/-! ## A completed series (R31, R93) -/

theorem seriesComplete_iff (s : State) (h : Head) : s.seriesComplete h = true ↔
    (s.tg.heads.get h).seriesOpen = true ∧ (s.scan h).state = .done
      ∧ ∀ e ∈ (s.ports.get h).inFlight, e.abandoned = true ∨ e.pass.kind ≠ (s.scan h).pass.kind := by
  unfold State.seriesComplete
  simp only [Bool.and_eq_true, beq_iff_eq, Bool.not_eq_true', List.any_eq_false, and_assoc]
  refine and_congr_right fun _ => and_congr_right fun _ => forall₂_congr fun e _ => ?_
  rw [← Bool.not_eq_true]
  tauto

theorem exec_seriesComplete (s : State) (h : Head) :
    exec (.seriesComplete h) s = .next (if s.seriesComplete h then settle (closeSeries h s) else s) := rfl

end Sys2Proof.Machine
end

section
/-! Exits from READY (R54): the ports, the scan records, the lists and the engine that they leave. -/

namespace Sys2Proof.Machine

/-! ## One operation on both sides of `Steady` -/

section
variable {b s : State}

/-- A change of one port by values on which `SameLink` agrees keeps `Steady`. -/
theorem onPort_steady_both (k : Head) (f : Port → Port) (hf : ∀ p q, SameLink p q → SameLink (f p) (f q))
    (hb : Steady b s) : Steady (b.onPort k f) (s.onPort k f) :=
  { hb with
    ports := fun j => by
      rw [onPort_ports, onPort_ports]
      by_cases same : j = k
      · subst same
        rw [get_set_same, get_set_same]
        exact hf _ _ (hb.ports j)
      · rw [get_set_other _ _ same, get_set_other _ _ same]
        exact hb.ports j }

theorem endWake_steady_both (k : Head) (hb : Steady b s) : Steady (endWake k b) (endWake k s) :=
  { hb with startWakes := congrArg (PerHead.set · k false) hb.startWakes }

/-- An exit from READY empties the list on both sides. -/
theorem leaveReady_steady_both (h : Head) (toFault : Bool) (hb : Steady b s) :
    Steady (b.onPort h fun p => { p with inFlight := [] }) (leaveReady h toFault s) :=
  leaveReady_steady h toFault (onPort_steady_both h _
    (fun _ _ k => ⟨k.state, k.faultRecord, k.wakeTimer, k.wakePending, k.seqCounter, k.config, k.timeoutInForce,
      k.linkWatch, k.sent, rfl⟩) hb)

end

/-! ## What an exit from READY leaves of the passes (R54) -/

/-- From `s` to `t` the geometry, the scan records, the revisit lists and the engine stand. -/
structure ScansStand (s t : State) : Prop where
  tracker : t.tracker = s.tracker
  zones : t.tg.zones = s.tg.zones
  scans : ∀ k, t.scan k = s.scan k
  lists : t.ru = s.ru
  order : t.oe = s.oe

section
variable {s t u : State}

theorem ScansStand.refl (s : State) : ScansStand s s := ⟨rfl, rfl, fun _ => rfl, rfl, rfl⟩

theorem ScansStand.trans (h : ScansStand s t) (k : ScansStand t u) : ScansStand s u :=
  ⟨k.tracker.trans h.tracker, k.zones.trans h.zones, fun j => (k.scans j).trans (h.scans j), k.lists.trans h.lists,
    k.order.trans h.order⟩

theorem OnlyStaging.scansStand (k : OnlyStaging s t) : ScansStand s t := by
  obtain ⟨_, _, _, _, _, rfl⟩ := k
  exact ⟨rfl, rfl, fun _ => rfl, rfl, rfl⟩

end

/-- From `s` to `t` the geometry and the scan records stand, and so do the revisit lists but for the next one and the
engine but for its counts. -/
structure OrderStands (s t : State) : Prop where
  tracker : t.tracker = s.tracker
  zones : t.tg.zones = s.tg.zones
  scans : ∀ k, t.scan k = s.scan k
  lists : t.ru = { s.ru with next := t.ru.next }
  order : t.oe = { s.oe with counts := t.oe.counts }

section
variable {s t u : State}

theorem OrderStands.trans (h : OrderStands s t) (k : OrderStands t u) : OrderStands s u :=
  ⟨k.tracker.trans h.tracker, k.zones.trans h.zones, fun j => (k.scans j).trans (h.scans j),
    by rw [k.lists, h.lists], by rw [k.order, h.order]⟩

theorem ScansStand.orderStands (k : ScansStand s t) : OrderStands s t :=
  ⟨k.tracker, k.zones, k.scans, by rw [k.lists], by rw [k.order]⟩

theorem OrderStands.refl (s : State) : OrderStands s s := ⟨rfl, rfl, fun _ => rfl, rfl, rfl⟩

theorem candidates_orderStands (h : Head) (reasons : Reasons) (l : List (Nat × Nat)) (s : State) :
    OrderStands s (candidates h reasons l s) := by
  obtain ⟨_, _, _, _, e, _⟩ := candidates_only h reasons l s
  rw [e]
  exact ⟨rfl, rfl, fun _ => rfl, rfl, rfl⟩

end

section
variable (h : Head) (s : State)

theorem endPassage_scansStand : ScansStand s (endPassage h s) := by
  unfold endPassage
  split
  · refine ⟨rfl, rfl, fun k => ?_, rfl, rfl⟩
    cases h <;> cases k <;> rfl
  · exact .refl s

/-- The unmarked scan groups of a head's list. -/
def State.openList (s : State) (h : Head) : List InFlight :=
  groupsOf ((s.ports.get h).inFlight.filter InFlight.openScan)

/-- The list of a head emptied at an exit from READY, its unmarked scan groups counted abandoned. -/
def State.emptied (s : State) (h : Head) : State :=
  countAbandoned (s.openList h).length (s.onPort h fun p => { p with inFlight := [] })

/-- What an exit from READY makes of the order: the list emptied, and at an exit to FAULT its points handed. -/
def State.exited (s : State) (h : Head) (toFault : Bool) : State :=
  if toFault = true then candidates h .ofHeadLost ((s.emptied h).lostPoints (s.openList h)) (s.emptied h)
  else s.emptied h

/-- The rest of an exit from READY concerns the pending gap and the open passage alone. -/
theorem leaveReady_scansStand (toFault : Bool) : ScansStand (s.exited h toFault) (leaveReady h toFault s) :=
  (groupsRemoved_onlyStaging h (s.openList h) _).scansStand.trans (endPassage_scansStand h _)

theorem emptied_eq : s.emptied h = { s.onPort h fun p => { p with inFlight := [] } with
    oe := { s.oe with counts := { s.oe.counts with
      abandoned := s.oe.counts.abandoned + if s.oe.active.isSome then (s.openList h).length else 0 } } } := by
  unfold State.emptied countAbandoned
  rw [onPort_oe]
  split <;> rfl

theorem exited_orderStands (toFault : Bool) : OrderStands s (s.exited h toFault) := by
  have emptied : OrderStands s (s.emptied h) := by
    rw [emptied_eq]
    exact ⟨rfl, rfl, fun _ => rfl, rfl, rfl⟩
  unfold State.exited
  split
  · exact emptied.trans (candidates_orderStands _ _ _ _)
  · exact emptied

theorem leaveReady_orderStands (toFault : Bool) : OrderStands s (leaveReady h toFault s) :=
  (exited_orderStands h s toFault).trans (leaveReady_scansStand h s toFault).orderStands

end

end Sys2Proof.Machine
end

section
/-! The light condition (R57 to R60, R140): the heads forced off, the engine's own step, and the heads woken. -/

namespace Sys2Proof.Machine

/-! ## Heads forced off (R58) -/

/-- SLEEP sent and FORCED_OFF with wake pending. -/
def Port.off (p : Port) : Port :=
  { p.send [.sleep] with state := .forcedOff, wakePending := true, wakeTimer := .stopped }

theorem off_link {p q : Port} (k : SameLink p q) : SameLink p.off q.off :=
  ⟨rfl, k.faultRecord, rfl, rfl, k.seqCounter, k.config, k.timeoutInForce, k.linkWatch,
    congrArg (· ++ [LinkMessage.sleep]) k.sent, k.inFlight⟩

/-- A port after its head is forced off. -/
def Port.forced (p : Port) : Port :=
  if p.state = .waking ∨ p.state = .ready then
    { p with
      state := .forcedOff
      wakePending := true
      wakeTimer := .stopped
      sent := p.sent ++ [.sleep]
      inFlight := if p.state = .ready then [] else p.inFlight }
  else p

/-- One head forced off, but for what its emptied list brings about. -/
def forcedAt (h : Head) (s : State) : State :=
  { s with
    ports := s.ports.set h (s.ports.get h).forced
    uc := { s.uc with
      startWakes := s.uc.startWakes.set h (s.uc.startWakes.get h && (s.ports.get h).state != .waking) } }

/-- A head that was not WAKING leaves the wakes that unit control waits for. -/
theorem startWakes_kept (wakes : HeadSet) (h : Head) {state : HeadState} (other : state ≠ .waking) :
    wakes.set h (wakes.get h && state != .waking) = wakes := by
  rw [bne_iff_ne.mpr other, Bool.and_true, set_get]

theorem forcedAt_comm (h k : Head) (s : State) : forcedAt k (forcedAt h s) = forcedAt h (forcedAt k s) := by
  by_cases same : h = k
  · rw [same]
  · cases h <;> cases k <;> first | exact absurd rfl same | rfl

section
variable {h : Head} {s : State}

theorem forceOff_waking (waking : (s.ports.get h).state = .waking) :
    forceOff h s = endWake h (s.onPort h Port.off) := by
  unfold forceOff
  simp only [waking]
  rfl

theorem forceOff_other_state (waking : (s.ports.get h).state ≠ .waking) (ready : (s.ports.get h).state ≠ .ready) :
    forceOff h s = s := by
  unfold forceOff
  cases state : (s.ports.get h).state with
  | waking => exact absurd state waking
  | ready => exact absurd state ready
  | off | fault | forcedOff => rfl

theorem forcedAt_waking (waking : (s.ports.get h).state = .waking) :
    forcedAt h s = endWake h (s.onPort h Port.off) := by
  unfold forcedAt Port.forced
  simp [waking, Port.off, Port.send, State.onPort, endWake]

theorem forcedAt_ready (ready : (s.ports.get h).state = .ready) :
    forcedAt h s = (s.onPort h fun p => { p with inFlight := [] }).onPort h Port.off := by
  unfold forcedAt Port.forced
  rw [startWakes_kept _ _ (by rw [ready]; exact nofun)]
  simp [ready, Port.off, Port.send, State.onPort]

theorem forcedAt_other_state (waking : (s.ports.get h).state ≠ .waking) (ready : (s.ports.get h).state ≠ .ready) :
    forcedAt h s = s := by
  unfold forcedAt Port.forced
  rw [startWakes_kept _ _ waking, if_neg (not_or_intro waking ready), set_get]

theorem forceOff_steady {b : State} (hb : Steady b s) : Steady (forcedAt h b) (forceOff h s) := by
  have state := (hb.ports h).state
  by_cases waking : (b.ports.get h).state = .waking
  · rw [forceOff_waking (state.trans waking), forcedAt_waking waking]
    exact endWake_steady_both h (onPort_steady_both h _ (fun _ _ => off_link) hb)
  · by_cases ready : (b.ports.get h).state = .ready
    · rw [forceOff_ready s h (state.trans ready), forcedAt_ready ready]
      exact onPort_steady_both h _ (fun _ _ => off_link) (leaveReady_steady_both h false hb)
    · rw [forceOff_other_state (state ▸ waking) (state ▸ ready), forcedAt_other_state waking ready]
      exact hb

theorem forceOff_orderStands (h : Head) (s : State) : OrderStands s (forceOff h s) := by
  by_cases ready : (s.ports.get h).state = .ready
  · rw [forceOff_ready s h ready]
    exact (leaveReady_orderStands h s false).trans ⟨rfl, rfl, fun _ => rfl, rfl, rfl⟩
  · by_cases waking : (s.ports.get h).state = .waking
    · rw [forceOff_waking waking]
      exact ⟨rfl, rfl, fun _ => rfl, rfl, rfl⟩
    · rw [forceOff_other_state waking ready]
      exact .refl s

end

/-! ## An operation in a free order, by what it does in some order (log 6) -/

section
variable {α : Type} (R : State → State → Prop) (f g : α → State → State)

/-- Where each operation `f x` on the one side answers `g x` on the other, operations in a free order answer those of
some order. -/
theorem inFreeOrder_simulated (step : ∀ x b s, R b s → R (g x b) (f x s))
    (chosen : ∀ n b s, R b s → R b (s.chosen n)) (n : Nat) (xs : List α) (b s : State) (len : xs.length = n)
    (hs : R b s) : ∃ ys : List α, ys.Perm xs ∧ R (ys.foldl (fun b x => g x b) b) (inFreeOrder f n xs s) := by
  induction n generalizing xs b s with
  | zero => exact ⟨xs, .refl xs, by rw [List.length_eq_zero_iff.mp len]; exact hs⟩
  | succ n ih =>
    have lt : s.choice xs.length < xs.length := choice_lt s (by omega)
    unfold inFreeOrder
    simp only [List.getElem?_eq_getElem lt]
    obtain ⟨ys, perm, r⟩ := ih (xs.eraseIdx (s.choice xs.length)) _ _
      (by rw [List.length_eraseIdx_of_lt lt, len, Nat.add_sub_cancel])
      (step xs[s.choice xs.length] _ _ (chosen xs.length _ _ hs))
    exact ⟨xs[s.choice xs.length] :: ys, (perm.cons _).trans (List.getElem_cons_eraseIdx_perm lt), r⟩

theorem foldl_simulated (step : ∀ x b s, R b s → R (g x b) (f x s)) (xs : List α) (b s : State) (hs : R b s) :
    R (xs.foldl (fun b x => g x b) b) (xs.foldl (fun s x => f x s) s) := by
  induction xs generalizing b s with
  | nil => exact hs
  | cons x xs ih => exact ih _ _ (step x b s hs)

end

/-- Where the operations answered are the same in any order, an operation for every head answers them head by head. -/
theorem forHeadsFree_simulated (R : State → State → Prop) (p : Head → Bool) (f g : Head → State → State)
    (step : ∀ h b s, R b s → R (g h b) (f h s)) (chosen : ∀ n b s, R b s → R b (s.chosen n))
    (comm : ∀ h k s, g k (g h s) = g h (g k s)) (b s : State) (hs : R b s) :
    R (forHeads g b) (forHeadsFree p f s) := by
  obtain ⟨ys, perm, r⟩ := inFreeOrder_simulated R f g step chosen _ (Head.all.filter p) _ _ rfl
    (foldl_simulated R f g step (Head.all.filter fun h => !p h) b s hs)
  have whole : ((Head.all.filter fun h => !p h) ++ ys).Perm Head.all :=
    (perm.append_left _).trans (List.perm_append_comm.trans (List.filter_append_perm p Head.all))
  rw [← List.foldl_append, whole.foldl_eq' fun h _ k _ s => comm h k s] at r
  exact r

/-! ## The light condition becoming present (R58, R140) -/

section
variable (s : State)

/-- The state in which the supply is judged LOW, the condition present, and LIGHT_LOW set. -/
def lightNoted : State := setNotice .lightLow { s with light := { s.light with judgement := .low, present := true } }

theorem exec_lightJudgedLow_again (low : s.light.judgement = .low) : exec .lightJudgedLow s = .next s :=
  congrArg Host.Outcome.next (if_pos low)

theorem exec_lightJudgedLow_present (judged : s.light.judgement ≠ .low) (present : s.light.present = true) :
    exec .lightJudgedLow s = .next { s with light := { s.light with judgement := .low } } :=
  congrArg Host.Outcome.next ((if_neg judged).trans (if_pos present))

theorem forHeads_forcedAt : forHeads forcedAt s = { s with
    ports := s.ports.map Port.forced
    uc := { s.uc with startWakes := .of fun h => s.uc.startWakes.get h && (s.ports.get h).state != .waking } } := rfl

theorem lightLost_steady {b : State} (hb : Steady b s) : Steady b (lightLost s) := by
  unfold lightLost
  split
  · exact enterLightWait_steady _ hb
  · exact enterLightWait_steady _ hb
  · exact hb

/-- At a light loss every head is forced off, and nothing but steps of the part's own comes beside it. -/
theorem lightFails_steady {b : State} (hb : Steady b (lightNoted s)) :
    Steady (forHeads forcedAt b) (lightFails { s with light := { s.light with judgement := .low } }) :=
  forHeadsFree_simulated Steady _ forceOff forcedAt (fun _ _ _ => forceOff_steady)
    (fun n _ _ hb => chosen_steady n hb) forcedAt_comm _ _ (lightLost_steady _ hb)

/-- Heads forced off leave the engine and the scan records where the engine's own step has put them. -/
theorem lightFails_orderStands :
    OrderStands (lightLost (lightNoted s)) (lightFails { s with light := { s.light with judgement := .low } }) :=
  forHeadsFree_kept (OrderStands (lightLost (lightNoted s))) _ forceOff
    (fun h u k => k.trans (forceOff_orderStands h u))
    (fun n u k => k.trans (chosen_onlyStaging n u).scansStand.orderStands) _ (.refl _)

theorem lightLost_interrupts (runs : s.oe.engine = .acquiring ∨ s.oe.engine = .revisiting) :
    lightLost s = enterLightWait (s.orderKind == some .scan) s := by
  unfold lightLost
  rcases runs with e | e <;> simp only [e]

theorem lightLost_stands (acquiring : s.oe.engine ≠ .acquiring) (revisiting : s.oe.engine ≠ .revisiting) :
    lightLost s = s := by
  unfold lightLost
  split
  · exact absurd ‹_› acquiring
  · exact absurd ‹_› revisiting
  · rfl

end

/-! ## The light condition clears (R59, R60) -/

theorem sendWake_held {p : Port} {c : HeadConfig} (held : p.config = some c) (now : Time) : p.sendWake now = { p with
    state := .waking
    wakePending := false
    wakeTimer := .running now 100000
    seqCounter := 0
    timeoutInForce := c.timeout
    sent := p.sent ++ [.wake c.codes c.timeout] } := by
  unfold Port.sendWake
  split
  · rename_i absent
    exact absurd (held.symm.trans absent) nofun
  · rename_i d same
    cases held.symm.trans same
    rfl

theorem sendWake_unheld {p : Port} (unheld : p.config = none) (now : Time) : p.sendWake now = p := by
  unfold Port.sendWake
  rw [unheld]

/-- A port after the light condition clears. -/
def Port.wokenAt (p : Port) (now : Time) : Port :=
  if p.state = .forcedOff ∧ p.wakePending = true then p.sendWake now else p

section
variable (s : State)

theorem wakePended_eq (h : Head) : wakePended h s = s.onPort h fun p => p.wokenAt s.xe.time := by
  unfold wakePended Port.wokenAt
  split
  · exact congrArg (fun p => { s with ports := s.ports.set h p }) (if_pos ‹_›).symm
  · exact (onPort_same s h _ (if_neg ‹_›)).symm

theorem lightClears_eq : lightClears s = { s with
    light := { s.light with present := false }, ports := s.ports.map fun p => p.wokenAt s.xe.time } := by
  unfold lightClears forHeads
  simp only [wakePended_eq]
  rfl

theorem exec_lightJudgedGood_again (good : s.light.judgement = .good) : exec .lightJudgedGood s = .next s :=
  congrArg Host.Outcome.next (if_pos good)

theorem exec_lightJudgedGood_clears (judged : s.light.judgement ≠ .good)
    (clears : s.light.present = true ∧ s.light.mode = .auto) :
    exec .lightJudgedGood s
      = .next (settle (lightClears { s with light := { s.light with judgement := .good } })) :=
  congrArg Host.Outcome.next ((if_neg judged).trans (if_pos (by simpa using clears)))

theorem exec_lightJudgedGood_stands (judged : s.light.judgement ≠ .good)
    (stands : ¬(s.light.present = true ∧ s.light.mode = .auto)) :
    exec .lightJudgedGood s = .next { s with light := { s.light with judgement := .good } } :=
  congrArg Host.Outcome.next ((if_neg judged).trans (if_neg (by simpa using stands)))

end

end Sys2Proof.Machine
end

section
/-! A head's entry to FAULT (R45, R54): the commands that bring it, the list left, and the port in FAULT. -/

namespace Sys2Proof.Machine

/-! ## The commands that bring a head to FAULT (R40, R42, R44) -/

/-- Command `e` brings head `h`, in WAKING or READY, to FAULT with record `r`. -/
def HeadFaults (s : State) (h : Head) (e : Instr) (r : FaultRecord) : Prop :=
  (((s.ports.get h).state = .waking ∨ (s.ports.get h).state = .ready)
    ∧ ((∃ code, code ≠ 0 ∧ e = .alertReceived h code ∧ r = .head code)
      ∨ (e = .frameError h ∧ r = .port .linkFrame)
      ∨ ((s.ports.get h).linkWatch = true ∧ e = .linkLoss h ∧ r = .port .linkLost)))
  ∨ ((s.ports.get h).state = .waking ∧ (s.ports.get h).wakeTimer ≠ .stopped ∧ e = .wakeTimerExpiry h
      ∧ r = .port .wakeTimeout)
  ∨ ((s.ports.get h).state = .ready ∧ ((e = .readyReceived h ∧ r = .port .linkState)
      ∨ ∃ m, (∀ x, oldestOpen (s.ports.get h).inFlight = some x → x.seq ≠ m.seq) ∧ e = .sampleReceived h m
          ∧ r = .port .linkOrder))

/-- The link watch of a head as a command leaves it: lapsed by a link loss (log 10). -/
def State.watched (s : State) (h : Head) (e : Instr) : State :=
  s.onPort h fun p => { p with linkWatch := if e = .linkLoss h then false else p.linkWatch }

section
variable {s : State} {h : Head} {e : Instr} {r : FaultRecord}

theorem watched_lost (s : State) (h : Head) :
    s.watched h (.linkLoss h) = s.onPort h fun p => { p with linkWatch := false } := by
  unfold State.watched
  simp only [if_true]

theorem watched_other (other : e ≠ .linkLoss h) : s.watched h e = s := by
  unfold State.watched
  simp only [if_neg other]
  exact onPort_same s h _ rfl

/-- Each of these commands is the entry to FAULT, with the link watch as it leaves it, and then the steps at the end of
the event. -/
theorem exec_headFaults (cause : HeadFaults s h e r) :
    exec e s = .next (settle (headFault h r (s.watched h e))) := by
  rcases cause with ⟨awake, ⟨code, coded, rfl, rfl⟩ | ⟨rfl, rfl⟩ | ⟨watch, rfl, rfl⟩⟩ | ⟨waking, running, rfl, rfl⟩
    | ⟨ready, ⟨rfl, rfl⟩ | ⟨m, unawaited, rfl, rfl⟩⟩
  · rw [watched_other (e := .alertReceived h code) nofun]
    exact exec_alertReceived_judged coded awake
  · rw [watched_other (e := .frameError h) nofun, exec_frameError, portFault_judged _ awake]
  · have judged : (s.watched h (.linkLoss h)).judged h := by
      rw [watched_lost, State.judged, onPort_ports, get_set_same]
      exact awake
    rw [exec_linkLoss_running watch, ← watched_lost, portFault_judged _ judged]
  · rw [watched_other (e := .wakeTimerExpiry h) nofun]
    exact exec_wakeTimerExpiry_running waking running
  · rw [watched_other (e := .readyReceived h) nofun]
    exact exec_readyReceived_ready ready
  · rw [watched_other (e := .sampleReceived h m) nofun]
    exact exec_unexpectedSample s h m ready unawaited

end

/-! ## The groups of an emptied list (R54) -/

section
variable (s : State) (h : Head)

theorem openList_eq : s.openList h
    = (s.ports.get h).inFlight.filter fun x => x.ordinal == 1 && !x.abandoned && x.pass.kind != .reference := by
  unfold State.openList groupsOf InFlight.openScan
  rw [List.filter_filter]
  simp only [Bool.and_assoc]

/-- The points handed at an exit to FAULT: those of the groups that yield a candidate. -/
theorem lostPoints_emptied : (s.emptied h).lostPoints (s.openList h)
    = ((s.openList h).filter fun x => s.yieldsCandidate x.pass (x.zone.getD 0)).map fun x =>
        (x.point, x.zone.getD 0) := by
  rw [emptied_eq]
  rfl

theorem watched_port (e : Instr) : (s.watched h e).ports.get h
    = { s.ports.get h with linkWatch := if e = .linkLoss h then false else (s.ports.get h).linkWatch } :=
  get_set_same _ _ _

theorem watched_orderStands (e : Instr) : OrderStands s (s.watched h e) := ⟨rfl, rfl, fun _ => rfl, rfl, rfl⟩

end

/-! ## The head in FAULT, before an exclusion (R45, R54) -/

/-- The port of a head that has entered FAULT. -/
def Port.faulted (r : FaultRecord) (p : Port) : Port :=
  { p with state := .fault, faultRecord := r, wakeTimer := .stopped }

/-- The list of a head handed and emptied where it leaves READY for FAULT. -/
def State.listLeft (s : State) (h : Head) : State := if (s.ports.get h).state = .ready then s.exited h true else s

/-- The list emptied where the head leaves READY, with the pending gap and the open passage. -/
def State.readyLeft (s : State) (h : Head) : State :=
  if (s.ports.get h).state = .ready then leaveReady h true s else s

/-- The head in FAULT with its record, its wake of START ended and HEAD_FAULT set. -/
def State.faultTaken (s : State) (h : Head) (r : FaultRecord) : State :=
  setNotice .headFault (endWake h ((s.readyLeft h).onPort h (Port.faulted r)))

section
variable (s : State) (h : Head) (r : FaultRecord)

theorem headFault_eq : headFault h r s
    = if (s.faultTaken h r).excludes h then excludeHead h (s.faultTaken h r) else s.faultTaken h r := rfl

theorem faultTaken_scansStand : ScansStand (s.listLeft h) (s.faultTaken h r) := by
  have left : ScansStand (s.listLeft h) (s.readyLeft h) := by
    unfold State.listLeft State.readyLeft
    split
    · exact leaveReady_scansStand h s true
    · exact .refl s
  exact left.trans ⟨rfl, rfl, fun _ => rfl, rfl, rfl⟩

theorem listLeft_orderStands : OrderStands s (s.listLeft h) := by
  unfold State.listLeft
  split
  · exact exited_orderStands h s true
  · exact .refl s

theorem faultTaken_orderStands : OrderStands s (s.faultTaken h r) :=
  (listLeft_orderStands s h).trans (faultTaken_scansStand s h r).orderStands

theorem faulted_link {p q : Port} (k : SameLink p q) : SameLink (p.faulted r) (q.faulted r) :=
  ⟨rfl, rfl, rfl, k.wakePending, k.seqCounter, k.config, k.timeoutInForce, k.linkWatch, k.sent, k.inFlight⟩

/-- The entry to FAULT is no change but the port's own and the wake's end, beside the steps of `Steady`. -/
theorem headFault_steady : Steady
    (endWake h (s.onPort h fun p => Port.faulted r { p with inFlight := if p.state = .ready then [] else p.inFlight }))
    (headFault h r s) := by
  have left : Steady (s.onPort h fun p => { p with inFlight := if p.state = .ready then [] else p.inFlight })
      (s.readyLeft h) := by
    unfold State.readyLeft
    split
    · have emptied := leaveReady_steady_both h true (Steady.refl s)
      simp only [State.onPort, if_pos ‹(s.ports.get h).state = .ready›] at emptied ⊢
      exact emptied
    · rw [onPort_same s h _ (by simp only [if_neg ‹¬(s.ports.get h).state = .ready›])]
      exact Steady.refl s
  have taken := setNotice_steady .headFault
    (endWake_steady_both h (onPort_steady_both h _ (fun _ _ => faulted_link r) left))
  rw [onPort_onPort] at taken
  rw [headFault_eq]
  exact ite_steady (excludeHead_steady h taken) taken

theorem headFault_notice : (headFault h r s).notice .headFault = true := by
  have set : (s.faultTaken h r).notice .headFault = true := setNotice_notice _ _ _ (.inr rfl)
  rw [headFault_eq]
  split
  · exact (excludeHead_steady h (Steady.refl _)).notices .headFault set
  · exact set

end

/-- The list left by a READY head at a command that brings it to FAULT: its groups counted abandoned, and the points of
those that yield a candidate handed. -/
theorem listLeft_watched_ready (s : State) (h : Head) (e : Instr) (ready : (s.ports.get h).state = .ready) :
    (s.watched h e).listLeft h = candidates h .ofHeadLost
      (((s.openList h).filter fun x => s.yieldsCandidate x.pass (x.zone.getD 0)).map fun x =>
        (x.point, x.zone.getD 0))
      { s with
        ports := s.ports.set h { s.ports.get h with
          inFlight := [], linkWatch := if e = .linkLoss h then false else (s.ports.get h).linkWatch }
        oe := { s.oe with counts := { s.oe.counts with
          abandoned := s.oe.counts.abandoned + (if s.oe.active.isSome then (s.openList h).length else 0) } } } := by
  have sameList : (s.watched h e).openList h = s.openList h := by rw [openList_eq, openList_eq, watched_port]
  unfold State.listLeft State.exited
  rw [watched_port, if_pos ready, if_pos rfl, lostPoints_emptied, emptied_eq, sameList]
  simp only [State.onPort, State.watched, get_set_same, set_set]
  rfl

/-- A head that was not READY leaves its list as it is. -/
theorem listLeft_watched_other (s : State) (h : Head) (e : Instr) (other : (s.ports.get h).state ≠ .ready) :
    ScansStand s ((s.watched h e).listLeft h) := by
  unfold State.listLeft
  rw [watched_port, if_neg other]
  exact ⟨rfl, rfl, fun _ => rfl, rfl, rfl⟩

end Sys2Proof.Machine
end

section
/-! The exclusion of a head from a running order (R36, R37, R135): its points, the engine, and the records staged. -/

namespace Sys2Proof.Machine

/-! ## The points withheld by an exclusion (R36) -/

section
variable {s t : State}

theorem OrderStands.cpr (k : OrderStands s t) : t.cpr = s.cpr := by
  unfold State.cpr
  rw [k.tracker]

theorem OrderStands.current (k : OrderStands s t) : t.ru.current = s.ru.current := by rw [k.lists]

theorem OrderStands.active (k : OrderStands s t) : t.oe.active = s.oe.active := by rw [k.order]

theorem OrderStands.excludes (k : OrderStands s t) (h : Head) : t.excludes h = s.excludes h := by
  unfold State.excludes State.inOrder State.mask State.orderKind
  rw [k.order]

theorem yieldsCandidate_congr (active : t.oe.active = s.oe.active) (zones : t.tg.zones = s.tg.zones) (pass : PassId)
    (zone : Nat) : t.yieldsCandidate pass zone = s.yieldsCandidate pass zone := by
  unfold State.yieldsCandidate State.finalPass State.revolutions State.zone
  rw [active, zones]

/-- The points withheld depend on the geometry, the scan record and the current list alone. -/
theorem OrderStands.excludedPoints (k : OrderStands s t) (z : ZoneTable) (h : Head) :
    t.bladePoints z (t.excludedPoints z h) = s.bladePoints z (s.excludedPoints z h) := by
  have all : ∀ pass, t.allPoints z h pass = s.allPoints z h pass := by
    intro pass
    unfold State.allPoints
    rw [k.cpr, k.current]
  have later : ∀ pass next, t.pointsFrom z h pass next = s.pointsFrom z h pass next := by
    intro pass next
    cases next with
    | none => rfl
    | some a => simp only [State.pointsFrom, k.cpr, k.current]
  unfold State.bladePoints State.excludedPoints
  simp only [k.scans, all, later, k.cpr]

/-- A scan record disarmed is NOT_ARMED, and nothing of the lists or the engine changes. -/
theorem disarmScan_blocks (h : Head) (s : State) : ((disarmScan h s).scan h).state = .notArmed
    ∧ (disarmScan h s).tg.zones = s.tg.zones ∧ SameLists s (disarmScan h s) ∧ (disarmScan h s).oe = s.oe := by
  obtain ⟨_, _, _, _, _, e⟩ := offerGap_onlyStaging h (disarmScanOnly h s)
  unfold disarmScan
  rw [e]
  refine ⟨?_, rfl, ⟨rfl, rfl, rfl⟩, rfl⟩
  simp [State.scan, disarmScanOnly, PassRecord.disarmed]

end

/-- The candidates of the points that an exclusion withholds, in ascending offset. -/
def State.lostCandidates (s : State) (h : Head) (t : ZoneTable) : List (Nat × Nat) :=
  (s.bladePoints t (s.excludedPoints t h)).filter fun p => s.yieldsCandidate (s.scan h).lostPass p.2

theorem OrderStands.lostCandidates {s t : State} (k : OrderStands s t) (h : Head) (z : ZoneTable) :
    t.lostCandidates h z = s.lostCandidates h z := by
  unfold State.lostCandidates
  rw [k.excludedPoints, k.scans]
  exact List.filter_congr fun p _ => yieldsCandidate_congr k.active k.zones _ _

/-! ## The engine at an exclusion (R135) -/

section
variable (s : State) (h : Head)

/-- The record of a head in the engine's order: excluded. -/
def State.excluding : State := s.onOrder fun o => { o with excluded := o.excluded.set h true }

/-- An exclusion before the engine looks for a last head. -/
def State.headExcluded : State := unawait h (excludeScan h (s.excluding h))

theorem excludeHead_eq : excludeHead h s
    = if (s.headExcluded h).workingHeads.isEmpty then endCondition ⟨.headsLost, 0⟩ (s.headExcluded h)
      else s.headExcluded h := rfl

/-- The Trigger Generator's part of an exclusion: the scan record NOT_ARMED, and of the engine what candidates
change. -/
theorem excludeScan_blocks : ((excludeScan h s).scan h).state = .notArmed
    ∧ ∃ created lost, (excludeScan h s).oe
      = { s.oe with counts := { s.oe.counts with created := created, lost := lost } } := by
  obtain ⟨state, _, _, oe⟩ := disarmScan_blocks h s
  unfold excludeScan
  split
  · exact ⟨state, s.oe.counts.created, s.oe.counts.lost, oe⟩
  · rename_i t _
    obtain ⟨_, _, _, _, _, staged⟩ := handWithheld_only h .headLost .ofHeadLost (s.scan h).lostPass
      (s.bladePoints t (s.excludedPoints t h)) (disarmScan h s)
    obtain ⟨_, created, lost, _, handed, _⟩ := candidates_only h .ofHeadLost
      ((s.bladePoints t (s.excludedPoints t h)).filter fun p =>
        (disarmScan h s).yieldsCandidate (s.scan h).lostPass p.2) (disarmScan h s)
    rw [State.scan, handWithheld_tg, staged, handed]
    exact ⟨state, created, lost, by rw [oe]⟩

theorem headExcluded_oe : ∃ created lost, (s.headExcluded h).oe = { s.oe with
    excluded := s.oe.excluded.set h true, counts := { s.oe.counts with created := created, lost := lost } } := by
  obtain ⟨_, created, lost, oe⟩ := excludeScan_blocks (s.excluding h) h
  exact ⟨created, lost, oe⟩

/-- The entry to CLOSING leaves the excluded heads and the counts. -/
theorem enterClosing_order (slot : EndSlot) : (enterClosing slot s).oe.excluded = s.oe.excluded
    ∧ (enterClosing slot s).oe.counts = s.oe.counts := by
  unfold enterClosing
  obtain ⟨_, _, _, _, _, _, _, e, _⟩ := closingBlocks (s.onOrder fun o =>
    { o with engine := .closing, endSlot := some slot, stage := .orderBegin, interrupting := false,
             marker := keptMarker o.marker })
  dsimp only
  rw [e]
  unfold openClosing holdMarker
  repeat' split
  · exact ⟨rfl, rfl⟩
  · rw [takeRecord_oe]
    exact ⟨rfl, rfl⟩
  · exact ⟨rfl, rfl⟩
  · exact ⟨rfl, rfl⟩

/-- An excluded head after whatever end condition: its record NOT_ARMED, the head awaited no longer. -/
theorem excludeHead_spec : (excludeHead h s).oe.excluded = s.oe.excluded.set h true
    ∧ (excludeHead h s).oe.counts.abandoned = s.oe.counts.abandoned
    ∧ ((excludeHead h s).scan h).state = .notArmed ∧ (excludeHead h s).ru.awaited.get h = false := by
  obtain ⟨state, _⟩ := excludeScan_blocks (s.excluding h) h
  obtain ⟨_, _, oe⟩ := headExcluded_oe s h
  have stays : (s.headExcluded h).oe.excluded = s.oe.excluded.set h true
      ∧ (s.headExcluded h).oe.counts.abandoned = s.oe.counts.abandoned
      ∧ ((s.headExcluded h).scan h).state = .notArmed ∧ (s.headExcluded h).ru.awaited.get h = false := by
    rw [oe]
    exact ⟨rfl, rfl, state, get_set_same _ _ _⟩
  rw [excludeHead_eq]
  split
  · by_cases ends : (s.headExcluded h).oe.engine.running = true ∧ (s.headExcluded h).oe.endSlot = none
    · rw [endCondition_taken _ _ ends.1 ends.2]
      obtain ⟨_, _, _, _, _, _, _, _, ru, _, _, records⟩ :=
        enterClosing_spec ⟨.headsLost, 0⟩ (emptyLists .idle (s.headExcluded h))
      obtain ⟨excluded, counts⟩ := enterClosing_order (emptyLists .idle (s.headExcluded h)) ⟨.headsLost, 0⟩
      obtain ⟨disarmed, _⟩ := records h
      obtain ⟨becomes, kept, _⟩ := stays
      refine ⟨excluded.trans becomes, (congrArg Counts.abandoned counts).trans kept, disarmed, ?_⟩
      rw [ru]
      exact get_all false h
    · rw [endCondition_not _ _ (by simpa [or_iff_not_imp_left] using ends)]
      exact stays
  · exact stays

theorem workingHeads_isEmpty (u : State) : u.workingHeads.isEmpty = true
    ↔ ∀ k, u.mask.get k = true → u.oe.excluded.get k = true := by
  unfold State.workingHeads
  rw [List.isEmpty_iff, List.filter_eq_nil_iff]
  refine ⟨fun all k named => ?_, fun all k _ working => ?_⟩
  · simpa [State.inOrder, named] using all k (mem_all k)
  · simp only [State.inOrder, Bool.and_eq_true, Bool.not_eq_true'] at working
    exact absurd (all k working.1) (by simp [working.2])

/-- No working head is left where every other head of the mask has been excluded before. -/
theorem headExcluded_isEmpty : (s.headExcluded h).workingHeads.isEmpty = true
    ↔ ∀ k, s.mask.get k = true → k = h ∨ s.oe.excluded.get k = true := by
  obtain ⟨_, _, oe⟩ := headExcluded_oe s h
  rw [workingHeads_isEmpty, State.mask, oe]
  refine forall_congr' fun k => imp_congr_right fun _ => ?_
  by_cases same : k = h
  · subst same
    simp
  · rw [get_set_other _ _ same, or_iff_right same]

theorem excludes_iff : s.excludes h = true ↔ s.oe.engine.running = true ∧ s.oe.endSlot = none
    ∧ s.mask.get h = true ∧ s.oe.excluded.get h = false
    ∧ (s.orderKind = some .scan ∨ s.orderKind = some .calibrateReference) := by
  unfold State.excludes State.inOrder
  simp only [Bool.and_eq_true, Option.isNone_iff_eq_none, Bool.not_eq_true', Bool.or_eq_true, beq_iff_eq, and_assoc]

/-- The exclusion of a head of a running order whose end is open, the last of the mask: CLOSING with HEADS_LOST. -/
theorem excludeHead_last (running : s.oe.engine.running = true) (undecided : s.oe.endSlot = none)
    (last : ∀ k, s.mask.get k = true → k = h ∨ s.oe.excluded.get k = true) :
    (excludeHead h s).oe.engine = .closing ∧ (excludeHead h s).oe.endSlot = some ⟨.headsLost, 0⟩ := by
  obtain ⟨_, _, oe⟩ := headExcluded_oe s h
  rw [excludeHead_eq, if_pos ((headExcluded_isEmpty s h).mpr last),
    endCondition_taken _ _ (by rw [oe]; exact running) (by rw [oe]; exact undecided)]
  obtain ⟨closing, slot, _⟩ := enterClosing_spec ⟨.headsLost, 0⟩ (emptyLists .idle (s.headExcluded h))
  exact ⟨closing, slot⟩

theorem excludeHead_others (others : ¬∀ k, s.mask.get k = true → k = h ∨ s.oe.excluded.get k = true) :
    excludeHead h s = s.headExcluded h := by
  rw [excludeHead_eq, if_neg (mt (headExcluded_isEmpty s h).mp others)]

end

/-! ## The records staged at an exclusion (R37, R155, R156) -/

/-- From `s` to `t` the records staged, with the head's pending gap as if it were staged, stand, and so do the order's
tag and the head's held HEAD_LOST record. -/
structure GapStands (h : Head) (s t : State) : Prop where
  records : t.sb.staged ++ t.gapRecords h = s.sb.staged ++ s.gapRecords h
  tag : t.oe.activeTag = s.oe.activeTag
  held : (t.ports.get h).heldHeadLost = (s.ports.get h).heldHeadLost

section
variable {h : Head} {s t u : State}

theorem GapStands.trans (k : GapStands h s t) (l : GapStands h t u) : GapStands h s u :=
  ⟨l.records.trans k.records, l.tag.trans k.tag, l.held.trans k.held⟩

/-- Nothing but the staged records, the order's tag and the head's own gaps is looked at. -/
theorem GapStands.same (sb : t.sb.staged = s.sb.staged) (tag : t.oe.activeTag = s.oe.activeTag)
    (gap : (t.ports.get h).gap = (s.ports.get h).gap) (waits : (t.ports.get h).gapWaits = (s.ports.get h).gapWaits)
    (held : (t.ports.get h).heldHeadLost = (s.ports.get h).heldHeadLost) : GapStands h s t :=
  ⟨by unfold State.gapRecords; rw [sb, tag, gap, waits], tag, held⟩

end

section
variable (h : Head) (s : State)

theorem offerGap_heldHeadLost : ((offerGap h s).ports.get h).heldHeadLost = (s.ports.get h).heldHeadLost := by
  obtain ⟨_, _, e⟩ := offerGap_ports h s
  rw [e, get_set_same]

/-- With room for it no pending gap is left to offer. -/
theorem offerGap_gapRecords (room : s.sb.staged.length < 1024) : (offerGap h s).gapRecords h = [] := by
  cases gap : (s.ports.get h).gap with
  | none => simp [offerGap, State.gapRecords, gap]
  | some g =>
    cases waits : (s.ports.get h).gapWaits with
    | true => simp [offerGap, State.gapRecords, gap, waits]
    | false => simp [offerGap, State.gapRecords, gap, waits, hasRoom_other (.gap (g.record h)) s rfl room, takeGap]

theorem offerGap_gapStands (room : s.sb.staged.length < 1024) : GapStands h s (offerGap h s) := by
  refine ⟨?_, (offerGap_steady h (Steady.refl s)).activeTag, offerGap_heldHeadLost h s⟩
  rw [offerGap_gapRecords h s room, offerGap_staged_gapRecords h s room, List.append_nil]

theorem endPassage_gapStands : GapStands h s (endPassage h s) := by
  unfold endPassage
  split
  · refine GapStands.same rfl rfl ?_ ?_ ?_ <;> simp [disarmRef, Port.marked]
  · exact ⟨rfl, rfl, rfl⟩

theorem groupsRemoved_gapStands (gs : List InFlight) (room : s.sb.staged.length < 1024) :
    GapStands h s (groupsRemoved h gs s) := by
  unfold groupsRemoved
  split
  · exact offerGap_gapStands h s room
  · exact ⟨rfl, rfl, rfl⟩

theorem candidates_gapStands (reasons : Reasons) (l : List (Nat × Nat)) :
    GapStands h s (candidates h reasons l s) := by
  obtain ⟨_, _, _, _, e, _⟩ := candidates_only h reasons l s
  rw [e]
  exact ⟨rfl, rfl, rfl⟩

theorem exited_gapStands (toFault : Bool) :
    GapStands h s (s.exited h toFault) ∧ (s.exited h toFault).sb = s.sb := by
  have emptied : GapStands h s (s.emptied h) ∧ (s.emptied h).sb = s.sb := by
    rw [emptied_eq]
    refine ⟨GapStands.same rfl rfl ?_ ?_ ?_, rfl⟩ <;> simp
  unfold State.exited
  split
  · exact ⟨emptied.1.trans (candidates_gapStands h _ _ _), (candidates_staging h _ _ _).1.trans emptied.2⟩
  · exact emptied

/-- The gap offered at a head's entry to FAULT is the first record of that event. -/
theorem faultTaken_gapStands (r : FaultRecord) (room : s.sb.staged.length < 1024) :
    GapStands h s (s.faultTaken h r) := by
  have left : GapStands h s (s.readyLeft h) := by
    unfold State.readyLeft
    split
    · obtain ⟨exited, sb⟩ := exited_gapStands h s true
      exact exited.trans ((groupsRemoved_gapStands h (s.exited h true) (s.openList h) (by rw [sb]; exact room)).trans
        (endPassage_gapStands h _))
    · exact ⟨rfl, rfl, rfl⟩
  refine left.trans (GapStands.same rfl rfl ?_ ?_ ?_) <;> simp [State.faultTaken, setNotice, Port.faulted]

theorem watched_gapStands (e : Instr) : GapStands h s (s.watched h e) := by
  refine GapStands.same rfl rfl ?_ ?_ ?_ <;> rw [watched_port]

theorem disarmScan_gapStands (room : s.sb.staged.length < 1024) :
    GapStands h s (disarmScan h s) ∧ (disarmScan h s).gapRecords h = [] := by
  have disarmed : GapStands h s (disarmScanOnly h s) := ⟨rfl, rfl, rfl⟩
  exact ⟨disarmed.trans (offerGap_gapStands h _ room), offerGap_gapRecords h (disarmScanOnly h s) room⟩

/-- With room for the pending gap and for one record more, and none held, a HEAD_LOST record is staged after the gap. -/
theorem offerHeadLost_room (x : GapRecord) (lost : x.reason = .headLost)
    (room : (s.sb.staged ++ s.gapRecords h).length < 1024) (unheld : (s.ports.get h).heldHeadLost = none) :
    (offerPortRecord h x (offerGap h s)).sb.staged
      = s.sb.staged ++ s.gapRecords h ++ [⟨.gap x, s.oe.activeTag⟩] := by
  have staged := offerGap_staged_gapRecords h s (by rw [List.length_append] at room; omega)
  have free : (offerGap h s).hasRoom (.gap x) = true :=
    hasRoom_other (.gap x) _ rfl (by rw [staged]; exact room)
  have holds : ((offerGap h s).ports.get h).holds x = false := by
    rw [Port.holds, lost]
    dsimp only
    rw [offerGap_heldHeadLost, unheld]
    rfl
  unfold offerPortRecord
  rw [holds, free, Bool.not_false, Bool.and_self, if_pos rfl, takeRecord_room _ _ free, staged,
    (offerGap_steady h (Steady.refl s)).activeTag]

end

/-! ## The Trigger Generator's part of an exclusion, with a zone table installed (R36, R37) -/

section
variable (s : State) (h : Head) {t : ZoneTable} (zones : s.tg.zones = some t)
include zones

theorem excludeScan_eq : excludeScan h s
    = handWithheld h .headLost .ofHeadLost (s.scan h).lostPass (s.bladePoints t (s.excludedPoints t h))
        (disarmScan h s) := by
  unfold excludeScan
  simp only [zones]

/-- The lists and the engine after an exclusion, from any state that agrees in lists, geometry and counts. -/
theorem excludeScan_handed {b : State} (lists : SameLists b s) (counts : s.oe.counts = b.oe.counts) :
    (excludeScan h s).ru = (candidates h .ofHeadLost (s.lostCandidates h t) b).ru
    ∧ (excludeScan h s).oe
      = { s.oe with counts := (candidates h .ofHeadLost (s.lostCandidates h t) b).oe.counts } := by
  obtain ⟨_, sameZones, same, oe⟩ := disarmScan_blocks h s
  have yields : (fun p : Nat × Nat => (disarmScan h s).yieldsCandidate (s.scan h).lostPass p.2)
      = fun p => s.yieldsCandidate (s.scan h).lostPass p.2 :=
    funext fun p => yieldsCandidate_congr (by rw [oe]) sameZones _ _
  have only := handWithheld_only h .headLost .ofHeadLost (s.scan h).lostPass (s.bladePoints t (s.excludedPoints t h))
    (disarmScan h s)
  rw [yields] at only
  obtain ⟨_, _, _, _, _, staged⟩ := only
  obtain ⟨handed, sameCounts⟩ := candidates_same h .ofHeadLost (s.lostCandidates h t)
    (⟨same.cpr.trans lists.cpr, same.zones.trans lists.zones, same.lists.trans lists.lists⟩
      : SameLists b (disarmScan h s))
  rw [excludeScan_eq s h zones, staged]
  refine ⟨handed.lists, ?_⟩
  have order := (candidates_orderStands h .ofHeadLost (s.lostCandidates h t) (disarmScan h s)).order
  rw [sameCounts (by rw [oe]; exact counts), oe] at order
  exact order

/-- With room and no held HEAD_LOST record, one GAP record covers the points withheld, after the pending gap. -/
theorem excludeScan_staged {a b : Nat × Nat} (first : (s.bladePoints t (s.excludedPoints t h)).head? = some a)
    (last : (s.bladePoints t (s.excludedPoints t h)).getLast? = some b)
    (room : (s.sb.staged ++ s.gapRecords h).length < 1024) (unheld : (s.ports.get h).heldHeadLost = none) :
    (excludeScan h s).sb.staged = s.sb.staged ++ s.gapRecords h
      ++ [⟨.gap (withheldGap h .headLost s.oe.stepIndex (s.scan h).lostPass a.1 b.1
          (s.bladePoints t (s.excludedPoints t h)).length), s.oe.activeTag⟩] := by
  obtain ⟨_, _, _, oe⟩ := disarmScan_blocks h s
  obtain ⟨stands, offered⟩ := disarmScan_gapStands h s (by rw [List.length_append] at room; omega)
  obtain ⟨handed, tag, held⟩ := stands.trans (candidates_gapStands h (disarmScan h s) .ofHeadLost
    ((s.bladePoints t (s.excludedPoints t h)).filter fun p =>
      (disarmScan h s).yieldsCandidate (s.scan h).lostPass p.2))
  rw [excludeScan_eq s h zones, handWithheld_ends h .headLost .ofHeadLost _ _ _ first last,
    offerHeadLost_room h _ _ rfl (by rw [handed]; exact room) (by rw [held, unheld]), handed, tag, oe]

/-- The lists and the engine at an exclusion, from the state `b` in which the list was left: the candidates of the
points withheld, the head awaited no longer and excluded. -/
theorem headExcluded_handed {b : State} (left : ScansStand b s) :
    (s.headExcluded h).ru = { (candidates h .ofHeadLost (s.lostCandidates h t) b).ru with
      awaited := b.ru.awaited.set h false }
    ∧ (s.headExcluded h).oe = { (candidates h .ofHeadLost (s.lostCandidates h t) b).oe with
      excluded := b.oe.excluded.set h true } := by
  obtain ⟨ru, oe⟩ := excludeScan_handed (s.excluding h) h zones (b := b)
    ⟨left.orderStands.cpr, left.zones, left.lists⟩ (by
      rw [← left.order]
      rfl)
  obtain ⟨_, _, _, lists, order⟩ := candidates_orderStands h .ofHeadLost (s.lostCandidates h t) b
  have excluded : (s.excluding h).oe = { b.oe with excluded := b.oe.excluded.set h true } := by
    rw [← left.order]
    rfl
  refine ⟨?_, ?_⟩
  · have awaited : (s.headExcluded h).ru
        = { (excludeScan h (s.excluding h)).ru with
          awaited := (excludeScan h (s.excluding h)).ru.awaited.set h false } := rfl
    rw [awaited, ru]
    change { (candidates h .ofHeadLost (s.lostCandidates h t) b).ru with
      awaited := (candidates h .ofHeadLost (s.lostCandidates h t) b).ru.awaited.set h false } = _
    rw [lists]
  · refine oe.trans ?_
    change { (s.excluding h).oe with counts := (candidates h .ofHeadLost (s.lostCandidates h t) b).oe.counts } = _
    rw [excluded, order]

/-- The records staged at an exclusion, from a state `b` before the pending gap was offered. -/
theorem headExcluded_staged {b : State} (stands : GapStands h b s) {x y : Nat × Nat}
    (first : (s.bladePoints t (s.excludedPoints t h)).head? = some x)
    (last : (s.bladePoints t (s.excludedPoints t h)).getLast? = some y)
    (room : (b.sb.staged ++ b.gapRecords h).length < 1024) (unheld : (b.ports.get h).heldHeadLost = none) :
    (s.headExcluded h).sb.staged = b.sb.staged ++ b.gapRecords h
      ++ [⟨.gap (withheldGap h .headLost s.oe.stepIndex (s.scan h).lostPass x.1 y.1
          (s.bladePoints t (s.excludedPoints t h)).length), b.oe.activeTag⟩] := by
  rw [← stands.records, ← stands.tag]
  exact excludeScan_staged (s.excluding h) h zones first last (by rw [← stands.records] at room; exact room)
    (stands.held.trans unheld)

end

end Sys2Proof.Machine
end

section
/-! The statements of 03 (sensor head ports), settled. -/

open Sys2Proof Sys2Proof.Machine

/-- Settles O14, message by message and state by state. -/
theorem headMessagesJudgedByState : Obligations.HeadMessagesJudgedByState := by
  refine ⟨⟨fun s h m code => ⟨fun asleep => ⟨?_, ?_, ?_, ?_⟩, ?_, ?_⟩, fun s => ⟨rfl, rfl, monLevel_low s⟩,
    fun s h => rfl⟩, fun s h waking => ⟨exec_readyReceived_waking waking, settle_steady (Steady.refl _)⟩⟩
  · exact exec_readyReceived_unjudged asleep
  · exact exec_alertReceived_unjudged code asleep
  · rw [exec_frameError, portFault_unjudged _ asleep]
  · exact exec_linkLoss_unjudged asleep
  · exact exec_sampleReceived_unjudged m
  · exact exec_wakeTimerExpiry_unjudged

/-- Settles O17: either command retires the oldest entry, which completes no group. -/
theorem repliesRetireOldestEntry : Obligations.RepliesRetireOldestEntry := by
  intro s h e oldest inside
  refine ⟨fun m ready awaited => ⟨_, exec_sampleReceived_awaited ready oldest awaited, ?_⟩,
    _, exec_responseTimerExpiry oldest, ?_⟩
  · rw [retire_inside _ inside]
    exact settle_steady (Steady.refl _)
  · rw [retire_inside _ inside]
    exact settle_steady (Steady.refl _)

/-- Settles O16: the list left, the port in FAULT, and then the exclusion, of the last head or of one of several. -/
theorem headFaultsAreRecorded : Obligations.HeadFaultsAreRecorded := by
  intro s h e r p cause watch faulted reasons yields groups lost left excluded last
  have leftStands : ScansStand left ((s.watched h e).listLeft h) := by
    by_cases ready : p.state = .ready
    · have sameLeft : left = (s.watched h e).listLeft h := by
        rw [listLeft_watched_ready s h e ready, openList_eq]
        exact if_pos ready
      rw [sameLeft]
      exact .refl _
    · have sameLeft : left = s := if_neg ready
      rw [sameLeft]
      exact listLeft_watched_other s h e ready
  generalize taken : (s.watched h e).faultTaken h r = f
  have fromLeft : ScansStand left f := taken ▸ leftStands.trans (faultTaken_scansStand _ h r)
  have fromS : OrderStands s f := taken ▸ (watched_orderStands s h e).trans (faultTaken_orderStands _ h r)
  have abandoned : f.oe.counts.abandoned = left.oe.counts.abandoned := by rw [fromLeft.order]
  have excludes : f.excludes h = true ↔ excluded := by
    rw [fromS.excludes]
    exact excludes_iff s h
  have excluding : excluded → headFault h r (s.watched h e) = excludeHead h f := fun all => by
    rw [headFault_eq, taken, if_pos (excludes.mpr all)]
  have standing : ¬excluded → headFault h r (s.watched h e) = f := fun lacking => by
    rw [headFault_eq, taken, if_neg (mt excludes.mp lacking)]
  obtain ⟨becomes, kept, disarmed, unawaited⟩ := excludeHead_spec f h
  refine ⟨_, exec_headFaults cause, ?_, settle_steady (Steady.refl _), headFault_notice _ h r, ?_, ?_, ?_, ?_, ?_⟩
  · have steady := headFault_steady (s.watched h e) h r
    simp only [State.onPort, State.watched, get_set_same, set_set] at steady
    exact steady
  · by_cases all : excluded
    · rw [excluding all, kept, abandoned]
    · rw [standing all, abandoned]
  · intro lacking
    rw [standing lacking]
    exact ⟨fromLeft.lists, fromLeft.order⟩
  · intro all
    rw [excluding all, becomes, fromS.order]
    exact ⟨rfl, disarmed, unawaited⟩
  · intro all lasts
    rw [excluding all]
    obtain ⟨running, undecided, _⟩ := all
    exact excludeHead_last f h (by rw [fromS.order]; exact running) (by rw [fromS.order]; exact undecided)
      (by rw [State.mask, fromS.order]; exact lasts)
  · intro all others t zones scan pass points withheld handed
    have sameZones : f.tg.zones = some t := fromS.zones.trans zones
    have lostPass : (s.scan h).lostPass = pass := by
      simp only [pass, scan, PassRecord.lostPass]
      cases (s.scan h).pass.kind <;> rfl
    have sorted : s.excludedPoints t h = points := by
      unfold State.excludedPoints State.pointsFrom State.allPoints
      dsimp only
      rw [lostPass]
      cases state : (s.scan h).state with
      | notArmed | done | waitingStart => simp only [points, scan, state]
      | inPass =>
        simp only [points, scan, state]
        split
        · rename_i samePass
          rw [samePass]
          cases (s.scan h).nextTrigger <;> simp
        · rfl
    have blade : s.bladePoints t (s.excludedPoints t h) = withheld := congrArg (List.map _) sorted
    have candidatesOf : f.lostCandidates h t = withheld.filter fun q => yields pass q.2 := by
      rw [fromS.lostCandidates, State.lostCandidates, blade, lostPass]
      rfl
    obtain ⟨ru, oe⟩ := headExcluded_handed f h sameZones fromLeft
    rw [candidatesOf] at ru oe
    have leftS : left.ru.awaited = s.ru.awaited ∧ left.oe.excluded = s.oe.excluded := by
      rw [← fromLeft.lists, ← fromLeft.order, fromS.lists, fromS.order]
      exact ⟨rfl, rfl⟩
    rw [excluding all, excludeHead_others f h (by rw [State.mask, fromS.order]; exact others)]
    refine ⟨?_, ?_, ?_⟩
    · rw [ru, leftS.1]
      rfl
    · rw [oe, leftS.2]
      rfl
    · intro a b ha hb room unheld gap
      have gapStands : GapStands h s f := taken ▸ (watched_gapStands h s e).trans
        (faultTaken_gapStands h _ r (Nat.lt_succ_of_lt (Nat.lt_succ_of_le room)))
      have pair : (s.sb.staged ++ s.gapRecords h).length < 1024 := by
        have := gapRecords_length s h
        rw [List.length_append]
        omega
      have bladeF : f.bladePoints t (f.excludedPoints t h) = withheld := (fromS.excludedPoints t h).trans blade
      rw [headExcluded_staged f h sameZones gapStands (bladeF ▸ ha) (bladeF ▸ hb) pair unheld, bladeF, fromS.scans,
        lostPass, fromS.order]
      exact List.prefix_refl _

/-- Settles O18: the last entry completes its group, marked or not; then the two branches of a series' completion. -/
theorem completedGroupLeavesList : Obligations.CompletedGroupLeavesList := by
  refine ⟨fun s h e m c x oldest last burst command => ?_, fun s h => ?_⟩
  · have taken : exec c s = .next (settle (retire h x e s)) := by
      rcases command with ⟨rfl, rfl⟩ | ⟨rfl, ready, awaited, rfl⟩
      · exact exec_responseTimerExpiry oldest
      · exact exec_sampleReceived_awaited ready oldest awaited
    refine ⟨_, taken, (retire_onward h x e (Onward.refl s)).steady (settle_steady (Steady.refl _)), ?_⟩
    intro retired group u
    generalize noted : s.onPort h (fun p => { p with inFlight := retireOldest x p.inFlight }) = s'
    have list : (s'.ports.get h).inFlight = retired := by rw [← noted, onPort_ports, get_set_same]
    have removed : (s'.onPort h fun p => { p with inFlight := p.inFlight.drop e.burst }) = u := by
      rw [← noted, onPort_onPort]
      rfl
    rw [retire_last x last, noted]
    refine ⟨fun marked => ?_, ?_⟩
    · rw [completeGroup_marked (by rw [list]; exact marked), removed]
      exact ⟨rfl, settle_steady (Steady.refl u)⟩
    · intro g rest hg unmarked xs qualified counted judged drained
      have counts := countsInFilter_iff u h g.pass.kind (judge (chosenExposure xs) g.floor)
      have handled : completeGroup h e.burst s' = groupsRemoved h [g] judged := by
        rw [completeGroup_unmarked (by rw [list]; exact hg) (hg ▸ unmarked) removed, ← hg]
        exact congrArg (groupsRemoved h [g]) (if_congr counts rfl rfl)
      have unmarkedFirst : g.abandoned = false := unmarked g (by rw [hg]; exact List.mem_cons_self)
      rw [handled]
      exact ⟨fun d => congrArg settle (groupsRemoved_drained judged h g unmarkedFirst d),
        fun d => congrArg settle (groupsRemoved_undrained judged h g unmarkedFirst d)⟩
  · intro complete u
    have completes : s.seriesComplete h = true ↔ complete := seriesComplete_iff s h
    rw [exec_seriesComplete]
    refine ⟨fun all => ?_, fun lacking => ?_⟩
    · rw [if_pos (completes.mpr all)]
      exact ⟨rfl, settle_steady (Steady.refl u)⟩
    · rw [if_neg (mt completes.mp lacking)]

/-- Settles O19: the heads forced off in some order, the engine's own step before them, and the heads woken. -/
theorem lightConditionMovesHeads : Obligations.LightConditionMovesHeads := by
  refine ⟨fun s => ⟨exec_lightJudgedLow_again s, exec_lightJudgedLow_present s, fun judged light => ?_⟩,
    fun s => ⟨exec_lightJudgedGood_again s, fun judged clears => ?_, exec_lightJudgedGood_stands s⟩⟩
  · intro lost
    obtain ⟨_, _, scans, _, oe⟩ := lightFails_orderStands s
    refine ⟨_, exec_lightJudgedLow_fails s judged light, ?_, ?_, settle_steady (Steady.refl _), fun runs => ?_,
      fun acquiring revisiting => ?_⟩
    · exact (lightFails_steady s (Steady.refl (lightNoted s))).notices .lightLow (setNotice_notice _ _ _ (.inr rfl))
    · have noted := setNotice_steady .lightLow
        (Steady.refl { s with light := { s.light with judgement := .low, present := true } })
      have forced := lightFails_steady s noted
      rw [forHeads_forcedAt] at forced
      exact forced
    · rw [lightLost_interrupts (lightNoted s) runs] at oe scans
      obtain ⟨waits, disarmed, _⟩ := enterLightWait_spec ((lightNoted s).orderKind == some .scan) (lightNoted s)
      rw [waits] at oe
      refine ⟨by rw [oe], by rw [oe], by rw [oe]; exact beq_iff_eq, fun h => ?_⟩
      obtain ⟨state, reach, next, _⟩ := disarmed.disarmed h
      rw [scans h]
      exact ⟨state, reach, next⟩
    · rw [lightLost_stands (lightNoted s) acquiring revisiting] at oe scans
      exact ⟨by rw [oe]; rfl, by rw [oe]; rfl, scans⟩
  · intro u
    have woken : lightClears { s with light := { s.light with judgement := .good } } = u := by
      rw [lightClears_eq]
      refine congrArg (fun f => ({ s with
        light := { s.light with judgement := .good, present := false }, ports := s.ports.map f } : State)) ?_
      funext p
      split
      · rename_i c held
        rw [Port.wokenAt, sendWake_held held]
      · rename_i unheld
        rw [Port.wokenAt, sendWake_unheld unheld, ite_self]
    rw [exec_lightJudgedGood_clears s judged clears, woken]
    exact ⟨rfl, settle_steady (Steady.refl u)⟩

end

section
/-! What a step answers, and the balance of an order's counts at each command (R80). -/

namespace Sys2Proof.Machine

/-! ## Every command answers a next state -/

theorem exec_answers (c : Instr) (s : State) : ∃ t, exec c s = .next t := by
  cases c <;> exact ⟨_, rfl⟩

/-! ## Sound lists and balanced counts (R80) -/

section
variable {s t : State}

/-- The lists and the balance are a matter of the ports, the pass records and the engine. -/
theorem FlightsSound.transfer (sound : FlightsSound s) (ports : t.ports = s.ports) (tg : t.tg = s.tg)
    (oe : t.oe = s.oe) : FlightsSound t := by
  obtain ⟨grouped, zones, tables, kinds⟩ := sound
  exact ⟨by rwa [ports], by rwa [tg], by rwa [oe], by rwa [tg]⟩

theorem balanced_congr (ports : t.ports = s.ports) (oe : t.oe = s.oe) : t.balanced ↔ s.balanced := by
  unfold State.balanced State.openGroups
  rw [ports, oe]

/-- From `s` to `t` sound lists stay sound, and the counts of the active order stay balanced. -/
structure KeepsBalance (s t : State) : Prop where
  sound : FlightsSound s → FlightsSound t
  balance : FlightsSound s → s.countsOrder → s.balanced → t.oe.active.isSome = true → t.balanced

theorem KeepsBalance.ofBlocks (ports : t.ports = s.ports) (tg : t.tg = s.tg) (oe : t.oe = s.oe) :
    KeepsBalance s t :=
  ⟨fun sound => sound.transfer ports tg oe, fun _ _ balanced _ => (balanced_congr ports oe).mpr balanced⟩

theorem Keeps.keepsBalance (keeps : Keeps 0 s t) : KeepsBalance s t :=
  ⟨keeps.sound, fun sound counts balanced active => keeps.balance ⟨sound, counts, balanced⟩ active⟩

end

/-- After a cold reset every list is empty, the pass records are reset, and no order is active (R179). -/
theorem coldReset_blocks (levels : Levels) (s : State) :
    (coldReset levels s).ports = s.ports.map Port.coldReset ∧ (coldReset levels s).tg = .reset
    ∧ (coldReset levels s).oe = .reset := ⟨rfl, rfl, rfl⟩

theorem coldReset_keepsBalance (levels : Levels) (s : State) : KeepsBalance s (coldReset levels s) := by
  obtain ⟨ports, tg, oe⟩ := coldReset_blocks levels s
  have idle : (coldReset levels s).oe.active = none := by rw [oe]; rfl
  refine ⟨fun _ => ⟨fun h => ?_, ?_, fun _ a _ active => ?_, fun h => ?_⟩, fun _ _ _ active => ?_⟩
  · rw [ports, get_map]
    exact .nil
  · rw [tg]
    exact nofun
  · rw [idle] at active
    cases active
  · rw [tg, TriggerGen.reset, get_all]
    exact ⟨nofun, rfl⟩
  · rw [idle] at active
    cases active

/-- A write of XBASE is the only change a register write makes (R169). -/
theorem execRegisterWrite_keepsBalance (offset : BitVec 12) (enables : BitVec 4) (value : Word) {s t : State}
    (answer : execRegisterWrite offset enables value s = .next t) : KeepsBalance s t := by
  unfold execRegisterWrite at answer
  cases answer
  repeat' split
  all_goals exact .ofBlocks rfl rfl rfl

theorem exec_keepsBalance (c : Instr) {s t : State} (answer : exec c s = .next t) : KeepsBalance s t := by
  by_cases leaves : Instr.leavesRegisters c = true
  · exact (exec_keeps c leaves answer).keepsBalance
  · cases c with
    | registerWrite offset enables value => exact execRegisterWrite_keepsBalance offset enables value answer
    | noteEnWrite value =>
      cases answer
      exact .ofBlocks rfl rfl rfl
    | coldReset levels =>
      cases answer
      exact coldReset_keepsBalance levels s
    | _ => exact absurd rfl leaves

/-- Every step answers, on an empty queue with the Time Base counted alone. -/
theorem step_keepsBalance (s : State) : ∃ t, step s = .next t ∧ KeepsBalance s t := by
  unfold step
  split
  · exact ⟨_, rfl, .ofBlocks rfl rfl rfl⟩
  · rename_i c rest _
    obtain ⟨t, answer⟩ := exec_answers c { s with pending := rest }
    obtain ⟨sound, balance⟩ := exec_keepsBalance c answer
    exact ⟨t, answer, fun k => sound (k.transfer rfl rfl rfl),
      fun k counts balanced => balance (k.transfer rfl rfl rfl) counts balanced⟩

/-- A drained port has no open group (R53). -/
theorem openGroups_drained {p : Port} (drained : p.drained = true) : openGroups p.inFlight = 0 := by
  refine openGroups_closed ?_
  simpa [Port.drained] using drained

theorem State.openGroups_drained {s : State} (drained : s.drained = true) : s.openGroups = 0 := by
  have port : ∀ h, (s.ports.get h).drained = true := fun h => List.all_eq_true.mp drained h (mem_all h)
  unfold State.openGroups
  rw [Machine.openGroups_drained (port .h0), Machine.openGroups_drained (port .h1),
    Machine.openGroups_drained (port .h2), Machine.openGroups_drained (port .h3)]

end Sys2Proof.Machine
end

section
/-! Selection, judgement and correction (04.1 to 04.4): the chosen exposure, the causes, the interpolation. -/

namespace Sys2Proof.Machine

/-! ## The chosen exposure (R63) -/

/-- An exposure stands at a place of a group as its earliest best usable one. -/
structure BestAt (xs : List Exposure) (i : Nat) (x : Exposure) : Prop where
  place : xs[i]? = some x
  usable : x.usable = true
  highest : ∀ y ∈ xs, y.usable = true → y.quality.toNat ≤ x.quality.toNat
  earliest : ∀ j < i, ∀ y, xs[j]? = some y → y.usable = true → y.quality.toNat < x.quality.toNat

/-- The first exposure is the best where the best of the rest, if there is one, is no better. -/
theorem BestAt.first {x : Exposure} {xs : List Exposure} (usable : x.usable = true)
    (rest : ∀ y ∈ xs, y.usable = true → y.quality.toNat ≤ x.quality.toNat) : BestAt (x :: xs) 0 x where
  place := rfl
  usable := usable
  highest y member usable := by
    rcases List.mem_cons.mp member with rfl | member
    · exact Nat.le_refl _
    · exact rest y member usable
  earliest := nofun

/-- The best of the rest is the best where the first is unusable or worse. -/
theorem BestAt.later {x y : Exposure} {xs : List Exposure} {i : Nat} (best : BestAt xs i y)
    (worse : x.usable = true → x.quality.toNat < y.quality.toNat) : BestAt (x :: xs) (i + 1) y where
  place := best.place
  usable := best.usable
  highest z member usable := by
    rcases List.mem_cons.mp member with rfl | member
    · exact Nat.le_of_lt (worse usable)
    · exact best.highest z member usable
  earliest j before z place usable := by
    cases j with
    | zero =>
      cases place
      exact worse usable
    | succ j => exact best.earliest j (Nat.lt_of_succ_lt_succ before) z place usable

section
variable {x y : Exposure} {xs : List Exposure}

theorem bestUsable_cons_none (rest : bestUsable xs = none) :
    bestUsable (x :: xs) = if x.usable then some x else none := by
  rw [bestUsable, rest]

theorem bestUsable_cons_some (rest : bestUsable xs = some y) :
    bestUsable (x :: xs) = if x.usable && decide (y.quality.toNat ≤ x.quality.toNat) then some x else some y := by
  rw [bestUsable, rest]

end

theorem bestUsable_none_iff (xs : List Exposure) : bestUsable xs = none ↔ ∀ x ∈ xs, x.usable = false := by
  induction xs with
  | nil => simp [bestUsable]
  | cons x xs ih =>
    rw [List.forall_mem_cons, ← ih]
    cases rest : bestUsable xs with
    | none => simp [bestUsable_cons_none rest]
    | some y =>
      rw [bestUsable_cons_some rest]
      split <;> simp

theorem bestUsable_best {xs : List Exposure} {y : Exposure} (chosen : bestUsable xs = some y) :
    ∃ i, BestAt xs i y := by
  induction xs generalizing y with
  | nil => cases chosen
  | cons x xs ih =>
    cases rest : bestUsable xs with
    | none =>
      have unusable := (bestUsable_none_iff xs).mp rest
      rw [bestUsable_cons_none rest] at chosen
      split at chosen
      · rename_i usable
        cases chosen
        exact ⟨0, .first usable fun z member can => absurd can (by simp [unusable z member])⟩
      · cases chosen
    | some z =>
      obtain ⟨i, best⟩ := ih rest
      rw [bestUsable_cons_some rest] at chosen
      split at chosen
      · rename_i better
        simp only [Bool.and_eq_true, decide_eq_true_eq] at better
        cases chosen
        exact ⟨0, .first better.1 fun w member can => (best.highest w member can).trans better.2⟩
      · rename_i worse
        simp only [Bool.and_eq_true, decide_eq_true_eq, not_and, Nat.not_le] at worse
        cases chosen
        exact ⟨i + 1, best.later worse⟩

theorem chosenExposure_best {xs : List Exposure} (someUsable : ∃ x ∈ xs, x.usable = true) :
    ∃ i, BestAt xs i (chosenExposure xs) := by
  unfold chosenExposure
  cases chosen : bestUsable xs with
  | none =>
    obtain ⟨x, member, usable⟩ := someUsable
    exact absurd usable (by simp [(bestUsable_none_iff xs).mp chosen x member])
  | some y => exact bestUsable_best chosen

/-- Where no exposure is usable, the one with ordinal 1 is chosen. -/
theorem chosenExposure_unusable {xs : List Exposure} (nonempty : xs ≠ [])
    (unusable : ∀ x ∈ xs, x.usable = false) : xs[0]? = some (chosenExposure xs) := by
  unfold chosenExposure
  rw [(bestUsable_none_iff xs).mpr unusable]
  cases xs with
  | nil => exact absurd rfl nonempty
  | cons x xs => rfl

/-! ## The causes (R64) -/

section
variable (raw : BitVec 20) (intensity : BitVec 12) (quality floor : Byte) (noPeak : Bool) (time : Time)

theorem judge_noReply : judge (.noReply time) floor = .noReply := rfl

theorem judge_saturated : judge (.reply raw intensity quality true noPeak time) floor = .saturated := rfl

theorem judge_noPeak : judge (.reply raw intensity quality false true time) floor = .noPeak := rfl

/-- A usable reply is judged by its quality against the floor. -/
theorem judge_usable : judge (.reply raw intensity quality false false time) floor
    = if quality.toNat < floor.toNat then .lowQuality else .none := rfl

end

/-! ## The correction (R73) -/

/-- A raw code of 20 bits is in one of the 256 intervals of a table, at one of its 4,096 places. -/
theorem rawCode_interval (raw : BitVec 20) : raw.toNat / 4096 ≤ 255 := by
  have := raw.isLt
  omega

theorem correct_points (points : List Int) (raw : BitVec 20) :
    CorrectionTable.correct (.points points) raw
      = points.getD (raw.toNat / 4096) 0
        + ((points.getD (raw.toNat / 4096 + 1) 0 - points.getD (raw.toNat / 4096) 0)
            * ((raw.toNat % 4096 : Nat) : Int)) / 4096 := rfl

/-- An interpolation between two values in a range lies in that range. -/
theorem interpolation_within {a b f low high : Int} (place : 0 ≤ f) (inside : f < 4096)
    (ha : low ≤ a ∧ a ≤ high) (hb : low ≤ b ∧ b ≤ high) :
    low ≤ a + ((b - a) * f) / 4096 ∧ a + ((b - a) * f) / 4096 ≤ high := by
  obtain ⟨lowA, highA⟩ := ha
  obtain ⟨lowB, highB⟩ := hb
  have below : (low - a) * 4096 ≤ (b - a) * f := by nlinarith
  have above : (b - a) * f ≤ (high - a) * 4096 := by nlinarith
  omega

/-- The table of the points 4,096 i gives the raw code back. -/
theorem interpolation_straight (r : Nat) :
    4096 * ((r / 4096 : Nat) : Int)
      + ((4096 * ((r / 4096 + 1 : Nat) : Int) - 4096 * ((r / 4096 : Nat) : Int)) * ((r % 4096 : Nat) : Int)) / 4096
      = (r : Int) := by
  have step : 4096 * ((r / 4096 + 1 : Nat) : Int) - 4096 * ((r / 4096 : Nat) : Int) = 4096 := by
    push_cast
    ring
  rw [step]
  omega

end Sys2Proof.Machine
end

section
/-! The accounting of one outcome (04.5 to 04.7): the sample staged or dropped, and the candidate it yields. -/

namespace Sys2Proof.Machine

/-! ## A sample staged (R79, R152) -/

section
variable (h : Head) (r : SampleRecord) (s : State)

/-- A dropped point opens a gap, or extends one of fewer than 65,535 points (R155). -/
theorem extendGap_eq (point : Nat) (pass : PassId) (step : Nat) (gap : Option PendingGap) :
    extendGap point pass step gap = match gap with
      | none => { first := point, firstPass := pass, last := point, lastPass := pass, step := step, count := 1 }
      | some g => if g.count < 65535 then { g with last := point, lastPass := pass, count := g.count + 1 } else g := by
  cases gap <;> rfl

theorem joinRecord_onlyStaging (r : Record) (s : State) : OnlyStaging s (joinRecord r s) := by
  obtain ⟨w, x, e⟩ := joinRecord_only r s
  rw [e]
  exact ⟨_, _, _, _, _, rfl⟩

theorem stageSample_onlyStaging : OnlyStaging s (stageSample h r s) := by
  unfold stageSample
  split
  · exact (offerGap_onlyStaging h s).trans (joinRecord_onlyStaging _ _)
  · exact .refl s

theorem stageSample_dropFlag : (stageSample h r s).sb.dropFlag = s.sb.dropFlag := by
  unfold stageSample
  split
  · exact (joinRecord_steady _ (offerGap_steady h (Steady.refl s))).dropFlag
  · rfl

/-- A sample with room for it is staged after the head's pending gap. -/
theorem stageSample_staged (few : s.sb.staged.length < 1016) :
    (stageSample h r s).sb.staged = s.sb.staged ++ s.gapRecords h ++ [⟨.sample r, s.oe.activeTag⟩] := by
  unfold stageSample
  rw [if_pos (hasRoom_sample r s few), joinRecord_staged, offerGap_staged_gapRecords h s (by omega),
    (offerGap_onlyStaging h s).scansStand.order]

theorem hasRoom_sample_full (full : 1016 ≤ s.sb.staged.length) : s.hasRoom (.sample r) = false :=
  decide_eq_false (Nat.not_lt.mpr full)

end

/-! ## The candidate of an outcome (R81) -/

section
variable (h : Head) (e : InFlight) (reasons : Reasons) {f : Counts → Counts}

/-- A count that candidates leave alone commutes with the handing of one. -/
theorem candidate_onCounts (zone point : Nat) (s : State)
    (created : ∀ c : Counts, f { c with created := c.created + 1 } = { f c with created := (f c).created + 1 })
    (lost : ∀ c : Counts, f { c with lost := c.lost + 1 } = { f c with lost := (f c).lost + 1 }) :
    candidate h zone point reasons (s.onCounts f) = (candidate h zone point reasons s).onCounts f := by
  have fate : ∀ t, (s.onCounts f).candidateFate t h zone point reasons = s.candidateFate t h zone point reasons :=
    fun _ => rfl
  unfold candidate
  rw [onCounts_ru, onCounts_tg]
  split
  · rfl
  · rfl
  · rw [fate]
    unfold applyFate
    split
    · rfl
    · exact congrArg (fun c : Counts => State.onCounts _ fun _ => c) (created s.oe.counts).symm
    · exact congrArg (fun c : Counts => setNotice .outputLoss (s.onCounts fun _ => c)) (lost s.oe.counts).symm

theorem outcomeCandidate_onCounts (s : State)
    (created : ∀ c : Counts, f { c with created := c.created + 1 } = { f c with created := (f c).created + 1 })
    (lost : ∀ c : Counts, f { c with lost := c.lost + 1 } = { f c with lost := (f c).lost + 1 }) :
    outcomeCandidate h e reasons (s.onCounts f) = (outcomeCandidate h e reasons s).onCounts f := by
  unfold outcomeCandidate
  rw [candidate_onCounts h reasons _ _ s created lost, yieldsCandidate_congr (t := s.onCounts f) (s := s) rfl rfl]
  split <;> rfl

/-- The candidate of an outcome changes the next list, the counts of created and lost ones, and sets notices. -/
theorem outcomeCandidate_only (s : State) : ∃ next created lost raw, outcomeCandidate h e reasons s = { s with
    ru := { s.ru with next := next }
    oe := { s.oe with counts := { s.oe.counts with created := created, lost := lost } }
    xe := { s.xe with noteRaw := raw } } ∧ ∀ i, s.xe.noteRaw.getLsbD i = true → raw.getLsbD i = true := by
  unfold outcomeCandidate
  split
  · exact candidates_only h reasons [(e.point, e.zone.getD 0)] s
  · exact ⟨_, _, _, _, rfl, fun _ set => set⟩

/-- The candidate of an outcome does the same in states that agree in the geometry, the lists and the engine. -/
theorem outcomeCandidate_same {s v : State} (stands : ScansStand s v) :
    (outcomeCandidate h e reasons v).ru = (outcomeCandidate h e reasons s).ru
    ∧ (outcomeCandidate h e reasons v).oe.counts = (outcomeCandidate h e reasons s).oe.counts := by
  obtain ⟨same, counts⟩ := candidate_same h (e.zone.getD 0) e.point reasons
    (⟨stands.orderStands.cpr, stands.zones, stands.lists⟩ : SameLists s v)
  unfold outcomeCandidate
  rw [yieldsCandidate_congr (congrArg _ stands.order) stands.zones]
  split
  · exact ⟨same.lists, counts (congrArg _ stands.order)⟩
  · exact ⟨stands.lists, congrArg _ stands.order⟩

end

/-! ## The three ways an outcome counts (R79 to R81) -/

/-- The counts after one outcome: one more of accepted, rejected and dropped, the points not counted here as they
stood. -/
structure CountedOnce (c d : Counts) : Prop where
  sum : d.accepted + d.rejected + d.dropped = c.accepted + c.rejected + c.dropped + 1
  issued : d.issued = c.issued
  abandoned : d.abandoned = c.abandoned
  skipped : d.skipped = c.skipped

section
variable (h : Head) (e : InFlight) (s : State)

theorem countAccepted_eq : countAccepted e s = s.onCounts fun c =>
    { c with accepted := c.accepted + 1, resolved := c.resolved + if e.pass.kind = .revisit then 1 else 0 } := by
  unfold countAccepted resolution
  split <;> rfl

theorem countRejected_eq : countRejected h e s
    = (outcomeCandidate h e .ofQuality s).onCounts fun c => { c with rejected := c.rejected + 1 } :=
  outcomeCandidate_onCounts h e .ofQuality s (fun _ => rfl) (fun _ => rfl)

/-- The state in which a dropped outcome hands its candidate: the drop shown, and the point in the pending gap. -/
def State.outcomeDropped : State :=
  dropPoint h e.point e.pass (e.step.getD 0) (setNotice .outputLoss { s with sb := { s.sb with dropFlag := true } })

theorem dropSample_eq (bad : Bool) : dropSample h e bad s
    = (outcomeCandidate h e (.ofDrop bad) (s.outcomeDropped h e)).onCounts fun c =>
      { c with dropped := c.dropped + 1 } :=
  outcomeCandidate_onCounts h e (.ofDrop bad) (f := fun c => { c with dropped := c.dropped + 1 })
    (s.outcomeDropped h e) (fun _ => rfl) (fun _ => rfl)

theorem outcomeDropped_scansStand : ScansStand s (s.outcomeDropped h e) := ⟨rfl, rfl, fun _ => rfl, rfl, rfl⟩

/-- A rejected outcome leaves the buffer and the Qualifier. -/
theorem countRejected_blocks : (countRejected h e s).sb = s.sb ∧ (countRejected h e s).qu = s.qu := by
  obtain ⟨_, _, _, _, only, _⟩ := outcomeCandidate_only h e .ofQuality s
  rw [countRejected_eq, only]
  exact ⟨rfl, rfl⟩

/-- A dropped outcome shows the drop, extends the head's pending gap and leaves the Qualifier. -/
theorem dropSample_blocks (bad : Bool) : (dropSample h e bad s).sb = { s.sb with dropFlag := true }
    ∧ (dropSample h e bad s).notice .outputLoss = true
    ∧ ((dropSample h e bad s).ports.get h).gap
      = some (extendGap e.point e.pass (e.step.getD 0) (s.ports.get h).gap)
    ∧ (dropSample h e bad s).qu = s.qu := by
  obtain ⟨_, _, _, _, only, notices⟩ := outcomeCandidate_only h e (.ofDrop bad) (s.outcomeDropped h e)
  rw [dropSample_eq, only]
  refine ⟨rfl, notices _ ?_, ?_, rfl⟩
  · exact setNotice_notice .outputLoss .outputLoss { s with sb := { s.sb with dropFlag := true } } (.inr rfl)
  · exact congrArg Port.gap (get_set_same _ _ _)

end

section
variable (h : Head) (e : InFlight) {s v : State}

/-- A rejected outcome is counted once, beside the candidate handed in a state that agrees in what it reads. -/
theorem countRejected_handed (stands : ScansStand s v) :
    (countRejected h e v).ru = (outcomeCandidate h e .ofQuality s).ru
    ∧ (countRejected h e v).oe.counts
      = { (outcomeCandidate h e .ofQuality s).oe.counts with rejected := s.oe.counts.rejected + 1 } := by
  obtain ⟨lists, counts⟩ := outcomeCandidate_same h e .ofQuality stands
  obtain ⟨_, _, _, _, only, _⟩ := outcomeCandidate_only h e .ofQuality s
  rw [countRejected_eq]
  refine ⟨lists, ?_⟩
  rw [onCounts_oe, counts, only]

theorem dropSample_handed (bad : Bool) (stands : ScansStand s v) :
    (dropSample h e bad v).ru = (outcomeCandidate h e (.ofDrop bad) s).ru
    ∧ (dropSample h e bad v).oe.counts
      = { (outcomeCandidate h e (.ofDrop bad) s).oe.counts with dropped := s.oe.counts.dropped + 1 } := by
  obtain ⟨lists, counts⟩ := outcomeCandidate_same h e (.ofDrop bad) (stands.trans (outcomeDropped_scansStand h e v))
  obtain ⟨_, _, _, _, only, _⟩ := outcomeCandidate_only h e (.ofDrop bad) s
  rw [dropSample_eq]
  refine ⟨lists, ?_⟩
  rw [onCounts_oe, counts, only]

theorem countAccepted_once (stands : ScansStand s v) : CountedOnce s.oe.counts (countAccepted e v).oe.counts := by
  rw [countAccepted_eq, onCounts_oe, stands.order]
  exact ⟨by dsimp only; omega, rfl, rfl, rfl⟩

theorem countRejected_once (stands : ScansStand s v) : CountedOnce s.oe.counts (countRejected h e v).oe.counts := by
  obtain ⟨_, _, _, _, only, _⟩ := outcomeCandidate_only h e .ofQuality s
  rw [(countRejected_handed h e stands).2, only]
  exact ⟨by dsimp only; omega, rfl, rfl, rfl⟩

theorem dropSample_once (bad : Bool) (stands : ScansStand s v) :
    CountedOnce s.oe.counts (dropSample h e bad v).oe.counts := by
  obtain ⟨_, _, _, _, only, _⟩ := outcomeCandidate_only h e (.ofDrop bad) s
  rw [(dropSample_handed h e bad stands).2, only]
  exact ⟨by dsimp only; omega, rfl, rfl, rfl⟩

end

/-! ## Which way it counts (R65, R79) -/

section
variable {s : State} {h : Head} {e : InFlight} {x : Exposure} {cause : RejectCause} {a : ActiveOrder}

theorem accountOutcome_accepted (active : s.oe.active = some a) (good : cause = .none)
    (few : s.sb.staged.length < 1016) :
    accountOutcome h e x cause s = countAccepted e (stageSample h (s.sampleRecord h a e x cause) s) := by
  unfold accountOutcome
  rw [active]
  dsimp only
  rw [if_pos good, if_pos (hasRoom_sample _ s few)]

theorem accountOutcome_goodDropped (active : s.oe.active = some a) (good : cause = .none)
    (full : 1016 ≤ s.sb.staged.length) : accountOutcome h e x cause s = dropSample h e false s := by
  unfold accountOutcome
  rw [active]
  dsimp only
  rw [if_pos good, hasRoom_sample_full _ s full, if_neg Bool.false_ne_true]

theorem accountOutcome_unkept (active : s.oe.active = some a) (bad : cause ≠ .none)
    (unkept : a.header.flags.keepRejected = false) : accountOutcome h e x cause s = countRejected h e s := by
  unfold accountOutcome
  rw [active]
  dsimp only
  rw [if_neg bad, unkept, if_neg Bool.false_ne_true]

theorem accountOutcome_kept (active : s.oe.active = some a) (bad : cause ≠ .none)
    (kept : a.header.flags.keepRejected = true) (few : s.sb.staged.length < 1016) :
    accountOutcome h e x cause s = countRejected h e (stageSample h (s.sampleRecord h a e x cause) s) := by
  unfold accountOutcome
  rw [active]
  dsimp only
  rw [if_neg bad, if_pos kept, if_pos (hasRoom_sample _ s few)]

theorem accountOutcome_badDropped (active : s.oe.active = some a) (bad : cause ≠ .none)
    (kept : a.header.flags.keepRejected = true) (full : 1016 ≤ s.sb.staged.length) :
    accountOutcome h e x cause s = dropSample h e true s := by
  unfold accountOutcome
  rw [active]
  dsimp only
  rw [if_neg bad, if_pos kept, hasRoom_sample_full _ s full, if_neg Bool.false_ne_true]

/-- Whichever way it counts, an outcome counts once and leaves the Qualifier. -/
theorem accountOutcome_once (active : s.oe.active = some a) :
    CountedOnce s.oe.counts (accountOutcome h e x cause s).oe.counts ∧ (accountOutcome h e x cause s).qu = s.qu := by
  have staging := stageSample_onlyStaging h (s.sampleRecord h a e x cause) s
  have qualifier : (stageSample h (s.sampleRecord h a e x cause) s).qu = s.qu := by
    obtain ⟨_, _, _, _, _, only⟩ := staging
    rw [only]
  have dropped : ∀ bad, CountedOnce s.oe.counts (dropSample h e bad s).oe.counts
      ∧ (dropSample h e bad s).qu = s.qu :=
    fun bad => by
      obtain ⟨_, _, _, qualifier⟩ := dropSample_blocks h e s bad
      exact ⟨dropSample_once h e bad (.refl s), qualifier⟩
  rcases Nat.lt_or_ge s.sb.staged.length 1016 with few | full <;> by_cases good : cause = .none
  · rw [accountOutcome_accepted active good few]
    exact ⟨countAccepted_once e staging.scansStand, by rw [countAccepted_eq]; exact qualifier⟩
  · cases kept : a.header.flags.keepRejected with
    | true =>
      rw [accountOutcome_kept active good kept few]
      exact ⟨countRejected_once h e staging.scansStand, (countRejected_blocks h e _).2.trans qualifier⟩
    | false =>
      rw [accountOutcome_unkept active good kept]
      exact ⟨countRejected_once h e (.refl s), (countRejected_blocks h e s).2⟩
  · rw [accountOutcome_goodDropped active good full]
    exact dropped false
  · cases kept : a.header.flags.keepRejected with
    | true =>
      rw [accountOutcome_badDropped active good kept full]
      exact dropped true
    | false =>
      rw [accountOutcome_unkept active good kept]
      exact ⟨countRejected_once h e (.refl s), (countRejected_blocks h e s).2⟩

end

/-! ## The outcome judged, before it is accounted for (R65, R67) -/

section
variable (s : State) (h : Head)

/-- The state in which an outcome is accounted for: its pulse given, and the head's counters moved. -/
def State.outcomeJudged (bad : Bool) : State :=
  (pulse h (if bad then .outcomeBad else .outcomeGood) s).onQual h fun q => q.counted bad

theorem qualify_scan (e : InFlight) (xs : List Exposure) (kind : e.pass.kind ≠ .reference) : qualify h e xs s
    = accountOutcome h e (chosenExposure xs) (judge (chosenExposure xs) e.floor)
        (s.outcomeJudged h (judge (chosenExposure xs) e.floor != .none)) := if_neg kind

theorem outcomeJudged_scansStand (bad : Bool) : ScansStand s (s.outcomeJudged h bad) :=
  ⟨rfl, rfl, fun _ => rfl, rfl, rfl⟩

theorem outcomeJudged_qual (bad : Bool) :
    (s.outcomeJudged h bad).qu.heads.get h = (s.qu.heads.get h).counted bad := get_set_same _ _ _

theorem counted_table (q : HeadQual) (bad : Bool) : (q.counted bad).table = q.table := by
  unfold HeadQual.counted
  repeat' split
  all_goals rfl

/-- The counters do not enter the sample record. -/
theorem outcomeJudged_sampleRecord (bad : Bool) (a : ActiveOrder) (e : InFlight) (x : Exposure) (cause : RejectCause) :
    (s.outcomeJudged h bad).sampleRecord h a e x cause = s.sampleRecord h a e x cause := by
  have corrected : (s.outcomeJudged h bad).corrected h x.raw = s.corrected h x.raw := by
    unfold State.corrected
    rw [outcomeJudged_qual, counted_table]
    rfl
  unfold State.sampleRecord
  rw [corrected]
  rfl

/-- The counters of an outcome with a cause, read as R67 gives them. -/
theorem counted_cause (q : HeadQual) (cause : RejectCause) : q.counted (cause != .none)
    = if 0 < q.blank then { q with blank := q.blank - 1 }
      else if cause = .none then { q with filter := 0 } else { q with filter := min 255 (q.filter + 1) } := by
  unfold HeadQual.counted
  by_cases good : cause = .none
  · simp [good]
  · rw [if_neg good, if_pos (bne_iff_ne.mpr good)]

end

end Sys2Proof.Machine
end

section
/-! The filter's limit (04.3): the counter at its limit, and the fault action held (R67 to R70). -/

namespace Sys2Proof.Machine

section
variable {s : State} {h : Head} {c : HeadConfig}

theorem exec_filterLimit (s : State) (h : Head) :
    exec (.filterLimit h) s = .next (if s.filterReached h then settle (takeFilterLimit h s) else s) := rfl

theorem filterReached_iff (config : (s.ports.get h).config = some c) :
    s.filterReached h = true ↔ 0 < c.limit ∧ c.limit ≤ (s.qu.heads.get h).filter := by
  unfold State.filterReached
  rw [config]
  simp only [Option.map_some, Option.getD_some, Bool.and_eq_true, decide_eq_true_eq]

/-- The state from which the fault action is applied: the counter at 0 and HEAD_FAULT set. -/
def State.filterTaken (s : State) (h : Head) : State :=
  setNotice .headFault (s.onQual h fun q => { q with filter := 0 })

theorem filterTaken_notice (s : State) (h : Head) : (s.filterTaken h).notice .headFault = true :=
  setNotice_notice .headFault .headFault (s.onQual h fun q => { q with filter := 0 }) (.inr rfl)

/-- The fault action held, applied to a state (R68 to R70). -/
def applyFaultAction (action : Option FaultAction) (h : Head) (s : State) : State :=
  match action with
  | some .suspendPass => suspendScan h s
  | some .failOrder => endCondition ⟨.headFaultAction, h.num⟩ s
  | some .continueOn | none => s

theorem takeFilterLimit_eq (config : (s.ports.get h).config = some c) :
    takeFilterLimit h s = applyFaultAction c.action h (s.filterTaken h) := by
  have held : ((s.filterTaken h).ports.get h).config.bind (·.action) = c.action := by
    rw [State.filterTaken]
    exact congrArg (Option.bind · HeadConfig.action) config
  rw [← held]
  rfl

theorem applyFaultAction_continueOn : applyFaultAction (some .continueOn) h s = s := rfl

theorem applyFaultAction_suspendPass : applyFaultAction (some .suspendPass) h s = suspendScan h s := rfl

theorem applyFaultAction_failOrder :
    applyFaultAction (some .failOrder) h s = endCondition ⟨.headFaultAction, h.num⟩ s := rfl

/-- No fault action clears a notice. -/
theorem applyFaultAction_notice (action : Option FaultAction) (h : Head) {s : State} {n : Notice}
    (set : s.notice n = true) : (applyFaultAction action h s).notice n = true := by
  unfold applyFaultAction
  split
  · exact (suspendScan_onward h (Onward.refl s)).notices n set
  · exact (endCondition_steady _ (Steady.refl s)).notices n set
  · exact set
  · exact set

theorem exec_filterLimit_reached (config : (s.ports.get h).config = some c)
    (reached : 0 < c.limit ∧ c.limit ≤ (s.qu.heads.get h).filter) :
    exec (.filterLimit h) s = .next (settle (applyFaultAction c.action h (s.filterTaken h))) := by
  rw [exec_filterLimit, if_pos ((filterReached_iff config).mpr reached), takeFilterLimit_eq config]

theorem exec_filterLimit_below (config : (s.ports.get h).config = some c)
    (below : ¬(0 < c.limit ∧ c.limit ≤ (s.qu.heads.get h).filter)) : exec (.filterLimit h) s = .next s := by
  rw [exec_filterLimit, if_neg (mt (filterReached_iff config).mp below)]

end

end Sys2Proof.Machine
end

section
/-! The statements of 04 (sample qualification and correction), settled. -/

open Sys2Proof Sys2Proof.Machine

/-- Settles O59: the balance kept by every command, and the law that it leaves when the lists are drained. -/
theorem orderCountsStayBalanced : Obligations.OrderCountsStayBalanced := by
  refine fun s => ⟨fun sound => ?_, fun balanced drained => ?_⟩
  · obtain ⟨t, answer, keeps⟩ := step_keepsBalance s
    exact ⟨t, answer, keeps.sound sound, keeps.balance sound⟩
  · have law : s.oe.counts.issued = s.oe.counts.ended + s.openGroups := balanced
    rwa [State.openGroups_drained drained] at law

/-- Settles O20, by the earliest best usable exposure, and the causes one by one. -/
theorem chosenExposureIsJudged : Obligations.ChosenExposureIsJudged := by
  refine ⟨fun xs nonempty => ⟨fun someUsable => ?_, chosenExposure_unusable nonempty⟩,
    fun raw intensity quality floor noPeak time => ⟨judge_noReply floor time,
      judge_saturated raw intensity quality floor noPeak time, judge_noPeak raw intensity quality floor time,
      fun below => ?_, fun reached => ?_⟩⟩
  · obtain ⟨i, place, usable, highest, earliest⟩ := chosenExposure_best someUsable
    exact ⟨i, place, usable, highest, earliest⟩
  · rw [judge_usable, if_pos below]
  · rw [judge_usable, if_neg (Nat.not_lt.mpr reached)]

/-- Settles O21: the interpolation as the model computes it, its bounds, and the straight table. -/
theorem correctionInterpolatesTable : Obligations.CorrectionInterpolatesTable := by
  intro points raw time length
  have interval := rawCode_interval raw
  refine ⟨interval, ?_, fun onPoint => ?_, fun within => ?_, rfl, fun straight => ?_, rfl⟩
  · rw [correct_points, Int.fdiv_eq_ediv_of_nonneg _ (by decide)]
  · rw [correct_points, onPoint]
    simp
  · have point : ∀ i ≤ 256, -536870912 ≤ points.getD i 0 ∧ points.getD i 0 ≤ 536870911 := by
      intro i inside
      rw [List.getD_eq_getElem _ _ (by omega)]
      exact within _ (List.getElem_mem _)
    rw [correct_points]
    exact interpolation_within (by omega) (by omega) (point _ (by omega)) (point _ (by omega))
  · have point : ∀ i ≤ 256, points.getD i 0 = 4096 * (i : Int) := by
      intro i inside
      rw [List.getD_eq_getElem?_getD, straight i (by omega), Option.getD_some]
    rw [correct_points, point _ (by omega), point _ (by omega)]
    exact interpolation_straight raw.toNat

/-- Settles O22: what is common to all outcomes, and then the five ways one is staged, dropped or only counted. -/
theorem eachOutcomeCountedOnce : Obligations.EachOutcomeCountedOnce := by
  intro s h e xs a active kind u x cause good q distance items offset body sample gap extended yields handed staged
    rejected dropped
  have qualified : u = accountOutcome h e x cause (s.outcomeJudged h (cause != .none)) := qualify_scan s h e xs kind
  have stands := outcomeJudged_scansStand s h (cause != .none)
  have qualifier := outcomeJudged_qual s h (cause != .none)
  have record : (s.outcomeJudged h (cause != .none)).sampleRecord h a e x cause = sample := by
    rw [outcomeJudged_sampleRecord]
    refine congrArg (SampleRecord.mk h e.point x.quality cause _ _) ?_
    unfold State.sampleBody compactBody timestampOffset
    simp only [body, offset, Int.fdiv_eq_ediv_of_nonneg _ (by decide : (0 : Int) ≤ 10)]
    cases a.header.format with
    | none => rfl
    | some format => cases format <;> rfl
  generalize taken : s.outcomeJudged h (cause != .none) = v at *
  have sb : v.sb = s.sb := by rw [← taken]; rfl
  have ports : v.ports = s.ports := by rw [← taken]; rfl
  have activeV : v.oe.active = some a := by rw [stands.order]; exact active
  obtain ⟨⟨sum, issued, abandoned, skipped⟩, qu⟩ :=
    accountOutcome_once (h := h) (e := e) (x := x) (cause := cause) activeV
  rw [← qualified, stands.order] at sum issued abandoned skipped
  rw [← qualified] at qu
  have staging := stageSample_onlyStaging h sample v
  have isStaged : s.sb.staged.length < 1016 → u.sb = (stageSample h sample v).sb → staged := fun few same => by
    have records : v.gapRecords h = s.gapRecords h := by
      unfold State.gapRecords
      rw [ports, stands.order]
    refine ⟨?_, ?_⟩
    · rw [same, stageSample_staged h sample v (by rw [sb]; exact few), records, sb, stands.order]
      rfl
    · rw [same, stageSample_dropFlag, sb]
  have isRejected : ∀ w, ScansStand s w → u = countRejected h e w → rejected := fun w sameScans rejects => by
    have counted := countRejected_handed h e sameScans
    rw [← rejects] at counted
    exact counted
  have isDropped : ∀ bad, u = dropSample h e bad v → dropped (.ofDrop bad) := fun bad drops => by
    obtain ⟨flag, loss, point, _⟩ := dropSample_blocks h e v bad
    obtain ⟨lists, counts⟩ := dropSample_handed h e bad stands
    rw [← drops] at flag loss point lists counts
    rw [sb] at flag
    rw [ports] at point
    exact ⟨flag, loss, point.trans (congrArg some (extendGap_eq ..)), lists, counts⟩
  refine ⟨sum, issued, abandoned, skipped, ?_, fun well few => ?_, fun well full => ?_, fun bad unkept => ?_,
    fun bad kept few => ?_, fun bad kept full => ?_⟩
  · rw [qu, qualifier]
    exact counted_cause q cause
  · rw [accountOutcome_accepted activeV well (by rw [sb]; exact few), record, countAccepted_eq] at qualified
    refine ⟨isStaged few (by rw [qualified]; rfl), ?_, ?_⟩
    · rw [qualified]
      exact staging.scansStand.lists.trans stands.lists
    · rw [qualified, onCounts_oe, staging.scansStand.order, stands.order]
  · exact isDropped false (qualified.trans (accountOutcome_goodDropped activeV well (by rw [sb]; exact full)))
  · have rejects := qualified.trans (accountOutcome_unkept activeV bad unkept)
    refine ⟨?_, isRejected v stands rejects⟩
    rw [rejects, (countRejected_blocks h e v).1, sb]
  · have rejects := qualified.trans (accountOutcome_kept activeV bad kept (by rw [sb]; exact few))
    rw [record] at rejects
    refine ⟨isStaged few ?_, isRejected _ (stands.trans staging.scansStand) rejects⟩
    rw [rejects, (countRejected_blocks h e _).1]
  · exact isDropped true (qualified.trans (accountOutcome_badDropped activeV bad kept (by rw [sb]; exact full)))

/-- Settles O23, by the fault action held; under FAIL_ORDER by whether the order's end is still open. -/
theorem filterLimitAppliesFaultAction : Obligations.FilterLimitAppliesFaultAction := by
  intro s h c config u
  refine ⟨fun reached => ?_, exec_filterLimit_below config⟩
  have taken : s.filterTaken h = u := rfl
  have noticed := applyFaultAction_notice c.action h (filterTaken_notice s h)
  have steady := settle_steady (Steady.refl (applyFaultAction c.action h (s.filterTaken h)))
  refine ⟨_, exec_filterLimit_reached config reached, steady.notices .headFault noticed, fun continues => ?_,
    fun suspends => ?_, fun fails running undecided unit => ?_, fun fails idle => ?_⟩
  · rw [continues, taken, applyFaultAction_continueOn]
    exact ⟨rfl, settle_steady (Steady.refl u)⟩
  · rw [suspends, taken, applyFaultAction_suspendPass]
    exact ⟨rfl, settle_steady (Steady.refl (suspendScan h u))⟩
  · rw [fails, taken, applyFaultAction_failOrder]
    obtain ⟨engine, slot, _⟩ := settle_ended ⟨.headFaultAction, h.num⟩ u running undecided unit
    exact ⟨settle_steady (endCondition_steady _ (Steady.refl u)), engine, slot⟩
  · have idleTaken : u.oe.engine.running = false ∨ u.oe.endSlot ≠ none := idle
    rw [fails, taken, applyFaultAction_failOrder, endCondition_not _ u idleTaken]
    exact ⟨rfl, settle_steady (Steady.refl u)⟩

end

section
/-! The next list (05.2): what a candidate makes of the entries it touches. -/

namespace Sys2Proof.Machine

/-! ## How an entry stands to an offset (R86) -/

section
variable (cpr : Nat) (t : ZoneTable) (h : Head) (zone o : Nat) (e : Entry)

/-- An entry of the head and zone covers the offset. -/
abbrev Entry.Covers : Prop := e.head = h ∧ e.zone = zone ∧ e.low cpr t ≤ o ∧ o ≤ e.high cpr t

/-- An entry of the head and zone ends one pitch before the offset. -/
abbrev Entry.EndsBelow : Prop := e.head = h ∧ e.zone = zone ∧ e.high cpr t + t.pitchOf zone = o

/-- An entry of the head and zone begins one pitch after the offset. -/
abbrev Entry.BeginsAbove : Prop := e.head = h ∧ e.zone = zone ∧ e.low cpr t = o + t.pitchOf zone

theorem Entry.isFor_and_decide (p : Prop) [Decidable p] :
    (e.isFor h zone && decide p) = decide (e.head = h ∧ e.zone = zone ∧ p) := by
  simp only [Entry.isFor, Bool.decide_and, Bool.and_assoc, beq_eq_decide]

theorem Entry.isFor_and_beq (m n : Nat) :
    (e.isFor h zone && m == n) = decide (e.head = h ∧ e.zone = zone ∧ m = n) :=
  e.isFor_and_decide h zone (m = n)

theorem Entry.before_eq : e.before cpr t h o = decide (e.head.num < h.num ∨ (e.head = h ∧ e.low cpr t < o)) := by
  simp only [Entry.before, Bool.decide_or, Bool.decide_and, beq_eq_decide]

end

/-! ## One candidate taken into a list (R86, R87) -/

theorem find?_decide_of_exists {α : Type} {p : α → Prop} [DecidablePred p] {l : List α} (found : ∃ x ∈ l, p x) :
    ∃ x ∈ l, p x ∧ (l.find? fun x => decide (p x)) = some x := by
  cases result : l.find? fun x => decide (p x) with
  | none =>
    obtain ⟨x, mem, holds⟩ := found
    exact absurd (decide_eq_true holds) (List.find?_eq_none.mp result x mem)
  | some x => exact ⟨x, List.mem_of_find?_eq_some result, by simpa using List.find?_some result, rfl⟩

theorem find?_decide_of_forall {α : Type} {p : α → Prop} [DecidablePred p] {l : List α} (missing : ∀ x ∈ l, ¬p x) :
    (l.find? fun x => decide (p x)) = none :=
  List.find?_eq_none.mpr (by simpa only [decide_eq_true_eq] using missing)

theorem any_decide_of_forall {α : Type} {p : α → Prop} [DecidablePred p] {l : List α} (missing : ∀ x ∈ l, ¬p x) :
    ¬(l.any fun x => decide (p x)) = true := by
  simpa only [List.any_eq_true, decide_eq_true_eq, not_exists, not_and] using missing

section
variable {cpr : Nat} {t : ZoneTable} {h : Head} {zone point : Nat} {l : List Entry}
variable (reasons : Reasons) (attempts : Nat)

theorem mergeCandidate_covered (covered : ∃ e ∈ l, e.Covers cpr t h zone (windowOffset cpr t.start point)) :
    mergeCandidate cpr t h zone point reasons attempts l = .joined (l.map fun e =>
      if e.Covers cpr t h zone (windowOffset cpr t.start point) then e.joined reasons attempts else e) := by
  unfold mergeCandidate
  simp only [Entry.isFor_and_decide, decide_eq_true_eq]
  exact if_pos (by simpa only [List.any_eq_true, decide_eq_true_eq] using covered)

variable (uncovered : ∀ e ∈ l, ¬e.Covers cpr t h zone (windowOffset cpr t.start point))
include uncovered

theorem mergeCandidate_endsBelow
    (below : ∃ e ∈ l, e.EndsBelow cpr t h zone (windowOffset cpr t.start point))
    (noneAbove : ∀ e ∈ l, ¬e.BeginsAbove cpr t h zone (windowOffset cpr t.start point)) :
    mergeCandidate cpr t h zone point reasons attempts l = .joined (l.map fun e =>
      if e.EndsBelow cpr t h zone (windowOffset cpr t.start point) then
        { e.joined reasons attempts with last := point } else e) := by
  obtain ⟨_, _, _, found⟩ := find?_decide_of_exists below
  unfold mergeCandidate
  simp only [Entry.isFor_and_decide, Entry.isFor_and_beq, decide_eq_true_eq]
  rw [if_neg (any_decide_of_forall uncovered), found,
    find?_decide_of_forall noneAbove]

theorem mergeCandidate_beginsAbove
    (noneBelow : ∀ e ∈ l, ¬e.EndsBelow cpr t h zone (windowOffset cpr t.start point))
    (above : ∃ e ∈ l, e.BeginsAbove cpr t h zone (windowOffset cpr t.start point)) :
    mergeCandidate cpr t h zone point reasons attempts l = .joined (l.map fun e =>
      if e.BeginsAbove cpr t h zone (windowOffset cpr t.start point) then
        { e.joined reasons attempts with first := point } else e) := by
  obtain ⟨_, _, _, found⟩ := find?_decide_of_exists above
  unfold mergeCandidate
  simp only [Entry.isFor_and_decide, Entry.isFor_and_beq, decide_eq_true_eq]
  rw [if_neg (any_decide_of_forall uncovered), find?_decide_of_forall noneBelow, found]

/-- Entries on both sides become one, where one entry alone begins above. -/
theorem mergeCandidate_between {up : Entry}
    (below : ∃ e ∈ l, e.EndsBelow cpr t h zone (windowOffset cpr t.start point))
    (above : ∀ e ∈ l, e.BeginsAbove cpr t h zone (windowOffset cpr t.start point) ↔ e = up) (mem : up ∈ l) :
    mergeCandidate cpr t h zone point reasons attempts l = .joined ((l.filter fun e => decide (e ≠ up)).map fun e =>
      if e.EndsBelow cpr t h zone (windowOffset cpr t.start point) then
        { (e.joined reasons attempts).joined up.reasons up.attempts with last := up.last } else e) := by
  obtain ⟨_, _, _, foundBelow⟩ := find?_decide_of_exists below
  obtain ⟨u, memU, begins, foundAbove⟩ := find?_decide_of_exists ⟨up, mem, (above up mem).mpr rfl⟩
  obtain rfl := (above u memU).mp begins
  unfold mergeCandidate
  simp only [Entry.isFor_and_decide, Entry.isFor_and_beq, decide_eq_true_eq]
  rw [if_neg (any_decide_of_forall uncovered), foundBelow, foundAbove]
  dsimp only
  rw [List.filter_congr fun e he => show _ = decide (e ≠ u) by rw [decide_not, decide_eq_decide.mpr (above e he)]]

/-- With no entry beside it, a point is inserted as an entry of its own, or lost where the list is full. -/
theorem mergeCandidate_apart
    (noneBelow : ∀ e ∈ l, ¬e.EndsBelow cpr t h zone (windowOffset cpr t.start point))
    (noneAbove : ∀ e ∈ l, ¬e.BeginsAbove cpr t h zone (windowOffset cpr t.start point)) :
    mergeCandidate cpr t h zone point reasons attempts l =
      if l.length < 128 then
        .created (l.filter (Entry.before cpr t h (windowOffset cpr t.start point))
          ++ { head := h, zone := zone, first := point, last := point, reasons := reasons, attempts := attempts }
          :: l.filter fun e => !Entry.before cpr t h (windowOffset cpr t.start point) e)
      else .lost := by
  unfold mergeCandidate
  simp only [Entry.isFor_and_decide, Entry.isFor_and_beq, decide_eq_true_eq]
  rw [if_neg (any_decide_of_forall uncovered),
    find?_decide_of_forall noneBelow, find?_decide_of_forall noneAbove, Config.revisitRoom]

end

/-! ## The order of the list (R84) -/

/-- The order of the entries in the lists: by head, then by first offset. -/
abbrev Entry.Precedes (cpr : Nat) (t : ZoneTable) (a b : Entry) : Prop :=
  a.head.num < b.head.num ∨ (a.head = b.head ∧ a.low cpr t ≤ b.low cpr t)

theorem num_injective {h k : Head} (same : h.num = k.num) : h = k := by
  cases h <;> cases k <;> first | rfl | exact absurd same (by decide)

section
variable {α : Type} {p : α → Bool} {r : α → α → Prop} {l : List α}

/-- In a list ordered so that what stands before a member of `p` is in `p`, the members of `p` stand first. -/
theorem pairwise_eq_filter_append (ordered : l.Pairwise r) (initial : ∀ a b, r a b → p b = true → p a = true) :
    l = l.filter p ++ l.filter fun x => !p x := by
  induction ordered with
  | nil => rfl
  | @cons x xs first rest ih =>
    cases hx : p x with
    | true => simpa [hx] using ih
    | false =>
      have others : ∀ y ∈ xs, p y = false := fun y hy =>
        Bool.eq_false_iff.mpr fun hy' => by simp [initial x y (first y hy) hy'] at hx
      rw [List.filter_eq_nil_iff.mpr (by simpa [hx] using others),
        List.filter_eq_self.mpr (by simpa [hx] using others), List.nil_append]

/-- A new element between the members of `p` and the others keeps an order that ranks it there. -/
theorem pairwise_filter_insert (ordered : l.Pairwise r) {new : α} (below : ∀ a, p a = true → r a new)
    (above : ∀ b, p b = false → r new b) (across : ∀ a b, p a = true → p b = false → r a b) :
    (l.filter p ++ new :: l.filter fun x => !p x).Pairwise r := by
  have inside : ∀ a ∈ l.filter p, p a = true := fun a ha => (List.mem_filter.mp ha).2
  have outside : ∀ b ∈ l.filter (fun x => !p x), p b = false := fun b hb => by
    simpa using (List.mem_filter.mp hb).2
  refine List.pairwise_append.mpr ⟨ordered.filter _, List.pairwise_cons.mpr
    ⟨fun b hb => above b (outside b hb), ordered.filter _⟩, fun a ha b hb => ?_⟩
  rcases List.mem_cons.mp hb with rfl | hb
  · exact below a (inside a ha)
  · exact across a b (inside a ha) (outside b hb)

end

section
variable {cpr : Nat} {t : ZoneTable} {h : Head} {o : Nat} {a b : Entry}

theorem before_iff : a.before cpr t h o = true ↔ a.head.num < h.num ∨ (a.head = h ∧ a.low cpr t < o) := by
  rw [Entry.before_eq, decide_eq_true_eq]

/-- An entry that does not stand before a head's offset is of a higher head, or begins at the offset or after it. -/
theorem before_false_iff : a.before cpr t h o = false ↔ h.num < a.head.num ∨ (h = a.head ∧ o ≤ a.low cpr t) := by
  rw [Entry.before_eq, decide_eq_false_iff_not, not_or, not_and, Nat.not_lt, Nat.not_lt]
  refine ⟨fun ⟨least, after⟩ => ?_, ?_⟩
  · rcases Nat.lt_or_eq_of_le least with higher | same
    · exact .inl higher
    · exact .inr ⟨num_injective same, after (num_injective same).symm⟩
  · rintro (higher | ⟨rfl, after⟩)
    · exact ⟨Nat.le_of_lt higher, fun same => absurd higher (by simp [same])⟩
    · exact ⟨Nat.le_refl _, fun _ => after⟩

theorem precedes_before (order : a.Precedes cpr t b) (hb : b.before cpr t h o = true) :
    a.before cpr t h o = true := by
  rw [before_iff] at hb ⊢
  rcases order with lower | ⟨same, first⟩
  · rcases hb with hb | ⟨rfl, _⟩
    · exact .inl (Nat.lt_trans lower hb)
    · exact .inl lower
  · rw [same]
    exact hb.imp_right fun ⟨head, begins⟩ => ⟨head, Nat.lt_of_le_of_lt first begins⟩

theorem before_precedes (ha : a.before cpr t h o = true) (hb : b.before cpr t h o = false) :
    a.Precedes cpr t b := by
  rw [before_iff] at ha
  rw [before_false_iff] at hb
  rcases ha with lower | ⟨rfl, begins⟩
  · rcases hb with higher | ⟨rfl, _⟩
    · exact .inl (Nat.lt_trans lower higher)
    · exact .inl lower
  · exact hb.imp_right fun ⟨head, after⟩ => ⟨head, Nat.le_trans (Nat.le_of_lt begins) after⟩

end

/-- A point inserted into a list in the order of R84 leaves it in that order, between two parts of the old list. -/
theorem ordered_insert {cpr : Nat} {t : ZoneTable} {l : List Entry} (new : Entry)
    (ordered : l.Pairwise (Entry.Precedes cpr t)) :
    let before := Entry.before cpr t new.head (new.low cpr t)
    (l.filter before ++ new :: l.filter fun e => !before e).Pairwise (Entry.Precedes cpr t)
    ∧ l = l.filter before ++ l.filter fun e => !before e :=
  ⟨pairwise_filter_insert ordered
      (fun _ ha => (before_iff.mp ha).imp_right fun ⟨head, begins⟩ => ⟨head, Nat.le_of_lt begins⟩)
      (fun _ hb => before_false_iff.mp hb) fun _ _ => before_precedes,
    pairwise_eq_filter_append ordered fun _ _ => precedes_before⟩

/-! ## A candidate handed to the Revisit Unit (R85) -/

theorem candidate_idle {s : State} (h : Head) (zone point : Nat) (reasons : Reasons) (idle : s.ru.phase = .idle) :
    candidate h zone point reasons s = s := by
  unfold candidate
  rw [idle]

theorem candidate_taken {s : State} {t : ZoneTable} (h : Head) (zone point : Nat) (reasons : Reasons)
    (phase : s.ru.phase ≠ .idle) (zones : s.tg.zones = some t) :
    candidate h zone point reasons s
      = applyFate (mergeCandidate s.cpr t h zone point reasons s.ru.attempts s.ru.next) s := by
  unfold candidate
  rw [zones]
  cases found : s.ru.phase with
  | idle => exact absurd found phase
  | acquiring | round | closing => rfl

theorem candidate_current {s : State} (h : Head) (zone point : Nat) (reasons : Reasons) :
    (candidate h zone point reasons s).ru.current = s.ru.current := by
  obtain ⟨_, _, _, _, e⟩ := candidate_only s h zone point reasons
  rw [e]

end Sys2Proof.Machine
end

section
/-! Rounds and step close (05.3, 05.4): what the decision of R90 starts, and what a step's close stages. -/

namespace Sys2Proof.Machine

/-! ## A round starts (R91, R33) -/

/-- A head's passes with the scan record armed for the one revisit pass of a round (R33). -/
def HeadPasses.revisitArmed (round : Nat) (p : HeadPasses) : HeadPasses :=
  { p with scan := .armedFor ⟨.revisit, round⟩ 1, seriesOpen := true, scanEnded := false }

theorem armRevisit_awaited (awaited : HeadSet) (h : Head) (s : State) :
    (if awaited.get h then armRevisit s.ru.round h s else s)
      = s.onPasses h fun p => if awaited.get h then p.revisitArmed s.ru.round else p := by
  unfold State.onPasses
  split
  · rfl
  · rw [set_get]

/-- All awaited heads armed change the passes of those heads alone. -/
theorem forHeads_armRevisit (awaited : HeadSet) (s : State) :
    forHeads (fun h s => if awaited.get h then armRevisit s.ru.round h s else s) s = { s with tg := { s.tg with
      heads := .of fun h =>
        if awaited.get h then (s.tg.heads.get h).revisitArmed s.ru.round else s.tg.heads.get h } } := by
  simp only [armRevisit_awaited]
  rfl

/-- A head has an entry among those that a round takes. -/
def State.revisits (s : State) (h : Head) : Bool := (s.ru.next.filter s.isWorking).any fun e => e.head == h

theorem startRound_eq (s : State) : startRound s = { s with
    oe := { s.oe with engine := .revisiting }
    ru := { s.ru with
      current := s.ru.next.filter s.isWorking
      next := s.ru.next.filter fun e => !s.isWorking e
      round := s.ru.round + 1
      phase := .round
      awaited := .of s.revisits }
    tg := { s.tg with
      heads := .of fun h =>
        if s.revisits h then (s.tg.heads.get h).revisitArmed (s.ru.round + 1) else s.tg.heads.get h } } := by
  refine (forHeads_armRevisit (.of s.revisits) _).trans ?_
  simp only [get_of]
  rfl

/-! ## The step request (R115) -/

theorem requested_requestTime (f : Span) (now : Time) : (f.requested now).requestTime = now := by
  unfold Span.requested
  dsimp only
  split <;> rfl

/-- A step request stands while the settle line is active, and is acknowledged at once while it is not. -/
theorem requested_handshake (f : Span) (now : Time) :
    (f.settleActive = true → (f.requested now).handshake = .requesting ∧ (f.requested now).stepReq = true)
    ∧ (f.settleActive = false → (f.requested now).handshake = .settling ∧ (f.requested now).stepReq = false) := by
  unfold Span.requested
  exact ⟨fun active => by rw [if_pos active]; exact ⟨rfl, rfl⟩, fun inactive => by rw [inactive]; exact ⟨rfl, rfl⟩⟩

/-! ## A step's end (R139) -/

/-- A step counted completed and the step index advanced, with the registers and the bus as the Status Page's
request leaves them. -/
def State.stepCounted (s : State) (x : Exchange) : State := { s with
  oe := { s.oe with
    counts := { s.oe.counts with stepsCompleted := s.oe.counts.stepsCompleted + 1 }
    marker := none
    stepIndex := s.oe.stepIndex + 1 }
  xe := x }

/-- The entry to CLOSING changes the engine's state, end, stage and marks alone. -/
theorem enterClosing_engine (slot : EndSlot) (s : State) : ∃ stage interrupting marker beginTaken,
    (enterClosing slot s).oe = { s.oe with
      engine := .closing, endSlot := some slot, stage := stage, interrupting := interrupting, marker := marker,
      beginTaken := beginTaken } := by
  unfold enterClosing
  obtain ⟨_, _, _, _, _, _, _, e, _⟩ := closingBlocks (s.onOrder fun o =>
    { o with engine := .closing, endSlot := some slot, stage := .orderBegin, interrupting := false,
             marker := keptMarker o.marker })
  dsimp only
  rw [e]
  unfold openClosing holdMarker
  repeat' split
  · exact ⟨_, _, _, _, rfl⟩
  · rw [takeRecord_oe]
    exact ⟨_, _, _, _, rfl⟩
  · exact ⟨_, _, _, _, rfl⟩
  · exact ⟨_, _, _, _, rfl⟩

/-- From `s` to `u`, the end of a step: it is counted, and the next step's request is made, or after the last step
the order is CLOSING with COMPLETE. -/
structure StepEnded (a : OrderHeader) (s u : State) : Prop where
  counts : u.oe.counts = { s.oe.counts with stepsCompleted := s.oe.counts.stepsCompleted + 1 }
  flags : u.oe.flags = s.oe.flags
  stepIndex : u.oe.stepIndex = s.oe.stepIndex + 1
  lists : u.ru = s.ru
  another : s.oe.stepIndex + 1 < a.stepCount → u.oe.engine = .stepMove ∧ u.sf = s.sf.requested s.xe.time
  last : a.stepCount ≤ s.oe.stepIndex + 1 → u.oe.engine = .closing ∧ u.oe.endSlot = some ⟨.complete, 0⟩

/-- What follows the counting of a step and the page asked for. -/
theorem stepEndTaken_of {s u : State}
    (counted : (requestPage ((s.onCounts fun c => { c with stepsCompleted := c.stepsCompleted + 1 }).onOrder fun o =>
      { o with marker := none })).onOrder (fun o => { o with stepIndex := o.stepIndex + 1 }) = u) :
    stepEndTaken s = if u.oe.engine = .closing then u
      else if u.oe.stepIndex < (u.oe.active.map (·.header.stepCount)).getD 0 then enterStepMove u
      else enterClosing ⟨.complete, 0⟩ u := by
  subst counted
  rfl

/-- A step's end counts the step, asks for a page, and goes on by whether a step is left. -/
theorem stepEndTaken_eq {s : State} {a : ActiveOrder} (active : s.oe.active = some a)
    (runs : s.oe.engine ≠ .closing) : ∃ x, x.time = s.xe.time ∧ stepEndTaken s
      = if s.oe.stepIndex + 1 < a.header.stepCount then enterStepMove (s.stepCounted x)
        else enterClosing ⟨.complete, 0⟩ (s.stepCounted x) := by
  obtain ⟨busy, queued, bus, page, _⟩ := requestPage_only ((s.onCounts fun c =>
    { c with stepsCompleted := c.stepsCompleted + 1 }).onOrder fun o => { o with marker := none })
  have steps : (s.oe.active.map (·.header.stepCount)).getD 0 = a.header.stepCount := by
    rw [active]
    rfl
  refine ⟨{ s.xe with pageBusy := busy, pageQueued := queued, bus := bus }, rfl, ?_⟩
  refine (stepEndTaken_of (u := s.stepCounted { s.xe with pageBusy := busy, pageQueued := queued, bus := bus })
    ?_).trans ((if_neg runs).trans ?_)
  · rw [page]
    rfl
  · rw [← steps]
    rfl

theorem stepEndTaken_stepEnded {s : State} {a : ActiveOrder} (active : s.oe.active = some a)
    (runs : s.oe.engine ≠ .closing) : StepEnded a.header s (stepEndTaken s) := by
  obtain ⟨x, time, e⟩ := stepEndTaken_eq active runs
  rw [e]
  split
  · rename_i more
    exact ⟨rfl, rfl, rfl, rfl, fun _ => ⟨rfl, congrArg s.sf.requested time⟩,
      fun last => absurd more (Nat.not_lt.mpr last)⟩
  · rename_i last
    obtain ⟨_, _, _, _, oe⟩ := enterClosing_engine ⟨.complete, 0⟩ (s.stepCounted x)
    obtain ⟨_, _, _, _, _, _, _, _, ru, _⟩ := enterClosing_spec ⟨.complete, 0⟩ (s.stepCounted x)
    exact ⟨congrArg OrderEngine.counts oe, (congrArg OrderEngine.flags oe).trans rfl,
      congrArg OrderEngine.stepIndex oe, ru, fun more => absurd more last,
      fun _ => ⟨congrArg OrderEngine.engine oe, congrArg OrderEngine.endSlot oe⟩⟩

/-! ## A record taken while step close goes on (R152) -/

theorem takeRecord_eq {r : Record} {s : State} (room : s.hasRoom r = true) : ∃ w x,
    takeRecord r s = { s with sb := s.sb.append r s.oe.activeTag, rw := w, xe := x } ∧ x.time = s.xe.time := by
  obtain ⟨w, x, e⟩ := joinRecord_only r s
  have time := (joinRecord_steady r (Steady.refl s)).time
  unfold takeRecord
  rw [if_pos room, e]
  rw [e] at time
  exact ⟨w, x, rfl, time⟩

/-! ## The lists closed (R96) -/

/-- The lists closed, with the step's flag, before the STEP-end record is offered (R96). -/
def State.closedLists (s : State) : State := { s with
  ru := { s.ru with current := [], round := 0, phase := .idle }
  oe := { s.oe with flags := { s.oe.flags with
    unresolved := s.oe.flags.unresolved || decide (0 < s.ru.unresolvedStaged) } } }

theorem listsClosed_eq (s : State) : listsClosed s = offerStepEnd s.closedLists := by
  unfold listsClosed State.closedLists
  dsimp only
  refine congrArg offerStepEnd ?_
  split
  · rename_i staged
    rw [decide_eq_true staged, Bool.or_true]
    rfl
  · rename_i noneStaged
    rw [decide_eq_false noneStaged, Bool.or_false]

/-- With an entry free the STEP-end record is staged, and the step ends. -/
theorem listsClosed_room {s : State} (room : s.sb.staged.length < 1024) : ∃ sb w x,
    listsClosed s = stepEndTaken { s.closedLists with sb := sb, rw := w, xe := x }
    ∧ sb.staged = s.sb.staged ++ [⟨s.stepEndRecord, s.oe.activeTag⟩] ∧ x.time = s.xe.time := by
  have free : s.closedLists.hasRoom s.closedLists.stepEndRecord = true := hasRoom_other _ s.closedLists rfl room
  obtain ⟨w, x, e, time⟩ := takeRecord_eq free
  rw [listsClosed_eq, offerStepEnd, if_pos free, e]
  exact ⟨_, w, x, rfl, rfl, time⟩

theorem listsClosed_full {s : State} (full : 1024 ≤ s.sb.staged.length) :
    listsClosed s = holdMarker s.stepEndRecord s.closedLists := by
  rw [listsClosed_eq, offerStepEnd, hasRoom_full s.closedLists.stepEndRecord s.closedLists rfl full]
  rfl

/-! ## UNRESOLVED records (R94, R95) -/

theorem unresolvedRecord_eq {s : State} {a : ActiveOrder} {t : ZoneTable} (active : s.oe.active = some a)
    (zones : s.tg.zones = some t) (e : Entry) : s.unresolvedRecord e =
      let pass : PassId := if e.attempts = 0 then ⟨.normal, a.header.revolutions - 1⟩ else ⟨.revisit, e.attempts⟩
      { head := e.head, reason := .unresolved, step := s.oe.stepIndex, zone := e.zone, firstPass := pass,
        lastPass := pass, causes := e.reasons, attempts := e.attempts, first := e.first, last := e.last,
        count := entryPoints s.cpr t e } := by
  simp only [State.unresolvedRecord, State.pointsOf, State.revolutions, active, zones, Option.map_some,
    Option.getD_some]

/-- The entries' records counted, and their entries gone from the next list (R95). -/
def State.unresolvedCounted (s : State) (l : List Entry) (held : Option GapRecord) : State := { s with
  ru := { s.ru with next := [], held := held, unresolvedStaged := s.ru.unresolvedStaged + l.length }
  oe := { s.oe with counts := { s.oe.counts with
    unresolved := s.oe.counts.unresolved + (l.map s.pointsOf).sum } } }

theorem takeUnresolved_eq {s : State} (e : Entry) (rest : List Entry) (room : s.sb.staged.length < 1024) : ∃ w x,
    takeUnresolved (s.unresolvedRecord e) rest s = { s with
      ru := { s.ru with next := rest, held := none, unresolvedStaged := s.ru.unresolvedStaged + 1 }
      oe := { s.oe with counts := { s.oe.counts with unresolved := s.oe.counts.unresolved + s.pointsOf e } }
      sb := s.sb.append (.gap (s.unresolvedRecord e)) s.oe.activeTag, rw := w, xe := x }
    ∧ x.time = s.xe.time := by
  unfold takeUnresolved
  exact takeRecord_eq (hasRoom_other _ _ rfl room)

/-- With room for all of them, one record for each entry is staged in the list's order, and the lists are closed. -/
theorem stageUnresolved_room (l : List Entry) (s : State) (next : s.ru.next = l)
    (room : s.sb.staged.length + l.length ≤ 1024) : ∃ held sb w x,
      stageUnresolved l s = listsClosed { s.unresolvedCounted l held with sb := sb, rw := w, xe := x }
      ∧ sb.staged = s.sb.staged ++ l.map (fun e => ⟨.gap (s.unresolvedRecord e), s.oe.activeTag⟩)
      ∧ x.time = s.xe.time := by
  induction l generalizing s with
  | nil =>
    have same : s.ru = { s.ru with next := [] } := by rw [← next]
    exact ⟨s.ru.held, s.sb, s.rw, s.xe, congrArg (fun u => listsClosed { s with ru := u }) same,
      (List.append_nil _).symm, rfl⟩
  | cons e es ih =>
    have free : s.sb.staged.length < 1024 := by
      rw [List.length_cons] at room
      omega
    obtain ⟨w, x, taken, time⟩ := takeUnresolved_eq e es free
    obtain ⟨held, sb, w', x', rest, staged, time'⟩ := ih (takeUnresolved (s.unresolvedRecord e) es s)
      (by rw [taken]) (by
        rw [taken]
        simp only [Staging.append, List.length_append, List.length_cons, List.length_nil] at room ⊢
        omega)
    have one : stageUnresolved (e :: es) s = stageUnresolved es (takeUnresolved (s.unresolvedRecord e) es s) :=
      if_pos (hasRoom_other _ s rfl free)
    rw [taken] at rest staged time'
    refine ⟨held, sb, w', x', ?_, ?_, time'.trans time⟩
    · rw [one, taken, rest]
      have number : s.ru.unresolvedStaged + (e :: es).length = s.ru.unresolvedStaged + 1 + es.length := by
        rw [List.length_cons]
        omega
      have points : s.oe.counts.unresolved + ((e :: es).map s.pointsOf).sum
          = s.oe.counts.unresolved + s.pointsOf e + (es.map s.pointsOf).sum := by
        rw [List.map_cons, List.sum_cons, Nat.add_assoc]
      unfold State.unresolvedCounted
      rw [number, points]
      rfl
    · rw [staged, List.map_cons, List.append_cons]
      rfl

/-! ## Step close (R90, R95, R96) -/

/-- The decision is step close, and no record of it has been offered yet. -/
def State.closingLists (s : State) : State :=
  { s with ru := { s.ru with phase := .closing }, oe := { s.oe with engine := .stepClose } }

theorem enterStepClose_eq (s : State) : enterStepClose s = stageUnresolved s.ru.next s.closingLists := rfl

/-- With room for every record, step close stages the records and the STEP-end record, and the step ends. -/
theorem enterStepClose_room {s : State} (room : s.sb.staged.length + s.ru.next.length + 1 ≤ 1024) :
    ∃ held v, enterStepClose s = stepEndTaken v
      ∧ v.oe = (s.closingLists.unresolvedCounted s.ru.next held).closedLists.oe
      ∧ v.ru = (s.closingLists.unresolvedCounted s.ru.next held).closedLists.ru
      ∧ v.sf = s.sf ∧ v.xe.time = s.xe.time
      ∧ v.sb.staged = s.sb.staged ++ s.ru.next.map (fun e => ⟨.gap (s.unresolvedRecord e), s.oe.activeTag⟩)
        ++ [⟨.stepEnd
          { tag := s.oe.activeTag, step := s.oe.stepIndex, time := s.xe.time, revolution := s.tracker.revolution,
            unresolved := s.ru.unresolvedStaged + s.ru.next.length, restarts := s.oe.stepRestarts },
          s.oe.activeTag⟩] := by
  obtain ⟨held, sb, w, x, records, staged, time⟩ :=
    stageUnresolved_room s.ru.next s.closingLists rfl (Nat.le_of_succ_le room)
  have recordsStaged : sb.staged
      = s.sb.staged ++ s.ru.next.map fun e => ⟨.gap (s.unresolvedRecord e), s.oe.activeTag⟩ := staged
  have free : sb.staged.length < 1024 := by
    rw [recordsStaged, List.length_append, List.length_map]
    omega
  obtain ⟨sb', w', x', closed, staged', time'⟩ := listsClosed_room
    (s := { s.closingLists.unresolvedCounted s.ru.next held with sb := sb, rw := w, xe := x }) free
  refine ⟨held, _, (enterStepClose_eq s).trans (records.trans closed), rfl, rfl, rfl, time'.trans time, ?_⟩
  dsimp only
  rw [staged', State.stepEndRecord]
  dsimp only
  rw [recordsStaged, time]
  rfl

/-- With the buffer full the first record of step close is held: that of the first entry, or the STEP-end record. -/
theorem enterStepClose_full {s : State} (full : 1024 ≤ s.sb.staged.length) : enterStepClose s =
    match s.ru.next with
    | [] => holdMarker s.stepEndRecord s.closingLists.closedLists
    | e :: _ => { s.closingLists with ru := { s.closingLists.ru with held := some (s.unresolvedRecord e) } } := by
  rw [enterStepClose_eq]
  cases s.ru.next with
  | nil => exact listsClosed_full (s := s.closingLists) full
  | cons e _ =>
    have noRoom : s.closingLists.hasRoom (.gap (s.closingLists.unresolvedRecord e)) = false :=
      hasRoom_full _ s.closingLists rfl full
    rw [stageUnresolved, noRoom]
    rfl

/-! ## The decision (R90) -/

theorem roundDecision_eq {s : State} {a : ActiveOrder} (active : s.oe.active = some a) : roundDecision s =
    if s.ru.round < a.header.revisitLimit ∧ ∃ e ∈ s.ru.next, s.oe.excluded.get e.head = false then startRound s
    else enterStepClose s := by
  simp only [roundDecision, active, Option.map_some, Option.getD_some, List.any_eq_true, State.isWorking,
    Bool.not_eq_true']

end Sys2Proof.Machine
end

section
/-! The statements of 05 (the revisit lists), settled. -/

open Sys2Proof Sys2Proof.Machine

/-- Settles O25, by the phase and then by the entries that the point touches. -/
theorem candidateTakenIntoNextList : Obligations.CandidateTakenIntoNextList := by
  intro s h zone point reasons t zones u o pitch covers ends begins joined
  have taken : s.ru.phase ≠ .idle →
      u = applyFate (mergeCandidate s.cpr t h zone point reasons s.ru.attempts s.ru.next) s :=
    fun phase => candidate_taken h zone point reasons phase zones
  have apart : s.ru.phase ≠ .idle → (∀ e ∈ s.ru.next, ¬covers e ∧ ¬ends e ∧ ¬begins e) → u = applyFate _ s :=
    fun phase clear => (taken phase).trans (congrArg (applyFate · s) (mergeCandidate_apart reasons s.ru.attempts
      (fun e he => (clear e he).1) (fun e he => (clear e he).2.1) fun e he => (clear e he).2.2))
  refine ⟨candidate_current h zone point reasons, candidate_idle h zone point reasons,
    fun phase clear room => ?_, fun phase clear full => ?_, fun phase covered => ?_,
    fun phase uncovered => ⟨fun below noneAbove => ?_, fun noneBelow above => ?_, fun up mem above unique below => ?_⟩⟩
  · rw [apart phase clear, if_pos room]
    refine ⟨rfl, ?_⟩
    intro new before ordered
    have insertion : Entry.before s.cpr t h o = before := funext fun e => e.before_eq s.cpr t h o
    rw [← insertion]
    refine ⟨rfl, fun inOrder => ?_⟩
    obtain ⟨kept, parts⟩ := ordered_insert new inOrder
    exact ⟨kept, _, _, parts, rfl⟩
  · rw [apart phase clear, if_neg (Nat.not_lt.mpr full)]
    exact ⟨rfl, rfl, setNotice_notice _ _ _ (.inr rfl)⟩
  · rw [taken phase, mergeCandidate_covered reasons _ covered]
    exact ⟨rfl, rfl⟩
  · rw [taken phase, mergeCandidate_endsBelow reasons _ uncovered below noneAbove]
    exact ⟨rfl, rfl⟩
  · rw [taken phase, mergeCandidate_beginsAbove reasons _ uncovered noneBelow above]
    exact ⟨rfl, rfl⟩
  · rw [taken phase, mergeCandidate_between reasons _ uncovered below
      (fun e he => ⟨unique e he, fun same => same ▸ above⟩) mem]
    exact ⟨rfl, rfl⟩

/-- Settles O26, by the decision; step close by the room that it finds. -/
theorem roundStartsBelowRevisitLimit : Obligations.RoundStartsBelowRevisitLimit := by
  intro s a active
  have decision := roundDecision_eq active
  refine ⟨fun starts => ?_, fun closes => ?_⟩
  · rw [decision, if_pos starts, startRound_eq]
    refine ⟨rfl, rfl, rfl, rfl, ?_, fun h => get_of _ h, fun h awaits => ?_⟩
    · simp only [State.isWorking, Bool.not_not]
    · have revisits : s.revisits h = true := (get_of s.revisits h).symm.trans awaits
      simp only [State.scan, get_of, if_pos revisits]
      rfl
  · rw [if_neg closes] at decision
    refine ⟨decision, fun t zones => ?_⟩
    intro u points unresolved stepEnd n
    have record : s.unresolvedRecord = unresolved := funext (unresolvedRecord_eq active zones)
    have pointsOf : s.pointsOf = points := funext fun e => by rw [State.pointsOf, zones]; rfl
    have steady : Steady s u := roundDecision_steady (Steady.refl s)
    have closed : u = enterStepClose s := decision
    refine ⟨fun room => ?_, fun full => ?_⟩
    · obtain ⟨held, v, e, oe, ru, sf, time, staged⟩ := enterStepClose_room room
      have ended : StepEnded a.header v u := by
        rw [closed, e]
        exact stepEndTaken_stepEnded (by rw [oe]; exact active) (by rw [oe]; exact nofun)
      have kept : v.sb.staged <+: u.sb.staged := by
        rw [closed, e]
        exact (stepEndTaken_steady (Steady.refl v)).staged
      obtain ⟨counts, flags, stepIndex, lists, another, last⟩ := ended
      rw [oe] at counts flags stepIndex another last
      rw [ru] at lists
      rw [sf, time] at another
      rw [staged, record] at kept
      obtain ⟨requesting, settling⟩ := requested_handshake s.sf s.xe.time
      refine ⟨kept, ?_, congrArg CompletionFlags.unresolved flags, congrArg Revisit.current lists,
        congrArg Revisit.next lists, congrArg Revisit.round lists, congrArg Revisit.phase lists, stepIndex, steady,
        fun more => ?_, last⟩
      · rw [counts, ← pointsOf]
        rfl
      · obtain ⟨engine, span⟩ := another more
        rw [span]
        exact ⟨engine, requested_requestTime _ _, requesting, settling⟩
    · rw [closed, enterStepClose_full full, ← record]
      cases next : s.ru.next with
      | nil => exact ⟨rfl, rfl, rfl, next, rfl, nofun, fun _ => ⟨rfl, rfl⟩⟩
      | cons e es =>
        exact ⟨rfl, rfl, rfl, next, rfl, fun e' es' same => by cases same; exact ⟨rfl, rfl⟩, nofun⟩
end

section
/-! Reference checks (06.1 to 06.4): the limits, requests, verdicts taken with their effect, and completed passages. -/

namespace Sys2Proof.Machine

/-! ## The commands of the limits (R101, R140, R157; log 1) -/

theorem exec_lightGraceExpiry (s : State) : exec .lightGraceExpiry s
    = .next (if s.graceOver then settle (endCondition ⟨.lightLost, 0⟩ s) else s) := rfl

theorem exec_referenceOverdue (h : Head) (s : State) : exec (.referenceOverdue h) s
    = .next (if s.overdue h then settle (endCondition ⟨.referenceOverdue, h.num⟩ s) else s) := rfl

theorem exec_outputStall (s : State) : exec .outputStall s = execOutputStall s := rfl

theorem exec_outputStall_stalled {s : State} {e : EndSlot} (stalled : s.stalled = some e) :
    exec .outputStall s = .next (settle (endCondition e s)) := by
  rw [exec_outputStall, execOutputStall, stalled]

theorem exec_outputStall_below {s : State} (below : s.stalled = none) : exec .outputStall s = .next s := by
  rw [exec_outputStall, execOutputStall, below]

/-- An end condition that finds the order's end open, with the steps that follow it, leaves the order CLOSING with
that end. -/
theorem settle_endCondition_closes (slot : EndSlot) {s : State} (running : s.oe.engine.running = true)
    (undecided : s.oe.endSlot = none) (unit : s.uc.unit ≠ .starting) :
    Steady s (settle (endCondition slot s)) ∧ (settle (endCondition slot s)).oe.engine = .closing
      ∧ (settle (endCondition slot s)).oe.endSlot = some slot := by
  obtain ⟨engine, ended, _⟩ := settle_ended slot s running undecided unit
  exact ⟨settle_steady (endCondition_steady slot (Steady.refl s)), engine, ended⟩

/-! ## Requests (R102) -/

section
variable {s : State} {h : Head}

theorem exec_referenceDue (h : Head) (s : State) :
    exec (.referenceDue h) s = .next (if s.requests h then requestPassage h s else s) := rfl

theorem requests_checking_iff {c : RefConfig} (mode : s.rc.mode = .checking) (config : s.rc.config = some c) :
    s.requests h = true ↔ c.interval ≤ (s.rc.heads.get h).due ∧ (s.rc.heads.get h).passage = .idle
      ∧ (s.ports.get h).state = .ready ∧ s.mask.get h = true ∧ s.oe.excluded.get h = false := by
  unfold State.requests State.requestDue State.inOrder
  rw [mode, config]
  simp [and_assoc]

/-- A passage requested where no passage stands armed: OPEN with a cleared tally, its record armed for one pass. -/
theorem requestPassage_armed (free : (s.ref h).state = .notArmed ∨ (s.ref h).state = .done) :
    requestPassage h s =
      (s.onHeadRef h fun r => { r with passage := .opened, tally := .zero, endTaken := false }).onPasses h fun p =>
        { p with ref := .armedFor ⟨.reference, 0⟩ 1, refIssued := 0, refSkipped := 0 } := by
  have stands (f : HeadRef → HeadRef) : (s.onHeadRef h f).ref h = s.ref h := rfl
  unfold requestPassage armReference
  rw [stands]
  rcases free with state | state <;> rw [state]

end

/-! ## The verdict of a checking passage (R105) -/

section
variable (y : Tally) (nominal drift : Int) (limit : Nat)

theorem mean_eq_fdiv : y.mean = if y.good = 0 then 0 else Int.fdiv y.sum y.good := by
  unfold Tally.mean
  rw [Int.fdiv_eq_ediv_of_nonneg _ (Int.natCast_nonneg _)]

theorem sparse_iff : y.sparse = true ↔ y.good * 2 < y.triggers := decide_eq_true_iff

theorem checkVerdict_invalid : checkVerdict y false nominal limit = .noNominal := rfl

variable {y nominal limit}

theorem checkVerdict_sparse (sparse : y.good * 2 < y.triggers) : checkVerdict y true nominal limit = .sparse := by
  unfold checkVerdict
  rw [if_neg (by decide), if_pos ((sparse_iff y).mpr sparse)]

theorem checkVerdict_dense (dense : ¬y.good * 2 < y.triggers) : checkVerdict y true nominal limit
    = if limit < (y.mean - nominal).natAbs then .overLimit else .ok := by
  unfold checkVerdict
  rw [if_neg (by decide), if_neg (mt (sparse_iff y).mp dense)]

/-- A checking passage is judged by one of the four verdicts of R105. -/
theorem checkVerdict_cases (valid : Bool) :
    checkVerdict y valid nominal limit = .noNominal ∨ checkVerdict y valid nominal limit = .sparse
    ∨ checkVerdict y valid nominal limit = .overLimit ∨ checkVerdict y valid nominal limit = .ok := by
  unfold checkVerdict
  repeat' split
  · exact .inl rfl
  · exact .inr (.inl rfl)
  · exact .inr (.inr (.inl rfl))
  · exact .inr (.inr (.inr rfl))

end

/-! ## What a verdict makes of its head's state (R107, R110) -/

/-- The nominal, its validity and the drift term of a head stand. -/
structure HeadRef.SameValues (r q : HeadRef) : Prop where
  nominal : q.nominal = r.nominal
  valid : q.nominalValid = r.nominalValid
  drift : q.drift = r.drift

theorem HeadRef.SameValues.refl (r : HeadRef) : r.SameValues r := ⟨rfl, rfl, rfl⟩

theorem HeadRef.SameValues.trans {r q w : HeadRef} (k : r.SameValues q) (l : q.SameValues w) : r.SameValues w :=
  ⟨l.nominal.trans k.nominal, l.valid.trans k.valid, l.drift.trans k.drift⟩

/-- A head is calibrated to a nominal: valid, with drift 0. -/
structure HeadRef.CalibratedTo (nominal : Int) (r : HeadRef) : Prop where
  nominal : r.nominal = nominal
  valid : r.nominalValid = true
  drift : r.drift = 0

theorem HeadRef.CalibratedTo.same {nominal : Int} {r q : HeadRef} (k : r.CalibratedTo nominal)
    (l : r.SameValues q) : q.CalibratedTo nominal :=
  ⟨l.nominal.trans k.nominal, l.valid.trans k.valid, l.drift.trans k.drift⟩

section
variable (r : HeadRef) (x : ReferenceRecord)

@[simp] theorem verdictTaken_passage : (r.verdictTaken x).passage = .idle := by
  unfold HeadRef.verdictTaken
  cases x.verdict <;> rfl

/-- After a verdict on a checking passage the drift term is the record's, and the due count is 0, or stands for
SPARSE. -/
theorem verdictTaken_checked (limit : Nat)
    (verdict : x.verdict = checkVerdict r.tally r.nominalValid r.nominal limit)
    (drift : x.drift = checkDrift r.tally x.verdict r.nominal r.drift) :
    (r.verdictTaken x).drift = x.drift ∧ (r.verdictTaken x).due = (if x.verdict = .sparse then r.due else 0)
      ∧ (r.verdictTaken x).nominal = r.nominal := by
  have judged := checkVerdict_cases (y := r.tally) (nominal := r.nominal) (limit := limit) r.nominalValid
  rw [← verdict] at judged
  unfold HeadRef.verdictTaken
  rcases judged with v | v | v | v <;> rw [v]
  · exact ⟨rfl, rfl, rfl⟩
  · exact ⟨Eq.symm (drift.trans (by rw [v]; rfl)), rfl, rfl⟩
  · exact ⟨rfl, rfl, rfl⟩
  · exact ⟨rfl, rfl, rfl⟩

theorem ended_of_idle (idle : r.passage = .idle) : r.ended = r := if_neg (by rw [idle]; decide)

theorem ended_sameValues : r.SameValues r.ended := by
  unfold HeadRef.ended
  split <;> exact ⟨rfl, rfl, rfl⟩

/-- A record that judges nothing, SPARSE or NOT_APPLIED, leaves the nominal and the drift term. -/
theorem verdictTaken_sameValues (unjudged : x.verdict = .sparse ∨ x.verdict = .notApplied) :
    r.SameValues (r.verdictTaken x) := by
  unfold HeadRef.verdictTaken
  rcases unjudged with v | v <;> rw [v] <;> exact ⟨rfl, rfl, rfl⟩

theorem verdictTaken_calibrated (calibrated : x.verdict = .calibrated) (drift : x.drift = 0) :
    (r.verdictTaken x).CalibratedTo x.nominal := by
  unfold HeadRef.verdictTaken
  rw [calibrated]
  exact ⟨rfl, rfl, drift⟩

end

/-! ## Notices that a record taken leaves (R154) -/

theorem wakeWriter_notice (s : State) (n : Notice) : (wakeWriter s).notice n = s.notice n := by
  unfold wakeWriter writerNext
  repeat' first | rfl | split

theorem setNotice_stageHalf_other (s : State) {n : Notice} (other : n ≠ .stageHalf) :
    (setNotice .stageHalf s).notice n = s.notice n := by
  have apart : (Notice.mask .stageHalf).getLsbD n.bit = false := by
    cases n <;> first | exact absurd rfl other | decide
  unfold State.notice setNotice
  rw [BitVec.getLsbD_or, apart, Bool.or_false]

/-- A record taken sets no notice but STAGE_HALF. -/
theorem takeRecord_notice (r : Record) (s : State) {n : Notice} (other : n ≠ .stageHalf) :
    (takeRecord r s).notice n = s.notice n := by
  unfold takeRecord joinRecord
  split
  · rw [wakeWriter_notice]
    split
    · exact setNotice_stageHalf_other _ other
    · rfl
  · rfl

/-! ## An end condition and the heads' values (R104, R142) -/

theorem endOpen_iff (s : State) : s.endOpen = true ↔ s.oe.engine.running = true ∧ s.oe.endSlot = none := by
  unfold State.endOpen
  rw [Bool.and_eq_true, Option.isNone_iff_eq_none]

/-- Where the order's end is not open an end condition changes nothing. -/
theorem endCondition_decided (slot : EndSlot) {s : State}
    (decided : ¬(s.oe.engine.running = true ∧ s.oe.endSlot = none)) : endCondition slot s = s :=
  if_neg (mt (endOpen_iff s).mp decided)

theorem endCondition_closes (slot : EndSlot) {s : State} (running : s.oe.engine.running = true)
    (undecided : s.oe.endSlot = none) :
    (endCondition slot s).oe.engine = .closing ∧ (endCondition slot s).oe.endSlot = some slot := by
  rw [endCondition_taken slot s running undecided]
  obtain ⟨engine, ended, _⟩ := enterClosing_spec slot (emptyLists .idle s)
  exact ⟨engine, ended⟩

/-- An end condition leaves a head's part of the Reference Check Unit, or ends its open passage without a verdict. -/
theorem endCondition_head (slot : EndSlot) (s : State) (k : Head) :
    (endCondition slot s).rc.heads.get k = s.rc.heads.get k
      ∨ (endCondition slot s).rc.heads.get k = (s.rc.heads.get k).ended := by
  by_cases ends : s.oe.engine.running = true ∧ s.oe.endSlot = none
  · obtain ⟨running, undecided⟩ := ends
    obtain ⟨heads, _⟩ := endCondition_passages slot s running undecided
    obtain ⟨closed, _⟩ := heads k
    exact .inr closed
  · exact .inl (by rw [endCondition_decided slot ends])

theorem endCondition_head_of_idle (slot : EndSlot) {s : State} {k : Head}
    (idle : (s.rc.heads.get k).passage = .idle) :
    (endCondition slot s).rc.heads.get k = s.rc.heads.get k := by
  rcases endCondition_head slot s k with e | e
  · exact e
  · rw [e, ended_of_idle _ idle]

theorem endCondition_sameValues (slot : EndSlot) (s : State) (k : Head) :
    (s.rc.heads.get k).SameValues ((endCondition slot s).rc.heads.get k) := by
  rcases endCondition_head slot s k with e | e <;> rw [e]
  · exact .refl _
  · exact ended_sameValues _

/-! ## The effect of OVER_LIMIT (R107) -/

section
variable {s : State} {h : Head}

/-- The drift action held is FAIL. -/
def State.driftFails (s : State) : Prop := s.rc.config.map (·.driftAction) = some DriftAction.fail

theorem overLimitTaken_fails (fails : s.driftFails) :
    overLimitTaken h s = endCondition ⟨.driftLimit, h.num⟩ (setNotice .drift s) := if_pos fails

theorem overLimitTaken_warns (warns : ¬s.driftFails) :
    overLimitTaken h s = (setNotice .drift s).onFlags fun f => { f with driftWarned := true } := if_neg warns

theorem overLimitTaken_warned (warns : ¬s.driftFails) :
    (overLimitTaken h s).oe = { s.oe with flags := { s.oe.flags with driftWarned := true } } := by
  rw [overLimitTaken_warns warns]
  rfl

theorem overLimitTaken_closes (fails : s.driftFails) (running : s.oe.engine.running = true)
    (undecided : s.oe.endSlot = none) : (overLimitTaken h s).oe.engine = .closing
      ∧ (overLimitTaken h s).oe.endSlot = some ⟨.driftLimit, h.num⟩ := by
  rw [overLimitTaken_fails fails]
  exact endCondition_closes (s := setNotice .drift s) _ running undecided

theorem overLimitTaken_decided (fails : s.driftFails)
    (decided : ¬(s.oe.engine.running = true ∧ s.oe.endSlot = none)) :
    overLimitTaken h s = setNotice .drift s := by
  rw [overLimitTaken_fails fails]
  exact endCondition_decided (s := setNotice .drift s) _ decided

theorem overLimitTaken_notice (h : Head) (s : State) : (overLimitTaken h s).notice .drift = true := by
  have noticed := setNotice_notice .drift .drift s (.inr rfl)
  by_cases fails : s.driftFails
  · rw [overLimitTaken_fails fails]
    exact (endCondition_steady _ (Steady.refl _)).notices .drift noticed
  · rw [overLimitTaken_warns fails]
    exact noticed

/-- OVER_LIMIT ends no passage unless it ends the order. -/
theorem overLimitTaken_rc
    (stays : ¬s.driftFails ∨ ¬(s.oe.engine.running = true ∧ s.oe.endSlot = none)) :
    (overLimitTaken h s).rc = s.rc := by
  by_cases fails : s.driftFails
  · rw [overLimitTaken_decided fails (stays.resolve_left (not_not_intro fails))]
    rfl
  · rw [overLimitTaken_warns fails]
    rfl

theorem overLimitTaken_head_of_idle {k : Head} (idle : (s.rc.heads.get k).passage = .idle) :
    (overLimitTaken h s).rc.heads.get k = s.rc.heads.get k := by
  by_cases fails : s.driftFails
  · rw [overLimitTaken_fails fails]
    exact endCondition_head_of_idle (s := setNotice .drift s) _ idle
  · rw [overLimitTaken_warns fails]
    rfl

end

/-! ## A REFERENCE record offered (R106, R107, R108) -/

section
variable (s : State) (x : ReferenceRecord)

/-- The record taken and its head's state set by the verdict, before what OVER_LIMIT brings. -/
def State.verdictGiven : State := (takeRecord (.reference x) s).onHeadRef x.head fun r => r.verdictTaken x

@[simp] theorem verdictGiven_oe : (s.verdictGiven x).oe = s.oe := takeRecord_oe _ s

@[simp] theorem verdictGiven_rc : (s.verdictGiven x).rc
    = { s.rc with heads := s.rc.heads.set x.head ((s.rc.heads.get x.head).verdictTaken x) } := by
  unfold State.verdictGiven State.onHeadRef
  rw [takeRecord_rc]

theorem verdictGiven_notice : (s.verdictGiven x).notice .drift = s.notice .drift :=
  takeRecord_notice (.reference x) s (by decide)

variable {s x}

theorem offerReference_full (full : 1024 ≤ s.sb.staged.length) : offerReference x s
    = s.onHeadRef x.head fun r => { r with held := some x, passage := .held } :=
  if_neg (by rw [hasRoom_full (.reference x) s rfl full]; decide)

section
variable (room : s.sb.staged.length < 1024)
include room

theorem verdictGiven_staged :
    (s.verdictGiven x).sb.staged = s.sb.staged ++ [⟨.reference x, s.oe.activeTag⟩] :=
  takeRecord_room _ s (hasRoom_other (.reference x) s rfl room)

theorem offerReference_room : offerReference x s
    = if x.verdict = .overLimit then overLimitTaken x.head (s.verdictGiven x) else s.verdictGiven x :=
  if_pos (hasRoom_other (.reference x) s rfl room)

theorem offerReference_within (within : x.verdict ≠ .overLimit) : offerReference x s = s.verdictGiven x :=
  (offerReference_room room).trans (if_neg within)

theorem offerReference_over (above : x.verdict = .overLimit) :
    offerReference x s = overLimitTaken x.head (s.verdictGiven x) := (offerReference_room room).trans (if_pos above)

theorem offerReference_staged :
    s.sb.staged ++ [⟨.reference x, s.oe.activeTag⟩] <+: (offerReference x s).sb.staged := by
  rw [← verdictGiven_staged room, offerReference_room room]
  split
  · exact (overLimitTaken_steady _ (Steady.refl _)).staged
  · exact List.prefix_refl _

theorem offerReference_head :
    (offerReference x s).rc.heads.get x.head = (s.rc.heads.get x.head).verdictTaken x := by
  have given : (s.verdictGiven x).rc.heads.get x.head = (s.rc.heads.get x.head).verdictTaken x := by simp
  rw [← given, offerReference_room room]
  split
  · exact overLimitTaken_head_of_idle (by rw [given, verdictTaken_passage])
  · rfl

/-- Another head's part stands, unless OVER_LIMIT ends the order. -/
theorem offerReference_other {k : Head} (other : k ≠ x.head)
    (stays : x.verdict ≠ .overLimit ∨ ¬s.driftFails ∨ ¬(s.oe.engine.running = true ∧ s.oe.endSlot = none)) :
    (offerReference x s).rc.heads.get k = s.rc.heads.get k := by
  have given : (s.verdictGiven x).rc.heads.get k = s.rc.heads.get k := by
    rw [verdictGiven_rc]
    exact get_set_other _ _ other
  rw [← given]
  by_cases above : x.verdict = .overLimit
  · rw [offerReference_over room above]
    have stands : (overLimitTaken x.head (s.verdictGiven x)).rc = (s.verdictGiven x).rc := by
      refine overLimitTaken_rc ?_
      rw [State.driftFails, verdictGiven_rc, verdictGiven_oe]
      exact stays.resolve_left (not_not_intro above)
    rw [stands]
  · rw [offerReference_within room above]

end

end

/-! ## Completed passages (R104, R109) -/

section
variable {s : State} {h : Head}

theorem passageComplete_of (mode : s.rc.mode ≠ .off) (opened : (s.rc.heads.get h).passage = .opened)
    (endTaken : (s.rc.heads.get h).endTaken = true)
    (gone : ∀ e ∈ (s.ports.get h).inFlight, e.pass.kind ≠ .reference) : s.passageComplete h = true := by
  unfold State.passageComplete Port.hasReference
  simpa [mode, opened, endTaken] using gone

theorem exec_passageComplete (complete : s.passageComplete h = true) :
    exec (.passageComplete h) s = .next (settle (completePassage h s)) := by
  have answer : exec (.passageComplete h) s
      = .next (if s.passageComplete h then settle (completePassage h s) else s) := rfl
  rw [answer, if_pos complete]

theorem completePassage_checking (mode : s.rc.mode = .checking) :
    completePassage h s = offerReference (s.checkRecord h) s := by
  unfold completePassage
  rw [mode]

theorem completePassage_calibrating (mode : s.rc.mode = .calibrating) :
    completePassage h s = s.onHeadRef h HeadRef.calAdded := by
  unfold completePassage
  rw [mode]

end

end Sys2Proof.Machine
end

section
/-! The judgement of a calibration (R110): the records of the judged heads, and what they leave of the heads' values. -/

namespace Sys2Proof.Machine

/-! ## Records offered one after another -/

/-- One head's part of the Reference Check Unit after a record that may be another head's. -/
def HeadRef.given (k : Head) (r : HeadRef) (x : ReferenceRecord) : HeadRef :=
  if x.head = k then r.verdictTaken x else r

/-- Records for which there is room, none of them OVER_LIMIT, are taken one after another: the engine stands, and each
head has its own verdicts. -/
theorem offerReferences_room (xs : List ReferenceRecord) (s : State)
    (within : ∀ x ∈ xs, x.verdict ≠ .overLimit) (room : s.sb.staged.length + xs.length ≤ 1024) :
    (xs.foldl (fun s x => offerReference x s) s).oe = s.oe
    ∧ ∀ k, (xs.foldl (fun s x => offerReference x s) s).rc.heads.get k
        = xs.foldl (HeadRef.given k) (s.rc.heads.get k) := by
  induction xs generalizing s with
  | nil => exact ⟨rfl, fun _ => rfl⟩
  | cons x xs ih =>
    rw [List.length_cons] at room
    have one : s.sb.staged.length < 1024 := by omega
    have given (k : Head) : (s.verdictGiven x).rc.heads.get k = (s.rc.heads.get k).given k x := by
      rw [verdictGiven_rc, HeadRef.given]
      split
      · subst k
        exact get_set_same _ _ _
      · exact get_set_other _ _ (Ne.symm (by assumption))
    obtain ⟨order, heads⟩ := ih (s.verdictGiven x) (fun y hy => within y (List.mem_cons_of_mem x hy))
      (by rw [verdictGiven_staged one, List.length_append, List.length_singleton]; omega)
    simp only [List.foldl_cons, offerReference_within one (within x List.mem_cons_self)]
    exact ⟨order.trans (verdictGiven_oe s x), fun k => (heads k).trans (by rw [given])⟩

/-- Records that judge nothing leave a head's values. -/
theorem foldl_given_sameValues (k : Head) (xs : List ReferenceRecord) (r : HeadRef)
    (unjudged : ∀ x ∈ xs, x.verdict = .sparse ∨ x.verdict = .notApplied) :
    r.SameValues (xs.foldl (HeadRef.given k) r) := by
  induction xs generalizing r with
  | nil => exact .refl r
  | cons x xs ih =>
    refine HeadRef.SameValues.trans ?_ (ih _ fun y hy => unjudged y (List.mem_cons_of_mem x hy))
    unfold HeadRef.given
    split
    · exact verdictTaken_sameValues r x (unjudged x List.mem_cons_self)
    · exact .refl r

/-- Records of which a head's own all calibrate it to the same nominal, one of them at least. -/
theorem foldl_given_calibrated {k : Head} {nominal : Int} {xs : List ReferenceRecord}
    (own : ∀ x ∈ xs, x.head = k → ∀ r : HeadRef, (r.verdictTaken x).CalibratedTo nominal)
    (one : ∃ x ∈ xs, x.head = k) (r : HeadRef) :
    (xs.foldl (HeadRef.given k) r).CalibratedTo nominal := by
  obtain ⟨x, mem, head⟩ := one
  obtain ⟨before, after, rfl⟩ := List.append_of_mem mem
  rw [List.foldl_append, List.foldl_cons]
  refine List.foldlRecOn after _ ?_ fun q calibrated y later => ?_
  · rw [HeadRef.given, if_pos head]
    exact own x mem head _
  · unfold HeadRef.given
    split
    · exact own y (by simp [later]) (by assumption) q
    · exact calibrated

/-! ## The judged heads and their records -/

section
variable {s : State}

/-- The measurement is finished: an order runs in CALIBRATING, and every head of its mask has made its passages or is
excluded. -/
theorem measured_iff (s : State) : s.measured = true ↔ s.oe.engine.running = true ∧ s.rc.mode = .calibrating
    ∧ ∀ h, s.mask.get h = true → s.oe.excluded.get h = false → s.revolutions ≤ (s.rc.heads.get h).calDone := by
  have heads (h : Head) : (!s.mask.get h || s.oe.excluded.get h
        || decide (s.revolutions ≤ (s.rc.heads.get h).calDone)) = true
      ↔ (s.mask.get h = true → s.oe.excluded.get h = false → s.revolutions ≤ (s.rc.heads.get h).calDone) := by
    cases s.mask.get h <;> cases s.oe.excluded.get h <;> simp
  unfold State.measured
  simp only [Bool.and_eq_true, beq_iff_eq, List.all_eq_true, heads, mem_all, true_implies, and_assoc]

/-- The judged heads whose calibration tally is too sparse. -/
def State.shortHeads (s : State) : List Head :=
  s.judgedHeads.filter fun h => (s.rc.heads.get h).calTally.sparse

/-- The records of the judged heads. -/
def State.calibrationRecords (s : State) : List ReferenceRecord :=
  s.judgedHeads.map (s.calibrationRecord !s.shortHeads.isEmpty)

/-- The state after the records of a calibration have been offered. -/
def State.calibrationOffered (s : State) : State :=
  s.calibrationRecords.foldl (fun s x => offerReference x s) s

theorem judgeCalibration_sufficient (sufficient : s.shortHeads = []) :
    judgeCalibration s = enterClosing ⟨.complete, 0⟩ s.calibrationOffered := by
  unfold State.calibrationOffered State.calibrationRecords judgeCalibration
  dsimp only
  rw [← State.shortHeads, sufficient]

theorem judgeCalibration_short {h : Head} {hs : List Head} (short : s.shortHeads = h :: hs) :
    judgeCalibration s = endCondition ⟨.referenceSparse, h.num⟩ s.calibrationOffered := by
  unfold State.calibrationOffered State.calibrationRecords judgeCalibration
  dsimp only
  rw [← State.shortHeads, short]

theorem shortHeads_eq_nil_iff : s.shortHeads = [] ↔
    ∀ h ∈ s.judgedHeads, ¬(s.rc.heads.get h).calTally.good * 2 < (s.rc.heads.get h).calTally.triggers := by
  unfold State.shortHeads
  simp only [List.filter_eq_nil_iff, sparse_iff]

theorem calibrationRecord_head (short : Bool) (h : Head) : (s.calibrationRecord short h).head = h := by
  unfold State.calibrationRecord State.referenceRecord
  dsimp only
  repeat' split
  all_goals rfl

theorem calibrationRecord_unjudged (h : Head) : (s.calibrationRecord true h).verdict = .sparse
    ∨ (s.calibrationRecord true h).verdict = .notApplied := by
  unfold State.calibrationRecord
  dsimp only
  rw [if_pos rfl]
  split
  · exact .inl rfl
  · exact .inr rfl

theorem calibrationRecord_dense {h : Head} (dense : ¬(s.rc.heads.get h).calTally.sparse = true) :
    s.calibrationRecord false h = s.referenceRecord h .calibrated (s.rc.heads.get h).calTally
      (s.rc.heads.get h).calTally.mean 0 := by
  unfold State.calibrationRecord
  dsimp only
  rw [if_neg dense, if_neg Bool.false_ne_true]

theorem calibrationRecord_within (short : Bool) (h : Head) :
    (s.calibrationRecord short h).verdict ≠ .overLimit := by
  unfold State.calibrationRecord
  dsimp only
  repeat' split
  all_goals exact Verdict.noConfusion

/-- With room for four records the offered records leave the engine, and each head has its own. -/
theorem calibrationOffered_spec (room : s.sb.staged.length + 4 ≤ 1024) :
    s.calibrationOffered.oe = s.oe
    ∧ ∀ k, s.calibrationOffered.rc.heads.get k
        = s.calibrationRecords.foldl (HeadRef.given k) (s.rc.heads.get k) := by
  refine offerReferences_room _ s (List.forall_mem_map.mpr fun h _ => calibrationRecord_within _ h) ?_
  have few : s.judgedHeads.length ≤ 4 := List.length_filter_le _ _
  rw [State.calibrationRecords, List.length_map]
  omega

theorem calibrationOffered_sufficient (room : s.sb.staged.length + 4 ≤ 1024) (sufficient : s.shortHeads = [])
    {h : Head} (judged : h ∈ s.judgedHeads) :
    (s.calibrationOffered.rc.heads.get h).CalibratedTo (s.rc.heads.get h).calTally.mean := by
  have records : s.calibrationRecords = s.judgedHeads.map (s.calibrationRecord false) := by
    rw [State.calibrationRecords, sufficient]
    rfl
  have dense : ∀ k ∈ s.judgedHeads, ¬(s.rc.heads.get k).calTally.sparse = true :=
    List.filter_eq_nil_iff.mp sufficient
  rw [(calibrationOffered_spec room).2 h, records]
  refine foldl_given_calibrated (List.forall_mem_map.mpr fun k mem own r => ?_)
    ⟨_, List.mem_map_of_mem judged, calibrationRecord_head false h⟩ _
  rw [calibrationRecord_head] at own
  subst own
  rw [calibrationRecord_dense (dense k mem)]
  exact verdictTaken_calibrated r (s.referenceRecord k .calibrated _ _ 0) rfl rfl

theorem calibrationOffered_short (room : s.sb.staged.length + 4 ≤ 1024) (short : s.shortHeads ≠ []) (k : Head) :
    (s.rc.heads.get k).SameValues (s.calibrationOffered.rc.heads.get k) := by
  have shortSome : (!s.shortHeads.isEmpty) = true := by simpa using short
  rw [(calibrationOffered_spec room).2 k, State.calibrationRecords, shortSome]
  exact foldl_given_sameValues k _ _ (List.forall_mem_map.mpr fun h _ => calibrationRecord_unjudged h)

end

end Sys2Proof.Machine
end

section
/-! The statements of 06 (reference checks and drift), settled. -/

open Sys2Proof Sys2Proof.Machine

/-- Settles O38: each command asks for its condition, which ends the order where it has been reached. -/
theorem revolutionLimitsEndOrder : Obligations.RevolutionLimitsEndOrder := by
  intro s running undecided unit closes
  have ends (slot : EndSlot) := settle_endCondition_closes slot running undecided unit
  refine ⟨fun g waits marker grace => ⟨fun reached => ?_, fun below => ?_⟩,
    fun k limit => ⟨fun reached => ?_, fun below => ?_⟩,
    fun h c mode config masked working => ⟨fun reached => ?_, fun below => ?_⟩⟩
  · refine ⟨_, ?_, ends _⟩
    rw [exec_lightGraceExpiry, if_pos ((graceOver_iff s).mpr ⟨g, ⟨waits, marker⟩, grace, reached⟩)]
  · have short : ¬s.graceOver = true := fun above => by
      obtain ⟨g', _, same, reached⟩ := (graceOver_iff s).mp above
      rw [grace, Option.some.injEq] at same
      omega
    rw [exec_lightGraceExpiry, if_neg short]
  · exact ⟨_, exec_outputStall_stalled ((stalled_iff s _).mpr ⟨k, limit, running, reached, rfl⟩), ends _⟩
  · refine exec_outputStall_below (Option.eq_none_iff_forall_ne_some.mpr fun e stalled => ?_)
    obtain ⟨k', same, _, reached, _⟩ := (stalled_iff s e).mp stalled
    rw [limit, Option.some.injEq] at same
    omega
  · refine ⟨_, ?_, ends _⟩
    rw [exec_referenceOverdue, if_pos ((overdue_iff s h).mpr ⟨c, mode, config, masked, working, reached⟩)]
  · have short : ¬s.overdue h = true := fun above => by
      obtain ⟨c', _, same, _, _, reached⟩ := (overdue_iff s h).mp above
      rw [config, Option.some.injEq] at same
      subst same
      omega
    rw [exec_referenceOverdue, if_neg short]

/-- Settles O28: the conditions of a request, and the record armed. -/
theorem duePassageIsRequested : Obligations.DuePassageIsRequested := by
  intro s h c mode config r due requested passes
  have asked : s.requests h = true ↔ due := requests_checking_iff mode config
  rw [exec_referenceDue]
  refine ⟨fun isDue free => ?_, fun notDue => ?_⟩
  · rw [if_pos (asked.mpr isDue), requestPassage_armed free]
    rfl
  · rw [if_neg (mt asked.mp notDue)]

/-- Settles O29: the records offered in a fold, and the end of the order by whether a judged head is short. -/
theorem calibrationAppliesToAllOrNone : Obligations.CalibrationAppliesToAllOrNone := by
  intro s finished
  refine ⟨rfl, fun isFinished => if_pos ((measured_iff s).mpr isFinished),
    fun unfinished => if_neg (mt (measured_iff s).mp unfinished), fun room => ⟨fun sufficient => ?_, ?_⟩⟩
  · have noneShort := shortHeads_eq_nil_iff.mpr sufficient
    obtain ⟨engine, slot, _⟩ := enterClosing_spec ⟨.complete, 0⟩ s.calibrationOffered
    rw [judgeCalibration_sufficient noneShort]
    refine ⟨engine, slot, fun h mem => ?_⟩
    obtain ⟨nominal, valid, drift⟩ := (calibrationOffered_sufficient room noneShort mem).same (ended_sameValues _)
    obtain ⟨heads, _⟩ := enterClosing_passages ⟨.complete, 0⟩ s.calibrationOffered
    rw [(heads h).1, ← mean_eq_fdiv]
    exact ⟨nominal, valid, drift⟩
  · rintro ⟨k, mem, sparse⟩
    obtain ⟨h, hs, short⟩ := List.exists_cons_of_ne_nil fun noneShort =>
      shortHeads_eq_nil_iff.mp noneShort k mem sparse
    rw [judgeCalibration_short short]
    refine ⟨fun k => ?_, fun running undecided => ⟨h, ?_, ?_⟩⟩
    · have offered := calibrationOffered_short room (by rw [short]; exact List.cons_ne_nil h hs) k
      obtain ⟨nominal, valid, drift⟩ := offered.trans (endCondition_sameValues _ _ k)
      exact ⟨nominal, valid, drift⟩
    · rw [← List.head?_filter]
      exact congrArg List.head? short
    · have order := (calibrationOffered_spec room).1
      exact endCondition_closes _ (by rw [order]; exact running) (by rw [order]; exact undecided)

/-- Settles O27: the verdicts of R105, the REFERENCE record offered in CHECKING, and the tally added in CALIBRATING. -/
theorem completedPassageIsJudgedOrAdded : Obligations.CompletedPassageIsJudgedOrAdded := by
  refine ⟨fun y nominal drift limit => ?_, fun s h mode opened endTaken gone => ?_,
    fun s h mode opened endTaken gone => ?_⟩
  · intro mean
    have isMean : mean = y.mean := (mean_eq_fdiv y).symm
    rw [isMean]
    refine ⟨checkVerdict_invalid y nominal limit, rfl, fun sparse => ⟨checkVerdict_sparse sparse, rfl⟩,
      fun dense above => ⟨?_, rfl⟩, fun dense within => ⟨?_, rfl⟩⟩
    · rw [checkVerdict_dense dense, if_pos above]
    · rw [checkVerdict_dense dense, if_neg (Nat.not_lt.mpr within)]
  · intro r v drift x fails open_
    have record : s.checkRecord h = x :=
      congrArg (fun m => ({ x with mean := m } : ReferenceRecord)) (mean_eq_fdiv r.tally)
    have answer := exec_passageComplete (passageComplete_of (by rw [mode]; decide) opened endTaken gone)
    rw [completePassage_checking mode, record] at answer
    refine ⟨offerReference x s, answer, offerReference_steady x (Steady.refl s), settle_steady (Steady.refl _),
      fun room => ?_, offerReference_full⟩
    have head : (offerReference x s).rc.heads.get h = r.verdictTaken x := offerReference_head room
    obtain ⟨sameDrift, due, nominal⟩ := verdictTaken_checked r x _ rfl rfl
    rw [head]
    refine ⟨offerReference_staged room, verdictTaken_passage r x, sameDrift, due, nominal,
      fun k other => offerReference_other (x := x) room other, fun within => ?_, fun above => ?_⟩
    · rw [offerReference_within room within]
      exact ⟨verdictGiven_oe s x, verdictGiven_notice s x⟩
    · have config : (s.verdictGiven x).driftFails ↔ fails := by
        rw [State.driftFails, verdictGiven_rc]
      have order := verdictGiven_oe s x
      rw [offerReference_over room above]
      refine ⟨overLimitTaken_notice x.head _, fun warns => ?_, fun isFail isOpen => ?_, fun isFail decided => ?_⟩
      · rw [overLimitTaken_warned (mt config.mp warns), order]
      · obtain ⟨running, undecided⟩ := isOpen
        exact overLimitTaken_closes (config.mpr isFail) (by rw [order]; exact running) (by rw [order]; exact undecided)
      · rw [overLimitTaken_decided (config.mpr isFail) (by rw [order]; exact decided)]
        exact order
  · intro r added u
    have answer := exec_passageComplete (passageComplete_of (by rw [mode]; decide) opened endTaken gone)
    rw [completePassage_calibrating mode] at answer
    exact ⟨answer, settle_steady (Steady.refl u)⟩

end

section
/-! The lines of the Span and Fixture Interface (07): taken level changes, the handshake and its result, the watched
lines, and the two timers. -/

namespace Sys2Proof.Machine

/-! ## A taken level turned over (R113) -/

/-- Exclusive or with one bit's mask turns that bit over and no other. -/
theorem getLsbD_toggle {w : Nat} (x : BitVec w) (n m : Fin w) :
    (x ^^^ (1#w <<< n.val)).getLsbD m.val = if n = m then !x.getLsbD m.val else x.getLsbD m.val := by
  rw [BitVec.getLsbD_xor, ← BitVec.twoPow_eq, BitVec.getLsbD_twoPow]
  by_cases same : n = m
  · simp [same]
  · simp [same, Fin.val_ne_of_ne same]

section
variable (f : Span) (l : Line)

theorem toggled_waitLine (m : Fin 4) : (f.toggled l).w.getLsbD m.val
    = if l = .wait m then !f.w.getLsbD m.val else f.w.getLsbD m.val := by
  cases l with
  | wait n =>
    simp only [Line.wait.injEq]
    exact getLsbD_toggle f.w n m
  | fixture n => rfl

theorem toggled_fixtureLine (m : Fin 8) : (f.toggled l).f.getLsbD m.val
    = if l = .fixture m then !f.f.getLsbD m.val else f.f.getLsbD m.val := by
  cases l with
  | wait n => rfl
  | fixture n =>
    simp only [Line.fixture.injEq]
    exact getLsbD_toggle f.f n m

@[simp] theorem toggled_handshake : (f.toggled l).handshake = f.handshake := by cases l <;> rfl
@[simp] theorem toggled_requestTime : (f.toggled l).requestTime = f.requestTime := by cases l <;> rfl
@[simp] theorem toggled_fixture : (f.toggled l).fixture = f.fixture := by cases l <;> rfl

end

/-- The settle line is a wait line, and the fixture mask names none. -/
theorem isSettleLine_of_isWatched {f : Span} {l : Line} (watched : f.isWatched l = true) :
    f.isSettleLine l = false := by
  cases l with
  | wait n => cases watched
  | fixture n => rfl

/-! ## A level change by the line that it finds (R113) -/

section
variable {s : State} {l : Line}

theorem exec_takenLevelChange_unjudged (other : (s.sf.toggled l).isSettleLine l = false)
    (free : (s.sf.toggled l).isWatched l = false) :
    exec (.takenLevelChange l) s = .next { s with sf := s.sf.toggled l } :=
  congrArg Host.Outcome.next ((if_neg (ne_true_of_eq_false other)).trans (if_neg (ne_true_of_eq_false free)))

theorem exec_takenLevelChange_settleLine (line : (s.sf.toggled l).isSettleLine l = true) :
    exec (.takenLevelChange l) s = .next (settle (settleLineChanged { s with sf := s.sf.toggled l })) :=
  congrArg Host.Outcome.next (if_pos line)

theorem exec_takenLevelChange_watched (line : (s.sf.toggled l).isWatched l = true) :
    exec (.takenLevelChange l) s = .next (settle (watchedLineChanged { s with sf := s.sf.toggled l })) :=
  congrArg Host.Outcome.next
    ((if_neg (ne_true_of_eq_false (isSettleLine_of_isWatched line))).trans (if_pos line))

end

/-! ## The settle line by the handshake's phase (R116, R117) -/

section
variable {s : State}

theorem settleLineChanged_idle (idle : s.sf.handshake = .idle) : settleLineChanged s = s := by
  rw [settleLineChanged, idle]

theorem settleLineChanged_requesting (requesting : s.sf.handshake = .requesting)
    (inactive : s.sf.settleActive = false) :
    settleLineChanged s = { s with sf := s.sf.acknowledged } := by
  rw [settleLineChanged, requesting]
  dsimp only
  rw [inactive]
  rfl

theorem settleLineChanged_settling (settling : s.sf.handshake = .settling) (active : s.sf.settleActive = true) :
    settleLineChanged s = handshakeResult .settled (s.xe.time - s.sf.requestTime).toNat
      { s with sf := s.sf.handshakeIdle } := by
  rw [settleLineChanged, settling]
  dsimp only
  rw [if_pos active]
  rfl

/-! ## A watched line by the fixture phase (R121, R123) -/

theorem watchedLineChanged_matching (matching : s.sf.fixture = .matching) (complete : s.sf.matched = true) :
    watchedLineChanged s = endArming { s with sf := s.sf.captured.inPhase .watching } := by
  rw [watchedLineChanged, matching]
  dsimp only
  rw [if_pos complete]
  rfl

theorem watchedLineChanged_watching (watching : s.sf.fixture = .watching) :
    watchedLineChanged s
      = endCondition ⟨.fixtureChanged, 0⟩ { s with sf := s.sf.captured.inPhase .tripped } := by
  rw [watchedLineChanged, watching]
  rfl

end

/-! ## What the lines' phases leave -/

section
variable {s : State}

theorem handshakeIdle_steady : Steady s { s with sf := s.sf.handshakeIdle } :=
  onSpan_steady Span.handshakeIdle (fun _ => rfl) (fun _ => rfl) (fun _ => rfl) (Steady.refl s)

theorem captured_steady (p : FixturePhase) : Steady s { s with sf := s.sf.captured.inPhase p } :=
  onSpan_steady (fun f => f.captured.inPhase p) (fun _ => rfl) (fun _ => rfl) (fun _ => rfl) (Steady.refl s)

end

/-! ## The timers by what they find (R118, R121) -/

section
variable {s : State} {since : Time} {period : Nat}

theorem exec_settleTimerExpiry (s : State) : exec .settleTimerExpiry s = execSettleTimerExpiry s := rfl

theorem exec_fixtureTimerExpiry (s : State) : exec .fixtureTimerExpiry s = execFixtureTimerExpiry s := rfl

theorem exec_settleTimerExpiry_idle (idle : s.sf.handshake = .idle) : exec .settleTimerExpiry s = .next s := by
  rw [exec_settleTimerExpiry, execSettleTimerExpiry, idle]

theorem exec_settleTimerExpiry_running (waits : s.sf.handshake ≠ .idle)
    (timer : s.sf.settleTimer = .running since period) :
    exec .settleTimerExpiry s = .next (settle
      (if s.unsettledOk then handshakeResult .unsettled period { s with sf := s.sf.handshakeIdle }
      else endCondition ⟨.settleTimeout, s.oe.stepIndex⟩ { s with sf := s.sf.handshakeIdle })) := by
  rw [exec_settleTimerExpiry, execSettleTimerExpiry, timer]
  cases phase : s.sf.handshake with
  | idle => exact absurd phase waits
  | requesting => rfl
  | settling => rfl

theorem exec_fixtureTimerExpiry_matching (matching : s.sf.fixture = .matching)
    (timer : s.sf.fixtureTimer = .running since period) :
    exec .fixtureTimerExpiry s = .next (settle
      (endCondition ⟨.fixtureTimeout, 0⟩ { s with sf := s.sf.captured.inPhase .off })) := by
  rw [exec_fixtureTimerExpiry, execFixtureTimerExpiry, matching, timer]
  rfl

theorem exec_fixtureTimerExpiry_other (other : s.sf.fixture ≠ .matching) :
    exec .fixtureTimerExpiry s = .next s := by
  rw [exec_fixtureTimerExpiry, execFixtureTimerExpiry]
  cases phase : s.sf.fixture with
  | matching => exact absurd phase other
  | off => rfl
  | watching => rfl
  | tripped => rfl

theorem unsettledOk_eq {a : ActiveOrder} (active : s.oe.active = some a) :
    s.unsettledOk = a.header.flags.unsettledOk := by
  rw [State.unsettledOk, active]
  rfl

end

/-! ## A line's end condition -/

/-- An end condition taken with the lines as `f` closes an open order, the lines' waits ended. -/
theorem settle_endCondition_lines (slot : EndSlot) (f : Span) {s : State} (running : s.oe.engine.running = true)
    (undecided : s.oe.endSlot = none) (unit : s.uc.unit ≠ .starting) (lines : Steady s { s with sf := f }) :
    let u := settle (endCondition slot { s with sf := f })
    Steady s u ∧ u.oe.engine = .closing ∧ u.oe.endSlot = some slot ∧ u.sf = f.ended := by
  obtain ⟨engine, ended, span, _⟩ := settle_ended slot { s with sf := f } running undecided unit
  exact ⟨settle_steady (endCondition_steady slot lines), engine, ended, span⟩

/-! ## The entry to ACQUIRING of an active order (R137) -/

theorem orderKind_eq {s : State} {a : ActiveOrder} (active : s.oe.active = some a) :
    s.orderKind = a.header.kind := by
  rw [State.orderKind, active]
  rfl

/-- A head works in an order while it is of the mask and not excluded. -/
theorem inOrder_iff {s : State} {a : ActiveOrder} (active : s.oe.active = some a) (h : Head) :
    s.inOrder h = true ↔ a.header.mask.get h = true ∧ s.oe.excluded.get h = false := by
  simp [State.inOrder, State.mask, active]

/-- An entry to ACQUIRING depends on its starting state by the light, the lists, the passes and the excluded heads
alone. -/
theorem AcquiringEntered.of_same {h : OrderHeader} {oe : OrderEngine} {s v u : State}
    (entered : AcquiringEntered h oe v u) (light : v.light = s.light) (lists : v.ru = s.ru) (passes : v.tg = s.tg)
    (excluded : v.oe.excluded = s.oe.excluded) : AcquiringEntered h oe s u := by
  have ref : v.ref = s.ref := funext fun k => congrArg (fun g => (g.heads.get k).ref) passes
  refine ⟨fun absent => ?_, fun present => ?_⟩
  · obtain ⟨engine, armed, others⟩ := entered.acquiring (light ▸ absent)
    exact ⟨engine, ⟨armed.lists, excluded ▸ armed.armed, passes ▸ armed.zones, ref ▸ armed.reference⟩,
      excluded ▸ passes ▸ others⟩
  · obtain ⟨engine, disarmed⟩ := entered.lightWait (light ▸ present)
    exact ⟨engine, lists ▸ disarmed.lists, disarmed.disarmed, passes ▸ disarmed.zones, ref ▸ disarmed.reference⟩

/-! ## A handshake's result (R117 to R119, R137) -/

/-- Settle state and settle time kept, before the STEP-begin record is offered (R119). -/
def State.resultKept (s : State) (x : SettleState) (settleTime : Nat) : State :=
  s.onOrder fun o => { o with settle := x, settleTime := settleTime }

/-- The engine as a step starts, before its entry to ACQUIRING: settle state and settle time kept, the step start
time, and the flag of an unsettled step. -/
def State.stepStarted (s : State) (x : SettleState) (settleTime : Nat) : OrderEngine := { s.oe with
  settle := x
  settleTime := settleTime
  stepStart := s.xe.time
  marker := none
  flags := if x = .unsettled then { s.oe.flags with unsettled := true } else s.oe.flags }

/-- From `s` to `u`, the start of a step whose handshake ended with `x` after `settleTime`, the lines as `f`. -/
structure StepStarted (a : OrderHeader) (x : SettleState) (settleTime : Nat) (f : Span) (s u : State) : Prop where
  lines : u.sf = f
  reference : u.rc = s.rc
  qualifier : u.qu = { s.qu with settle := x }
  acquiring : a.kind = some .scan → AcquiringEntered a (s.stepStarted x settleTime) s u
  rests : a.kind = some .scan → Quiet s → (∃ h, a.mask.get h = true ∧ s.oe.excluded.get h = false) →
    settle u = u

section
variable {s : State} {a : ActiveOrder} (x : SettleState) (settleTime : Nat)

/-- With an entry free the STEP-begin record is taken, and the engine enters ACQUIRING. -/
theorem handshakeResult_room (active : s.oe.active = some a) (room : s.sb.staged.length < 1024) : ∃ sb w y,
    handshakeResult x settleTime s = enterAcquiring { s with
      qu := { s.qu with settle := x }, oe := s.stepStarted x settleTime, sb := sb, rw := w, xe := y } := by
  let kept := s.resultKept x settleTime
  have free : kept.hasRoom (.stepBegin (kept.stepBeginRecord a false)) = true := hasRoom_other _ kept rfl room
  obtain ⟨w, y, taken, _⟩ := takeRecord_eq free
  have result : handshakeResult x settleTime s
      = stepBeginTaken s.xe.time (takeRecord (.stepBegin (kept.stepBeginRecord a false)) kept) := by
    rw [handshakeResult, active]
    exact if_pos free
  rw [result, taken, stepBeginTaken_spec]
  exact ⟨_, w, y, rfl⟩

/-- With no entry free the STEP-begin record is held as the marker. -/
theorem handshakeResult_full (active : s.oe.active = some a) (full : 1024 ≤ s.sb.staged.length) :
    handshakeResult x settleTime s = { s with oe := { s.oe with
      settle := x
      settleTime := settleTime
      marker := some (.stepBegin { s.stepBeginRecord a false with settle := x, settleTime := settleTime }) } } := by
  let kept := s.resultKept x settleTime
  have noRoom : kept.hasRoom (.stepBegin (kept.stepBeginRecord a false)) = false := hasRoom_full _ kept rfl full
  rw [handshakeResult, active]
  exact if_neg (Bool.eq_false_iff.mp noRoom)

/-- A handshake's result with an entry free starts the step. -/
theorem handshakeResult_started (f : Span) (active : s.oe.active = some a) (room : s.sb.staged.length < 1024) :
    StepStarted a.header x settleTime f s (handshakeResult x settleTime { s with sf := f }) := by
  obtain ⟨sb, w, y, result⟩ := handshakeResult_room (s := { s with sf := f }) x settleTime active room
  let v : State := { s with
    sf := f, qu := { s.qu with settle := x }, oe := s.stepStarted x settleTime, sb := sb, rw := w, xe := y }
  have entered : handshakeResult x settleTime { s with sf := f } = enterAcquiring v := result
  rw [entered]
  obtain ⟨lines, reference, qualifier⟩ := enterAcquiring_blocks v
  refine ⟨lines, reference, qualifier, fun scan => ?_, fun scan quiet ⟨h, masked, working⟩ => ?_⟩
  · exact (enterAcquiring_spec v a active scan).of_same rfl rfl rfl rfl
  · exact enterAcquiring_quiet v ((orderKind_eq (s := v) active).trans scan) h
      ((inOrder_iff (s := v) active h).mpr ⟨masked, working⟩) ⟨quiet.mode, quiet.series, quiet.unit⟩

end

end Sys2Proof.Machine
end

section
/-! The statements of 07 (span steps and fixture inputs), settled. -/

open Sys2Proof Sys2Proof.Machine

/-- Settles O30: the line turned over, then the settle line by the handshake's phase and a watched line by the
fixture phase. -/
theorem lineChangesDriveHandshakeAndFixture : Obligations.LineChangesDriveHandshakeAndFixture := by
  intro s l t
  have handshake : t.sf.handshake = s.sf.handshake := toggled_handshake s.sf l
  have fixture : t.sf.fixture = s.sf.fixture := toggled_fixture s.sf l
  refine ⟨toggled_waitLine s.sf l, toggled_fixtureLine s.sf l, exec_takenLevelChange_unjudged,
    fun line idle => ?_, fun line requesting inactive => ?_, fun a line settling level active => ?_,
    fun line matching complete => ?_, fun line watching running undecided unit => ?_⟩
  · rw [exec_takenLevelChange_settleLine line, settleLineChanged_idle (handshake.trans idle)]
    exact ⟨rfl, settle_steady (Steady.refl t)⟩
  · rw [exec_takenLevelChange_settleLine line, settleLineChanged_requesting (handshake.trans requesting) inactive]
    exact ⟨rfl, settle_steady (Steady.refl _)⟩
  · intro time f x
    have requested : t.sf.requestTime = s.sf.requestTime := toggled_requestTime s.sf l
    have answer : exec (.takenLevelChange l) s
        = .next (settle (handshakeResult .settled time { t with sf := f })) := by
      rw [exec_takenLevelChange_settleLine line, settleLineChanged_settling (handshake.trans settling) level,
        requested]
      rfl
    refine ⟨fun room => ?_, fun full => ?_⟩
    · have started := handshakeResult_started .settled time f active room
      exact ⟨_, answer, handshakeResult_steady _ _ handshakeIdle_steady, settle_steady (Steady.refl _),
        handshakeResult_staged .settled time { t with sf := f } a active room, started.lines, started.reference,
        started.qualifier, fun scan => ⟨started.acquiring scan, started.rests scan⟩⟩
    · rw [answer, handshakeResult_full (s := { t with sf := f }) .settled time active full]
      rfl
  · intro u
    have answer : exec (.takenLevelChange l) s = .next (settle (endArming u)) := by
      rw [exec_takenLevelChange_watched line, watchedLineChanged_matching (fixture.trans matching) complete]
      rfl
    exact ⟨answer, settle_steady (endArming_steady (Steady.refl u)), fun a active => endArming_spec u a active⟩
  · obtain ⟨steady, engine, slot, span⟩ := settle_endCondition_lines (s := t) ⟨.fixtureChanged, 0⟩ _ running
      undecided unit (captured_steady .tripped)
    refine ⟨_, ?_, steady, engine, slot, congrArg Span.capture span, congrArg Span.fixture span⟩
    rw [exec_takenLevelChange_watched line, watchedLineChanged_watching (fixture.trans watching)]

/-- Settles O31: the settle timer by the order's UNSETTLED_OK, and the fixture timer in MATCHING. -/
theorem lineTimersEndTheirWaits : Obligations.LineTimersEndTheirWaits := by
  intro s a b period active
  refine ⟨fun waits timer accepted => ?_, fun waits timer strict running undecided unit => ?_,
    fun matching timer running undecided unit => ?_, exec_settleTimerExpiry_idle, exec_fixtureTimerExpiry_other⟩
  · intro f x
    have answer : exec .settleTimerExpiry s
        = .next (settle (handshakeResult .unsettled period { s with sf := f })) := by
      rw [exec_settleTimerExpiry_running waits timer, unsettledOk_eq active, if_pos accepted]
      rfl
    refine ⟨fun room => ?_, fun full => ?_⟩
    · have started := handshakeResult_started .unsettled period f active room
      exact ⟨_, answer, handshakeResult_steady _ _ handshakeIdle_steady, settle_steady (Steady.refl _),
        handshakeResult_staged .unsettled period { s with sf := f } a active room, started.lines, started.reference,
        started.qualifier, fun scan => ⟨started.acquiring scan, started.rests scan⟩⟩
    · rw [answer, handshakeResult_full (s := { s with sf := f }) .unsettled period active full]
      rfl
  · obtain ⟨steady, engine, slot, span⟩ := settle_endCondition_lines ⟨.settleTimeout, s.oe.stepIndex⟩ _ running
      undecided unit handshakeIdle_steady
    refine ⟨_, ?_, steady, engine, slot, congrArg Span.stepReq span, congrArg Span.handshake span⟩
    rw [exec_settleTimerExpiry_running waits timer, unsettledOk_eq active, strict]
    rfl
  · obtain ⟨steady, engine, slot, span⟩ := settle_endCondition_lines ⟨.fixtureTimeout, 0⟩ _ running undecided unit
      (captured_steady .off)
    exact ⟨_, exec_fixtureTimerExpiry_matching matching timer, steady, engine, slot, congrArg Span.capture span⟩

end

section
/-! The walk along the chain (08.2): following a link, parking, holding, and the routing after an order. -/

namespace Sys2Proof.Machine

/-! ## Parking and holding (R131, R132) -/

section
variable (s : State)

/-- A new state of the unit changes the unit, and what a Status Page asked for changes. -/
theorem enterUnit_spec (u : UnitState) :
    (enterUnit u s).uc = { s.uc with unit := u } ∧ (enterUnit u s).oe = s.oe
    ∧ (∀ n, (enterUnit u s).notice n = s.notice n) ∧ s.xe.bus <+: (enterUnit u s).xe.bus
    ∧ SameRegisters s (enterUnit u s) := by
  let v : State := { s with uc := { s.uc with unit := u } }
  have same : SameRegisters s v := ⟨rfl, rfl, rfl, rfl, rfl, rfl, rfl⟩
  obtain ⟨_, bus⟩ := requestPage_bus v
  exact ⟨requestPage_uc v, requestPage_oe v, requestPage_notice v, ⟨_, bus.2.symm⟩,
    same.trans (requestPage_registers v)⟩

/-- From `s` to `t`, the unit is HELD with a reason and a held point, the chain position kept (R132). -/
structure HeldAt (reason : HeldReason) (point : Addr) (s t : State) : Prop where
  unit : t.uc.unit = .held
  heldReason : t.oe.heldReason = some reason
  heldPoint : t.oe.heldPoint = some point
  engine : t.oe.engine = .idle
  doing : t.oe.doing = s.oe.doing
  active : t.oe.active = s.oe.active
  chain : t.oe.chain = s.oe.chain
  held : t.notice .held = true
  notices : ∀ n, s.notice n = true → t.notice n = true
  registers : SameRegisters s t

theorem hold_heldAt (reason : HeldReason) (point : Addr) : HeldAt reason point s (hold reason point s) := by
  let v : State := setNotice .held (s.onOrder fun o =>
    { o with engine := .idle, heldReason := some reason, heldPoint := some point, park := none, recheck := false,
             abortPending := false })
  have same : SameRegisters s v := ⟨rfl, rfl, rfl, rfl, rfl, rfl, rfl⟩
  obtain ⟨unit, engine, notice, _, registers⟩ := enterUnit_spec v .held
  have e : hold reason point s = enterUnit .held v := rfl
  refine ⟨?_, ?_, ?_, ?_, ?_, ?_, ?_, ?_, fun n hn => ?_, same.trans registers⟩
  · rw [e, unit]
  iterate 6 (rw [e, engine]; rfl)
  · exact (notice _).trans (setNotice_notice _ _ _ (.inr rfl))
  · exact (notice n).trans (setNotice_notice _ _ _ (.inl hn))

/-- From `s` to `t`, the unit parks on a holder, the chain position kept (R131). -/
structure ParkedOn (holder : Addr) (s t : State) : Prop where
  unit : t.uc.unit = .parked
  park : t.oe.park = some holder
  engine : t.oe.engine = .idle
  doing : t.oe.doing = s.oe.doing
  chain : t.oe.chain = s.oe.chain
  parked : t.notice .parked = true
  registers : SameRegisters s t

theorem parkOn_parkedOn (holder : Addr) (other : s.uc.unit ≠ .parked) : ParkedOn holder s (parkOn holder s) := by
  let v : State := setNotice .parked (s.onOrder fun o =>
    { o with engine := .idle, park := some holder, recheck := false })
  have same : SameRegisters s v := ⟨rfl, rfl, rfl, rfl, rfl, rfl, rfl⟩
  obtain ⟨unit, engine, notice, _, registers⟩ := enterUnit_spec v .parked
  have e : parkOn holder s = enterUnit .parked v := if_neg other
  rw [e]
  refine ⟨?_, ?_, ?_, ?_, ?_, ?_, same.trans registers⟩
  · rw [unit]
  iterate 4 (rw [engine]; rfl)
  · exact (notice _).trans (setNotice_notice _ _ _ (.inr rfl))

/-- A recheck that finds nothing leaves the unit PARKED, and reads the holder's link again where a further recheck is
pending (R131). -/
theorem parkOn_parked (holder : Addr) (parked : s.uc.unit = .parked) : parkOn holder s = { s with
    oe := { s.oe with
      engine := if s.oe.recheck then .idle else s.oe.engine
      doing := if s.oe.recheck then .link holder else s.oe.doing
      recheck := false }
    xe := { s.xe with bus := s.xe.bus ++ (if s.oe.recheck then [.read .link holder 8] else []) } } := by
  rw [parkOn, if_pos parked]
  cases pending : s.oe.recheck with
  | true => rfl
  | false =>
    simp only [Bool.false_eq_true, if_false, List.append_nil]
    rw [← pending]

/-- The unit enters STOPPED with the chain position kept and no park point (R177). -/
theorem enterStopped_park : (enterStopped s).oe.park = none := by
  unfold enterStopped
  dsimp only
  rw [(enterUnit_spec _ .stopped).2.1]
  obtain ⟨_, _, _, _, e, _⟩ := stopWriter_only
    { letGoCell (letGoOrder s) with
      ports := (letGoCell (letGoOrder s)).ports.map Port.asleep
      tracker := (letGoCell (letGoOrder s)).tracker.stopped
      tg := { zones := none, heads := (letGoCell (letGoOrder s)).tg.heads.map HeadPasses.disarmed }
      sf := (letGoCell (letGoOrder s)).sf.ended
      rc := { (letGoCell (letGoOrder s)).rc with
        mode := .off, heads := (letGoCell (letGoOrder s)).rc.heads.map HeadRef.stopped }
      sb := (letGoCell (letGoOrder s)).sb.stopped
      ru := .reset
      oe := (letGoCell (letGoOrder s)).oe.stopped
      uc := { (letGoCell (letGoOrder s)).uc with stopping := true, fault := none, startWakes := .all false } }
  rw [e]
  rfl

end

/-! ## The end of a read of a follow (R129, R144, R175) -/

section
variable {s : State} {holder block : Addr}

/-- The state at the end of a read of the Order Engine. -/
def State.readDone (s : State) (kind : BusKind) (r : ReadResult) : State := accessDone (endRead kind r s)

theorem readDone_blocks (kind : BusKind) (r : ReadResult) :
    (s.readDone kind r).oe = { s.oe with doing := .none } ∧ (s.readDone kind r).uc = s.uc
    ∧ SameRegisters s (s.readDone kind r) := by
  cases r <;> exact ⟨rfl, rfl, rfl, rfl, rfl, rfl, rfl, rfl, rfl⟩

/-- What a link read leads to, by its result. -/
def linkAnswer (holder : Addr) (r : ReadResult) (s : State) : State :=
  match r with
  | .data bs => linkFound holder (BitVec.ofNat 64 (leNat bs 0 8)) s
  | .error => hold .readError holder s

/-- What a status read leads to, by its result. -/
def statusAnswer (holder block : Addr) (r : ReadResult) (s : State) : State :=
  match r with
  | .data bs => statusFound holder block (byteAt bs 0) s
  | .error => hold .readError holder s

theorem exec_linkRead (r : ReadResult) (own : s.isStray .link = false) (doing : s.oe.doing = .link holder) :
    exec (.linkRead r) s = .next (followGoesOn holder (linkAnswer holder r) (s.readDone .link r)) := by
  change execLinkRead r s = _
  rw [execLinkRead, own, doing]
  cases r <;> rfl

theorem exec_blockStatusRead (r : ReadResult) (own : s.isStray .blockStatus = false)
    (doing : s.oe.doing = .status holder block) :
    exec (.blockStatusRead r) s
      = .next (followGoesOn holder (statusAnswer holder block r) (s.readDone .blockStatus r)) := by
  change execBlockStatusRead r s = _
  rw [execBlockStatusRead, own, doing]
  cases r <;> rfl

/-- A follow goes on outside HALTING without an ABORT. -/
theorem followGoesOn_on (k : State → State) (unit : s.uc.unit ≠ .halting) (free : s.oe.abortPending = false) :
    followGoesOn holder k s = k s := by
  rw [followGoesOn, if_neg unit, free]
  rfl

theorem followGoesOn_aborted (k : State → State) (unit : s.uc.unit ≠ .halting) (aborted : s.oe.abortPending = true) :
    followGoesOn holder k s = hold .orderAborted holder s := by
  rw [followGoesOn, if_neg unit, aborted]
  rfl

theorem followGoesOn_halting (k : State → State) (unit : s.uc.unit = .halting) :
    followGoesOn holder k s = enterStopped s := if_pos unit

theorem aligned_iff (a : Addr) (n : Nat) : aligned a n = true ↔ a.toNat % n = 0 := beq_iff_eq

theorem linkFound_off {value : Addr} (off : value.toNat % 64 ≠ 0) :
    linkFound holder value s = hold .staleOrder holder s := by
  have nonzero : value ≠ 0 := fun e => off (by rw [e]; rfl)
  rw [linkFound, if_neg nonzero, if_neg fun c => off ((aligned_iff _ _).mp c)]

theorem linkFound_block {value : Addr} (nonzero : value ≠ 0) (on : value.toNat % 64 = 0) :
    linkFound holder value s = { s with
      oe := { s.oe with doing := .status holder value }
      xe := { s.xe with bus := s.xe.bus ++ [.read .blockStatus (value + 8) 1] } } := by
  rw [linkFound, if_neg nonzero, if_pos ((aligned_iff _ _).mpr on)]
  rfl

theorem statusFound_pending : statusFound holder block 1 s = fetchOrder block s := rfl

theorem statusFound_other {status : Byte} (draft : status ≠ 0) (pending : status ≠ 1) :
    statusFound holder block status s = hold .staleOrder holder s := by
  rw [statusFound, if_neg pending, if_neg draft]

/-! ## An order fetched (R129 to R131) -/

/-- A block whose status is PENDING made the chain position, its header's read begun (R130). -/
def State.fetching (s : State) (block : Addr) : State := { s with
  oe := { s.oe with
    engine := .fetching, chain := some block, park := none, recheck := false, early := false, abortMark := false,
    active := none, doing := .header }
  xe := { s.xe with bus := s.xe.bus ++ [.read .header block 336] } }

theorem fetchOrder_eq (free : s.oe.abortPending = false) :
    fetchOrder block s = if s.uc.unit = .parked then enterUnit .running (s.fetching block) else s.fetching block := by
  have started : beginRead .header block headerLength (s.onOrder fun o =>
      { o with engine := .fetching, chain := some block, park := none, recheck := false, early := false,
               abortMark := false, abortPending := false, active := none, doing := .header }) = s.fetching block := by
    simp only [State.fetching, free]
    rfl
  rw [fetchOrder, started]

end

/-! ## After an order (R145, R146) -/

section
variable {s : State}

/-- An order's end with its terminal status written: stage 7 of CLOSING (R145). -/
def State.orderEnded (s : State) : State := orderDone (logBus (.ended .terminal) s)

theorem exec_terminalStatusWritten (own : s.isStray .terminal = false) (doing : s.oe.doing = .terminal) :
    exec .terminalStatusWritten s = .next (settle (routeOrder s.orderEnd s.orderEnded)) := by
  change execTerminalStatusWritten s = _
  rw [execTerminalStatusWritten, State.orderEnded, own, if_neg Bool.false_ne_true, doing]

theorem terminal_done_iff (r : EndReason) : r.terminal = .done ↔ r = .complete := by
  cases r <;> simp [EndReason.terminal]

theorem terminal_aborted_iff (r : EndReason) : r.terminal = .aborted ↔ r = .abortCommand := by
  cases r <;> simp [EndReason.terminal]

theorem terminal_failed_iff (r : EndReason) :
    r.terminal = .failed ↔ r ≠ .complete ∧ r ≠ .abortCommand := by cases r <;> simp [EndReason.terminal]

/-- The notices of an order's end (R145). -/
def State.endNoticed (s : State) : State :=
  if s.slot.reason.terminal = .done then setNotice .orderEnd s else setNotice .orderFail (setNotice .orderEnd s)

theorem endNoticed_only (s : State) : ∃ raw, s.endNoticed = { s with xe := { s.xe with noteRaw := raw } } := by
  unfold State.endNoticed
  split <;> exact ⟨_, rfl⟩

theorem endNoticed_orderEnd (s : State) : s.endNoticed.notice .orderEnd = true := by
  have set : (setNotice .orderEnd s).notice .orderEnd = true := setNotice_notice _ _ _ (.inr rfl)
  unfold State.endNoticed
  split
  · exact set
  · exact setNotice_notice _ _ _ (.inl set)

theorem endNoticed_orderFail (s : State) (failed : s.slot.reason ≠ .complete) :
    s.endNoticed.notice .orderFail = true := by
  unfold State.endNoticed
  rw [if_neg fun c => failed ((terminal_done_iff _).mp c)]
  exact setNotice_notice _ _ _ (.inr rfl)

/-- The copies of an ended order discarded (R127, R18). -/
def State.discarded (s : State) : State := { s with
  tg := { s.tg with zones := none }
  oe := { s.oe with engine := .idle, doing := .none, active := none, early := false, abortMark := false } }

theorem orderDone_eq (s : State) : orderDone s = requestPage s.endNoticed.discarded := rfl

/-- From `s` to `t`, stage 7 of CLOSING: the notices of the order's end, the active copy discarded, the Status Page
asked for (R145, R127). -/
structure StageSeven (s t : State) : Prop where
  engine : t.oe = { s.oe with engine := .idle, doing := .none, active := none, early := false, abortMark := false }
  unit : t.uc = s.uc
  orderEnd : t.notice .orderEnd = true
  orderFail : s.slot.reason ≠ .complete → t.notice .orderFail = true
  registers : SameRegisters s t
  page : ∃ page : List BusEvent, (∀ e ∈ page, ∃ w, e = .write .statusPage w)
    ∧ t.xe.bus = s.xe.bus ++ [.ended .terminal] ++ page

theorem orderEnded_stageSeven (s : State) : StageSeven s s.orderEnded := by
  let v := logBus (.ended .terminal) s
  obtain ⟨raw, only⟩ := endNoticed_only v
  obtain ⟨page, own, bus⟩ := requestPage_bus v.endNoticed.discarded
  have e : s.orderEnded = requestPage v.endNoticed.discarded := orderDone_eq v
  have registers : SameRegisters s v.endNoticed.discarded := by
    rw [only]
    exact ⟨rfl, rfl, rfl, rfl, rfl, rfl, rfl⟩
  refine ⟨?_, ?_, ?_, fun failed => ?_, e ▸ registers.trans (requestPage_registers _), page, own, ?_⟩
  · rw [e, requestPage_oe, only]
    rfl
  · rw [e, requestPage_uc, only]
    rfl
  · rw [e, requestPage_notice]
    exact endNoticed_orderEnd v
  · rw [e, requestPage_notice]
    exact endNoticed_orderFail v failed
  · rw [e, bus, only]
    rfl

theorem routeOrder_faulted {e : OrderEnd} {c : FaultCause} (fault : s.uc.fault = some c) :
    routeOrder e s = enterFaulted c s := by rw [routeOrder, fault]

/-- The routing of an order that was loaded (R146). -/
theorem routeOrder_loaded {e : OrderEnd} (fault : s.uc.fault = none) (loaded : e.early = false) : routeOrder e s
    = if s.uc.unit = .halting then enterStopped s
      else if e.slot.reason = .abortCommand ∨ e.abortMark = true then hold .orderAborted e.block s
      else if e.slot.reason ≠ .complete ∧ e.continueOnFail = false then hold .orderFailed e.block s
      else followLink e.block s := by
  rw [routeOrder, fault]
  simp only [loaded, Bool.false_eq_true, false_and, if_false, terminal_aborted_iff]
  congr 1
  split
  · rfl
  · rename_i unaborted
    simp [terminal_failed_iff, (not_or.mp unaborted).1]

/-- The unit stands where the routing of R146 brings it, its engine IDLE without an active copy. -/
structure Routed (s t : State) : Prop where
  engine : t.oe.engine = .idle
  active : t.oe.active = none
  unit : t.uc.unit ≠ .starting
  notices : ∀ n, s.notice n = true → t.notice n = true
  registers : SameRegisters s t

theorem Routed.settled {t : State} (k : Routed s t) : Routed s (settle t) ∧ AtRest t (settle t)
    ∧ t.xe.bus <+: (settle t).xe.bus := by
  have rest := settle_atRest t (by rw [k.engine]; rfl) k.unit
  have steady := settle_steady (Steady.refl t)
  refine ⟨⟨rest.engine.trans k.engine, rest.active.trans k.active, ?_, fun n hn => steady.notices n (k.notices n hn),
    k.registers.trans steady.registers⟩, rest, steady.bus⟩
  rw [rest.uc]
  exact k.unit

theorem HeldAt.routed {reason : HeldReason} {point : Addr} {t : State} (k : HeldAt reason point s t)
    (active : s.oe.active = none) : Routed s t :=
  ⟨k.engine, k.active.trans active, by rw [k.unit]; decide, k.notices, k.registers⟩

theorem enterStopped_routed (s : State) : Routed s (enterStopped s) := by
  obtain ⟨unit, _, _, _, _, _, _, _, _, _, engine, _, active, _, _, _, registers, notices⟩ := enterStopped_spec s
  exact ⟨engine, active, by rw [unit]; decide, fun n hn => (notices n).trans hn, registers⟩

theorem enterFaulted_routed (c : FaultCause) (other : s.uc.unit ≠ .faulted) : Routed s (enterFaulted c s) := by
  obtain ⟨unit, _, _, _, engine, active, _, registers, _, notices, _⟩ := enterFaulted_spec c s other
  exact ⟨engine, active, by rw [unit]; decide, notices, registers⟩

theorem followLink_routed (holder : Addr) (active : s.oe.active = none) (unit : s.uc.unit ≠ .starting) :
    Routed s (followLink holder s) :=
  ⟨rfl, active, unit, fun _ hn => hn, rfl, rfl, rfl, rfl, rfl, rfl, rfl⟩

/-- The end of the terminal status write, by the state to which the order's end is routed. -/
theorem exec_terminalStatusWritten_routed (own : s.isStray .terminal = false) (doing : s.oe.doing = .terminal)
    (k : Routed s.orderEnded (routeOrder s.orderEnd s.orderEnded)) : ∃ t,
    exec .terminalStatusWritten s = .next t ∧ SameRegisters s t ∧ t.notice .orderEnd = true
    ∧ (s.slot.reason ≠ .complete → t.notice .orderFail = true) ∧ t.oe.active = none ∧ t.oe.engine = .idle
    ∧ AtRest (routeOrder s.orderEnd s.orderEnded) t
    ∧ (routeOrder s.orderEnd s.orderEnded).xe.bus <+: t.xe.bus := by
  have seven := orderEnded_stageSeven s
  obtain ⟨settled, rest, bus⟩ := k.settled
  exact ⟨_, exec_terminalStatusWritten own doing, seven.registers.trans settled.registers,
    settled.notices _ seven.orderEnd, fun failed => settled.notices _ (seven.orderFail failed), settled.active,
    settled.engine, rest, bus⟩

end

end Sys2Proof.Machine
end

section
/-! An order before LOADING (08.4): the reads of FETCHING and VALIDATING, and the checks of R133. -/

namespace Sys2Proof.Machine

/-! ## The reads of FETCHING and VALIDATING (R133, R18, R71) -/

section
variable {s : State} {a : ActiveOrder} {h : Head}

theorem readDone_steady (kind : BusKind) (r : ReadResult) : Steady s (s.readDone kind r) :=
  accessDone_steady (endRead_steady kind r (Steady.refl s))

theorem exec_headerRead (r : ReadResult) (own : s.isStray .header = false) (doing : s.oe.doing = .header) :
    exec (.headerRead r) s = .next (settle (validationRead r 0x10 headerFound (s.readDone .header r))) := by
  change execHeaderRead r s = _
  rw [execHeaderRead, own, if_neg Bool.false_ne_true, doing, State.readDone]

/-- The state at the end of a zone table's read: a read of its entries is shown where its count is in range (R18). -/
def State.zonesDone (s : State) (addr : Addr) (r : ReadResult) : State :=
  accessDone (zoneEntriesRead addr r (endRead .zoneTable r s))

theorem zonesDone_steady (addr : Addr) (r : ReadResult) : Steady s (s.zonesDone addr r) :=
  accessDone_steady (zoneEntriesRead_steady addr r (endRead_steady .zoneTable r (Steady.refl s)))

theorem zonesDone_blocks (addr : Addr) (r : ReadResult) :
    (s.zonesDone addr r).oe = { s.oe with doing := .none } ∧ (s.zonesDone addr r).uc = s.uc := by
  cases r with
  | error => exact ⟨rfl, rfl⟩
  | data bs =>
    unfold State.zonesDone zoneEntriesRead
    dsimp only
    split <;> exact ⟨rfl, rfl⟩

theorem zonesDone_out (addr : Addr) {bs : List Byte} (out : ¬(1 ≤ zoneCount bs ∧ zoneCount bs ≤ 32)) :
    s.zonesDone addr (.data bs) = s.readDone .zoneTable (.data bs) := by
  rw [State.zonesDone, zoneEntriesRead]
  exact congrArg accessDone (if_neg out)

theorem zonesDone_in (addr : Addr) {bs : List Byte} (within : 1 ≤ zoneCount bs ∧ zoneCount bs ≤ 32) :
    s.zonesDone addr (.data bs) = { s with
      oe := { s.oe with doing := .none }
      xe := { s.xe with bus := s.xe.bus ++ [.ended .zoneTable]
        ++ [.read .zoneTable (addr + 8) (16 * zoneCount bs)] ++ [.ended .zoneTable] } } := by
  rw [State.zonesDone, zoneEntriesRead]
  exact congrArg accessDone (if_pos within)

theorem exec_zoneTableRead (r : ReadResult) (own : s.isStray .zoneTable = false) (doing : s.oe.doing = .zoneTable)
    (active : s.oe.active = some a) : exec (.zoneTableRead r) s
      = .next (settle (validationRead r 0x11 (zonesFound a) (s.zonesDone a.header.zoneAddr r))) := by
  change execZoneTableRead r s = _
  rw [execZoneTableRead, own, if_neg Bool.false_ne_true, doing, active, State.zonesDone]

theorem exec_correctionTableRead (r : ReadResult) (own : s.isStray .correctionTable = false)
    (doing : s.oe.doing = .correction h) (active : s.oe.active = some a) : exec (.correctionTableRead r) s
      = .next (settle (validationRead r (0x20 + h.num) (tableFound a h) (s.readDone .correctionTable r))) := by
  change execCorrectionTableRead r s = _
  rw [execCorrectionTableRead, own, if_neg Bool.false_ne_true, doing, active, State.readDone]

/-- An order ended early from `v`, the end of a read `k` shown on the bus, as the end of the event leaves it. -/
theorem endEarly_after {v : State} (slot : EndSlot) {k : BusEvent} (steady : Steady s v)
    (rest : v.oe.engine.running = false) (unit : v.uc.unit ≠ .starting) (chain : v.oe.chain = s.oe.chain)
    (bus : v.xe.bus = s.xe.bus ++ [k]) :
    (settle (endEarly slot v)).oe.early = true ∧ (settle (endEarly slot v)).oe.endSlot = some slot
    ∧ (settle (endEarly slot v)).oe.doing = .completion ∧ (settle (endEarly slot v)).oe.chain = s.oe.chain
    ∧ s.xe.bus ++ [k] ++ [.write .completion (earlyCompletionWrites s.block slot s.xe.time s.tracker.revolution)]
      <+: (settle (endEarly slot v)).xe.bus
    ∧ Steady s (settle (endEarly slot v)) :=
  bus ▸ endEarly_settled slot steady rest unit chain

/-! ## The checks of a header (R133) -/

variable {hd : OrderHeader}

/-- Check 3: no head, or a head that holds no configuration record with its present flag. -/
def State.maskFails (s : State) (hd : OrderHeader) : Bool :=
  hd.mask.members.isEmpty || hd.mask.members.any fun h => !((s.ports.get h).config.map (·.present)).getD false

/-- Check 7: a replaced head whose held record bars the replacement. -/
def State.replacementFails (s : State) (hd : OrderHeader) : Bool :=
  hd.replaceMask.members.any fun h => badReplacement (s.ports.get h).config (hd.replacement h)

theorem mem_members (m : HeadSet) (h : Head) : h ∈ m.members ↔ m.get h = true := by
  simp [PerHead.members, mem_all]

theorem members_isEmpty (m : HeadSet) : m.members.isEmpty = true ↔ ∀ h, m.get h = false := by
  simp [List.isEmpty_iff, List.eq_nil_iff_forall_not_mem, mem_members]

theorem maskFails_iff : s.maskFails hd = true ↔ (∀ h, hd.mask.get h = false)
    ∨ ∃ h, hd.mask.get h = true ∧ ((s.ports.get h).config.map (·.present)).getD false = false := by
  simp only [State.maskFails, Bool.or_eq_true, members_isEmpty, List.any_eq_true, mem_members, Bool.not_eq_true']

theorem badReplacement_iff (held : Option HeadConfig) (new : HeadConfig) : badReplacement held new = true ↔
    ∀ c, held = some c → c.present = false ∨ new.present ≠ c.present ∨ new.mount ≠ c.mount ∨ new.timeout = 0
      ∨ 15 < new.blank ∨ new.action = none := by
  cases held with
  | none => simp [badReplacement]
  | some c =>
    have range : new.inRange = false ↔ new.timeout = 0 ∨ 15 < new.blank ∨ new.action = none := by
      rw [HeadConfig.inRange]
      cases new.action <;> simp
      tauto
    simp only [badReplacement, Bool.or_eq_true, Bool.not_eq_true', bne_iff_ne, range, Option.some.injEq, forall_eq',
      or_assoc]

theorem replacementFails_iff : s.replacementFails hd = true ↔ ∃ h, hd.replaceMask.get h = true
    ∧ ∀ c, (s.ports.get h).config = some c → c.present = false ∨ (hd.replacement h).present ≠ c.present
      ∨ (hd.replacement h).mount ≠ c.mount ∨ (hd.replacement h).timeout = 0 ∨ 15 < (hd.replacement h).blank
      ∨ (hd.replacement h).action = none := by
  simp only [State.replacementFails, List.any_eq_true, mem_members, badReplacement_iff]

theorem headerCheck_unknownKind (kind : hd.kind = none) : s.headerCheck hd = some 1 := by
  rw [State.headerCheck, kind]

theorem headerCheck_unknownFormat (kind : hd.kind ≠ none) (format : hd.format = none) :
    s.headerCheck hd = some 2 := by
  cases known : hd.kind with
  | none => exact absurd known kind
  | some k => simp only [State.headerCheck, known, format, if_true]

theorem headerCheck_scan (kind : hd.kind = some .scan) (format : hd.format ≠ none) : s.headerCheck hd
    = if s.maskFails hd then some 3
      else if hd.stepCount = 0 ∨ 64 < hd.stepCount then some 4
      else if hd.revolutions = 0 ∨ 16 < hd.revolutions then some 5
      else if 4 < hd.revisitLimit then some 6
      else none := by
  simp [State.headerCheck, State.maskFails, kind, format]

/-- The first of checks 3 to 6 that a SCAN's header fails is the one answered. -/
theorem headerCheck_scan_first {c3 c4 c5 c6 : Prop} (kind : hd.kind = some .scan) (format : hd.format ≠ none)
    (mask : s.maskFails hd = true ↔ c3) (steps : (hd.stepCount = 0 ∨ 64 < hd.stepCount) ↔ c4)
    (revolutions : (hd.revolutions = 0 ∨ 16 < hd.revolutions) ↔ c5) (revisits : 4 < hd.revisitLimit ↔ c6) {n : Nat}
    (first : (c3 ∧ n = 3) ∨ (¬c3 ∧ c4 ∧ n = 4) ∨ (¬c3 ∧ ¬c4 ∧ c5 ∧ n = 5) ∨ (¬c3 ∧ ¬c4 ∧ ¬c5 ∧ c6 ∧ n = 6)) :
    s.headerCheck hd = some n := by
  rw [headerCheck_scan kind format]
  rw [← mask, ← steps, ← revolutions, ← revisits] at first
  rcases first with ⟨h3, rfl⟩ | ⟨n3, h4, rfl⟩ | ⟨n3, n4, h5, rfl⟩ | ⟨n3, n4, n5, h6, rfl⟩
  · rw [if_pos h3]
  · rw [if_neg n3, if_pos h4]
  · rw [if_neg n3, if_neg n4, if_pos h5]
  · rw [if_neg n3, if_neg n4, if_neg n5, if_pos h6]

theorem headerCheck_calibrate (kind : hd.kind = some .calibrateReference) (format : hd.format ≠ none) :
    s.headerCheck hd
      = if s.maskFails hd then some 3 else if hd.revolutions = 0 ∨ 16 < hd.revolutions then some 5 else none := by
  simp [State.headerCheck, State.maskFails, kind, format]

theorem headerCheck_settings (kind : hd.kind = some .settings) (format : hd.format ≠ none) :
    s.headerCheck hd = if s.replacementFails hd then some 7 else none := by
  simp [State.headerCheck, State.replacementFails, kind, format]

theorem headerCheck_mark (kind : hd.kind = some .mark) (format : hd.format ≠ none) : s.headerCheck hd = none := by
  simp [State.headerCheck, kind, format]

/-! ## The header taken (R127, R133) -/

/-- The active copy as it stands when the header alone has been read (R127). -/
def OrderHeader.copied (hd : OrderHeader) : ActiveOrder := { header := hd, zones := none, tables := .all .identity }

/-- The header's read ended with data, and the header in the active copy (R127). -/
def State.headerTaken (s : State) (hd : OrderHeader) : State := { s with
  oe := { s.oe with engine := .validating, doing := .none, active := some hd.copied }
  xe := { s.xe with bus := s.xe.bus ++ [.ended .header] } }

theorem headerTaken_steady (hd : OrderHeader) : Steady s (s.headerTaken hd) :=
  onOrder_steady (fun o => { o with engine := .validating, active := some hd.copied }) rfl
    (readDone_steady (s := s) .header (.data []))

theorem headerFound_fails {bs : List Byte} {n : Nat} (fails : s.headerCheck (readOrderHeader bs) = some n) :
    headerFound bs (s.readDone .header (.data bs))
      = endEarly ⟨.validation, n⟩ (s.headerTaken (readOrderHeader bs)) := by
  have same : (s.headerTaken (readOrderHeader bs)).headerCheck (readOrderHeader bs) = some n := fails
  unfold headerFound
  dsimp only
  split
  · rename_i m e
    cases Option.some.inj (e.symm.trans same)
    rfl
  · rename_i e
    exact absurd (e.symm.trans same) nofun

theorem headerFound_passes {bs : List Byte} (passes : s.headerCheck (readOrderHeader bs) = none) :
    headerFound bs (s.readDone .header (.data bs)) = match (readOrderHeader bs).kind with
      | some .scan => readZones (readOrderHeader bs).copied (s.headerTaken (readOrderHeader bs))
      | some .calibrateReference =>
        readCorrections (readOrderHeader bs).copied (readOrderHeader bs).mask.members
          (s.headerTaken (readOrderHeader bs))
      | _ => enterLoading (readOrderHeader bs).copied (s.headerTaken (readOrderHeader bs)) := by
  have same : (s.headerTaken (readOrderHeader bs)).headerCheck (readOrderHeader bs) = none := passes
  unfold headerFound
  dsimp only
  split
  · rename_i m e
    exact absurd (e.symm.trans same) nofun
  · rfl

theorem headerFound_scan {bs : List Byte} (passes : s.headerCheck (readOrderHeader bs) = none)
    (kind : (readOrderHeader bs).kind = some .scan) : headerFound bs (s.readDone .header (.data bs))
      = readZones (readOrderHeader bs).copied (s.headerTaken (readOrderHeader bs)) := by
  rw [headerFound_passes passes, kind]

theorem headerFound_calibrate {bs : List Byte} (passes : s.headerCheck (readOrderHeader bs) = none)
    (kind : (readOrderHeader bs).kind = some .calibrateReference) : headerFound bs (s.readDone .header (.data bs))
      = readCorrections (readOrderHeader bs).copied (readOrderHeader bs).mask.members
        (s.headerTaken (readOrderHeader bs)) := by
  rw [headerFound_passes passes, kind]

theorem headerFound_short {bs : List Byte} {k : OrderKind} (passes : s.headerCheck (readOrderHeader bs) = none)
    (kind : (readOrderHeader bs).kind = some k) (short : k = .mark ∨ k = .settings) :
    headerFound bs (s.readDone .header (.data bs))
      = enterLoading (readOrderHeader bs).copied (s.headerTaken (readOrderHeader bs)) := by
  rw [headerFound_passes passes, kind]
  rcases short with rfl | rfl <;> rfl

theorem readZones_bad (hd : OrderHeader) (bad : hd.zoneAddr = 0 ∨ hd.zoneAddr.toNat % 8 ≠ 0) :
    readZones hd.copied s = endEarly ⟨.readError, 0x11⟩ s :=
  if_neg fun ⟨given, on⟩ => bad.elim given fun off => off ((aligned_iff _ _).mp on)

theorem readZones_begins (hd : OrderHeader) (given : hd.zoneAddr ≠ 0) (on : hd.zoneAddr.toNat % 8 = 0) :
    readZones hd.copied s = beginRead .zoneTable hd.zoneAddr 8 (s.onOrder fun o => { o with doing := .zoneTable }) :=
  if_pos ⟨given, (aligned_iff _ _).mpr on⟩

/-- What an access begun before LOADING leaves at the end of its event. -/
theorem begun_settled {v : State} (steady : Steady s v) (engine : v.oe.engine = .validating)
    (unit : v.uc.unit ≠ .starting) :
    (settle v).oe.doing = v.oe.doing ∧ (settle v).oe.active = v.oe.active ∧ (settle v).oe.engine = .validating
    ∧ v.xe.bus <+: (settle v).xe.bus ∧ Steady s (settle v) := by
  have kept := settle_atRest v (by rw [engine]; rfl) unit
  exact ⟨kept.doing, kept.active, kept.engine.trans engine, (settle_steady (Steady.refl v)).bus,
    settle_steady steady⟩

/-- A SCAN whose header passes reads the count of its zone table at an aligned address (R133, R18). -/
theorem headerTaken_readsZones (hd : OrderHeader) (unit : s.uc.unit ≠ .starting)
    (given : hd.zoneAddr ≠ 0) (on : hd.zoneAddr.toNat % 8 = 0) :
    let t := settle (readZones hd.copied (s.headerTaken hd))
    t.oe.doing = .zoneTable ∧ t.oe.active = some hd.copied ∧ t.oe.engine = .validating
    ∧ s.xe.bus ++ [.ended .header] ++ [.read .zoneTable hd.zoneAddr 8] <+: t.xe.bus ∧ Steady s t := by
  rw [readZones_begins hd given on]
  exact begun_settled (beginRead_steady _ _ _ (onOrder_steady _ rfl (headerTaken_steady hd))) rfl unit

/-! ## The tables taken (R18, R20, R21, R71) -/

/-- A zone table in the active copy. -/
def ActiveOrder.withZones (a : ActiveOrder) (bs : List Byte) : ActiveOrder :=
  { a with zones := some (readZoneTable bs) }

theorem zoneTableCheck_count {cpr count : Nat} {t : ZoneTable} {m : HeadSet} {checks : Bool} {ref : Option RefConfig}
    (out : ¬(1 ≤ count ∧ count ≤ 32)) : zoneTableCheck cpr count t m checks ref = some 8 := if_pos (by omega)

/-- The check of the zone table read for an order (R133, checks 8 to 13). -/
def State.zonesCheck (s : State) (a : ActiveOrder) (bs : List Byte) : Option Nat :=
  zoneTableCheck s.cpr (zoneCount bs) (readZoneTable bs) a.header.mask a.header.flags.referenceChecks s.rc.config

theorem zonesFound_fails {v : State} {bs : List Byte} {n : Nat} (steady : Steady s v)
    (fails : s.zonesCheck a bs = some n) :
    zonesFound a bs v
      = endEarly ⟨.validation, n⟩ (v.onOrder fun o => { o with active := some (a.withZones bs) }) := by
  have same : v.zonesCheck a bs = some n := by
    rw [State.zonesCheck, State.cpr, steady.tracker, steady.reference]
    exact fails
  unfold zonesFound
  dsimp only
  split
  · rename_i m e
    cases Option.some.inj (e.symm.trans same)
    rfl
  · rename_i e
    exact absurd (e.symm.trans same) nofun

theorem zonesFound_passes {v : State} {bs : List Byte} (steady : Steady s v) (passes : s.zonesCheck a bs = none) :
    zonesFound a bs v = readCorrections (a.withZones bs) a.header.mask.members
      (v.onOrder fun o => { o with active := some (a.withZones bs) }) := by
  have same : v.zonesCheck a bs = none := by
    rw [State.zonesCheck, State.cpr, steady.tracker, steady.reference]
    exact passes
  unfold zonesFound
  dsimp only
  split
  · rename_i m e
    exact absurd (e.symm.trans same) nofun
  · rfl

/-- No correction table is left to read: the order enters LOADING. -/
theorem readCorrections_none (hs : List Head)
    (last : hs.find? (fun j => decide (a.header.correctionAddr.get j ≠ 0)) = none) :
    readCorrections a hs s = enterLoading a s := by
  induction hs with
  | nil => rfl
  | cons k hs ih =>
    by_cases zero : a.header.correctionAddr.get k = 0
    · rw [List.find?_cons_of_neg (by simpa using zero)] at last
      rw [readCorrections]
      exact (if_pos zero).trans (ih last)
    · rw [List.find?_cons_of_pos (by simpa using zero)] at last
      cases last

/-- The first head left with an address has its table read, where the address is aligned. -/
theorem readCorrections_some (hs : List Head) {k : Head}
    (next : hs.find? (fun j => decide (a.header.correctionAddr.get j ≠ 0)) = some k) :
    readCorrections a hs s = if (a.header.correctionAddr.get k).toNat % 8 = 0
      then beginRead .correctionTable (a.header.correctionAddr.get k) 1036
        (s.onOrder fun o => { o with doing := .correction k })
      else endEarly ⟨.readError, 0x20 + k.num⟩ s := by
  induction hs with
  | nil => cases next
  | cons j hs ih =>
    by_cases zero : a.header.correctionAddr.get j = 0
    · rw [List.find?_cons_of_neg (by simpa using zero)] at next
      rw [readCorrections]
      exact (if_pos zero).trans (ih next)
    · rw [List.find?_cons_of_pos (by simpa using zero)] at next
      cases next
      rw [readCorrections]
      refine (if_neg zero).trans ?_
      simp only [aligned_iff]

theorem tableFound_fails {bs : List Byte} (fails : correctionTableValid bs h = false) :
    tableFound a h bs s = endEarly ⟨.tableCheck, 14⟩ s := if_neg (ne_true_of_eq_false fails)

/-- A correction table in the active copy. -/
def ActiveOrder.withTable (a : ActiveOrder) (h : Head) (bs : List Byte) : ActiveOrder :=
  { a with tables := a.tables.set h (.points (correctionPoints bs)) }

theorem tableFound_passes {bs : List Byte} (passes : correctionTableValid bs h = true) :
    tableFound a h bs s = readCorrections (a.withTable h bs) (headsAfter a.header.mask h)
      (s.onOrder fun o => { o with active := some (a.withTable h bs) }) := if_pos passes

end

end Sys2Proof.Machine
end

section
/-! The end of LOADING (08.4): the wakes waited for, the ORDER-begin record, and ARMING after it (R134, R136). -/

namespace Sys2Proof.Machine

/-! ## The ORDER-begin record offered (R134) -/

section
variable {s : State} {a : ActiveOrder}

theorem orderBeginRecord_eq {kind : OrderKind} {format : RecordFormat} (known : a.header.kind = some kind)
    (formed : a.header.format = some format) : s.orderBeginRecord a = .orderBegin
      { kind := kind, tag := a.header.tag, mask := a.header.mask, format := format,
        stepCount := a.header.stepCount, revolutions := a.header.revolutions,
        revisitLimit := a.header.revisitLimit, flags := a.header.flags, time := s.oe.startTime,
        revolution := s.oe.startRevolution } := by
  rw [State.orderBeginRecord, known, formed]
  rfl

theorem offerOrderBegin_room (active : s.oe.active = some a) (room : s.sb.staged.length < 1024) :
    offerOrderBegin s = orderBeginTaken (takeRecord (s.orderBeginRecord a) s) := by
  rw [offerOrderBegin, active]
  exact if_pos (hasRoom_other (s.orderBeginRecord a) s rfl room)

theorem offerOrderBegin_full (active : s.oe.active = some a) (full : 1024 ≤ s.sb.staged.length) :
    offerOrderBegin s = { s with oe := { s.oe with marker := some (s.orderBeginRecord a) } } := by
  rw [offerOrderBegin, active]
  exact if_neg (Bool.eq_false_iff.mp (hasRoom_full (s.orderBeginRecord a) s rfl full))

/-- With an entry free the record joins the buffer, whatever follows from its being taken. -/
theorem offerOrderBegin_staged (active : s.oe.active = some a) (other : s.orderKind ≠ some .settings)
    (room : s.sb.staged.length < 1024) :
    s.sb.staged ++ [⟨s.orderBeginRecord a, s.oe.activeTag⟩] <+: (offerOrderBegin s).sb.staged := by
  rw [offerOrderBegin_room active room, ← takeRecord_room _ s (hasRoom_other (s.orderBeginRecord a) s rfl room)]
  refine (orderBeginTaken_steady ?_ (Steady.refl _)).staged
  rw [State.orderKind, takeRecord_oe]
  exact other

end

/-! ## ARMING after the ORDER-begin record (R136, R121) -/

section
variable {s u v : State} {a : ActiveOrder}

/-- The engine after the ORDER-begin record has been taken (R134). -/
def State.begun (s : State) : OrderEngine := { s.oe with marker := none, beginTaken := true }

/-- `v` is `s` with the ORDER-begin record taken as ARMING starts, beside the buffer and the lines. -/
structure ArmingStarts (s v : State) : Prop where
  engine : v.oe = { s.begun with engine := .arming }
  passes : v.tg = s.tg
  lists : v.ru = s.ru
  reference : v.rc = s.rc
  light : v.light = s.light
  time : v.xe.time = s.xe.time

theorem offerOrderBegin_arming (active : s.oe.active = some a)
    (measuring : a.header.kind = some .scan ∨ a.header.kind = some .calibrateReference)
    (room : s.sb.staged.length < 1024) : ∃ v, ArmingStarts s v ∧ v.sf = s.sf
      ∧ offerOrderBegin s = if a.header.flags.checkFixture then matchRequest v else endArming v := by
  obtain ⟨w, x, taken, time⟩ := takeRecord_eq (hasRoom_other (s.orderBeginRecord a) s rfl room)
  let t : State := { s with sb := s.sb.append (s.orderBeginRecord a) s.oe.activeTag, rw := w, xe := x }
  rw [offerOrderBegin_room active room, taken, orderBeginTaken_arming t a active measuring]
  refine ⟨{ t with oe := { s.begun with engine := .arming } }, ⟨rfl, rfl, rfl, rfl, rfl, time⟩, rfl, ?_⟩
  have checks : (s.oe.active.map (·.header.flags.checkFixture)).getD false = a.header.flags.checkFixture := by
    rw [active]
    rfl
  rw [← checks]
  rfl

/-- The end of ARMING depends on its starting state by the passes, the lists, the Reference Check Unit, the light and
the time alone. -/
theorem ArmingEnded.of_starts {f : Span} (starts : ArmingStarts s v) (ended : ArmingEnded a.header v.oe f v u) :
    ArmingEnded a.header s.begun f s u := by
  obtain ⟨engine, passes, lists, reference, light, time⟩ := starts
  have ref : v.ref = s.ref := funext fun k => congrArg (fun g => (g.heads.get k).ref) passes
  refine ⟨fun scan => ?_, fun calibrate => ?_⟩
  · obtain ⟨oe, tg, ru, rc, sf⟩ := ended.scan scan
    exact ⟨by rw [oe, engine], tg.trans passes, ru.trans lists, by rw [rc, reference],
      fun c held => by rw [sf c held, time]⟩
  · obtain ⟨sf, rc, absent, present⟩ := ended.calibrate calibrate
    refine ⟨sf, by rw [rc, reference], fun dark => ?_, fun lit => ?_⟩
    · obtain ⟨oe, tg, ru⟩ := absent (light ▸ dark)
      exact ⟨by rw [oe, engine], tg.trans passes, ru.trans lists⟩
    · obtain ⟨oe, disarmed⟩ := present (light ▸ lit)
      exact ⟨by rw [oe, engine], lists ▸ disarmed.lists, disarmed.disarmed, passes ▸ disarmed.zones,
        ref ▸ disarmed.reference⟩

theorem ArmingStarts.active (starts : ArmingStarts s v) (active : s.oe.active = some a) :
    v.oe.active = some a := by
  rw [starts.engine]
  exact active

theorem ArmingStarts.ends (starts : ArmingStarts s v) (active : s.oe.active = some a) :
    ArmingEnded a.header s.begun v.sf s (endArming v) :=
  .of_starts starts (endArming_spec v a (starts.active active))

/-- The fixture lines agree with the comparison value in the bits of the mask (R121). -/
def Span.agrees (f : Span) (c : SpanConfig) : Prop :=
  ∀ n : Fin 8, c.fixtureMask.getLsbD n.val = true → f.f.getLsbD n.val = c.fixtureCompare.getLsbD n.val

theorem matched_iff {f : Span} {c : SpanConfig} (held : f.config = some c) : f.matched = true ↔ f.agrees c := by
  have bits : ((f.f ^^^ c.fixtureCompare) &&& c.fixtureMask = 0#8) ↔ f.agrees c := by
    refine ⟨fun zero n masked => ?_, fun agree => BitVec.eq_of_getLsbD_eq fun i lt => ?_⟩
    · have bit := congrArg (fun b => b.getLsbD n.val) zero
      simp only [BitVec.getLsbD_and, BitVec.getLsbD_xor, masked, Bool.and_true, BitVec.getLsbD_zero] at bit
      simpa using bit
    · have same := agree ⟨i, lt⟩
      simp only [BitVec.getLsbD_and, BitVec.getLsbD_xor, BitVec.getLsbD_zero, Bool.and_eq_false_iff]
      cases masked : c.fixtureMask.getLsbD i with
      | false => exact .inr rfl
      | true => exact .inl (by rw [same masked, Bool.xor_self])
  rw [Span.matched, held, ← bits]
  exact beq_iff_eq

/-- The match request of a fixture that agrees ends ARMING, and the fixture is watched (R121). -/
theorem matchRequest_matching {c : SpanConfig} (starts : ArmingStarts s v) (lines : v.sf = s.sf)
    (active : s.oe.active = some a) (held : s.sf.config = some c) (agrees : s.sf.agrees c) :
    ArmingEnded a.header s.begun
      { s.sf with capture := s.sf.f, fixture := .watching, fixtureTimer := .stopped } s (matchRequest v) := by
  have matched : v.sf.matched = true := by rw [lines]; exact (matched_iff held).mpr agrees
  let w := v.onSpan fun f => f.captured.inPhase .watching
  have request : matchRequest v = endArming w := if_pos matched
  have begins : ArmingStarts s w :=
    ⟨starts.engine, starts.passes, starts.lists, starts.reference, starts.light, starts.time⟩
  rw [request, ← lines]
  exact begins.ends active

theorem fixtureWait_eq {c : SpanConfig} (lines : v.sf = s.sf) (held : s.sf.config = some c) :
    (v.sf.config.map (·.fixtureWait)).getD 0 = c.fixtureWait := by
  rw [lines, held]
  rfl

/-- Without agreement and without a wait the order ends at once (R121, R142). -/
theorem matchRequest_timedOut {c : SpanConfig} (starts : ArmingStarts s v) (lines : v.sf = s.sf)
    (held : s.sf.config = some c) (differs : ¬s.sf.agrees c) (none : c.fixtureWait = 0)
    (undecided : s.oe.endSlot = .none) :
    (matchRequest v).oe.engine = .closing ∧ (matchRequest v).oe.endSlot = some ⟨.fixtureTimeout, 0⟩
    ∧ (matchRequest v).sf.capture = s.sf.f ∧ (matchRequest v).sf.fixture = .off := by
  have unmatched : ¬v.sf.matched = true := by rw [lines]; exact mt (matched_iff held).mp differs
  let w := v.onSpan fun f => f.captured.inPhase .off
  have request : matchRequest v = endCondition ⟨.fixtureTimeout, 0⟩ w :=
    (if_neg unmatched).trans (if_pos ((fixtureWait_eq lines held).trans none))
  have engine : w.oe = { s.begun with engine := .arming } := starts.engine
  rw [request, endCondition_taken _ w (by rw [engine]; rfl) (by rw [engine]; exact undecided)]
  obtain ⟨closing, slot, _, _, _, _, ended, _⟩ := enterClosing_spec ⟨.fixtureTimeout, 0⟩ (emptyLists .idle w)
  refine ⟨closing, slot, ?_, by rw [ended]; rfl⟩
  rw [ended, ← lines]
  rfl

/-- Without agreement and with a wait the fixture timer runs, and the order stays in ARMING (R121). -/
theorem matchRequest_waits {c : SpanConfig} (lines : v.sf = s.sf) (held : s.sf.config = some c)
    (differs : ¬s.sf.agrees c) (some : c.fixtureWait ≠ 0) :
    matchRequest v = v.onSpan fun f =>
      { f.inPhase .matching with fixtureTimer := .running v.xe.time (c.fixtureWait * 100000) } := by
  have unmatched : ¬v.sf.matched = true := by rw [lines]; exact mt (matched_iff held).mp differs
  have wait := fixtureWait_eq lines held
  rw [← wait] at some ⊢
  exact (if_neg unmatched).trans (if_neg some)

end

/-! ## The end of LOADING (R134, R148) -/

section
variable {s : State} {a : ActiveOrder}

theorem noWakeOf_iff (m : HeadSet) :
    s.noWakeOf m = true ↔ ∀ h, m.get h = true → (s.ports.get h).state ≠ .waking := by
  simp only [State.noWakeOf, List.all_eq_true, mem_members, bne_iff_ne]

theorem loadingEnded_measuring (loading : s.oe.engine = .loading) (unmarked : s.oe.marker = none)
    (active : s.oe.active = some a) (fresh : s.oe.beginTaken = false)
    (measuring : a.header.kind = some .scan ∨ a.header.kind = some .calibrateReference) :
    s.loadingEnded = s.noWakeOf a.header.mask := by
  have mask : s.mask = a.header.mask := by simp [State.mask, active]
  rw [State.loadingEnded, loading, unmarked, orderKind_eq active, fresh, mask]
  rcases measuring with kind | kind <;> rw [kind] <;> rfl

theorem loadingEnded_settings (loading : s.oe.engine = .loading) (unmarked : s.oe.marker = none)
    (active : s.oe.active = some a) (taken : s.oe.beginTaken = true) (kind : a.header.kind = some .settings) :
    s.loadingEnded = s.noWakeOf s.oe.rewoken := by
  rw [State.loadingEnded, loading, unmarked, orderKind_eq active, taken, kind]
  rfl

theorem exec_loadingEnd_waits (waits : s.loadingEnded = false) : exec .loadingEnd s = .next s :=
  congrArg Host.Outcome.next (if_neg (ne_true_of_eq_false waits))

theorem exec_loadingEnd (ended : s.loadingEnded = true) : exec .loadingEnd s = .next (settle (endLoading s)) :=
  congrArg Host.Outcome.next (if_pos ended)

theorem endLoading_settings (kind : s.orderKind = some .settings) : endLoading s = enterClosing ⟨.complete, 0⟩ s :=
  if_pos kind

theorem endLoading_headsLost (active : s.oe.active = some a) (other : s.orderKind ≠ some .settings)
    (none : ∀ h, a.header.mask.get h = true → s.oe.excluded.get h = true) :
    endLoading s = endCondition ⟨.headsLost, 0⟩ s := by
  have mask : s.mask = a.header.mask := by simp [State.mask, active]
  exact (if_neg other).trans (if_pos ((workingHeads_isEmpty s).mpr (mask ▸ none)))

theorem endLoading_working (active : s.oe.active = some a) (other : s.orderKind ≠ some .settings)
    (some : ∃ h, a.header.mask.get h = true ∧ s.oe.excluded.get h = false) : endLoading s = offerOrderBegin s := by
  have mask : s.mask = a.header.mask := by simp [State.mask, active]
  obtain ⟨h, masked, working⟩ := some
  refine (if_neg other).trans (if_neg fun empty => ?_)
  have excluded := (workingHeads_isEmpty s).mp empty h (mask ▸ masked)
  rw [working] at excluded
  cases excluded

end

end Sys2Proof.Machine
end

section
/-! The entry to LOADING (08.4): the records cleared, the tables installed and the heads woken; and the records of a
SETTINGS order installed at once. -/

namespace Sys2Proof.Machine

/-! ## The entry to LOADING (R134, R72, R83) -/

section
variable {s : State} {a : ActiveOrder}

/-- LOADING begun for an order: its counts and marks cleared and IN_PROGRESS being written, before its tables and
wakes, or its ORDER-begin record. -/
def State.loadingBegun (s : State) (a : ActiveOrder) : State := { s with
  oe := { s.oe with
    engine := .loading, active := some a, stepIndex := 0, restarts := 0, stepRestarts := 0,
    excluded := .all false, endSlot := none, abortMark := false, abortPending := false, counts := .zero,
    flags := .clear, marker := none, beginTaken := false, interrupting := false, rewoken := .all false,
    startTime := s.xe.time, startRevolution := s.tracker.revolution, activeTag := a.header.tag }
  xe := { s.xe with
    bus := s.xe.bus ++ [.write .loading (loadingWrites s.block s.xe.time s.tracker.revolution)] }
  tg := { s.tg with zones := a.zones }
  sf := { s.sf with capture := 0 }
  sb := { s.sb with dropFlag := false, stallCount := 0 }
  rw := { s.rw with segments := [], overflow := false }
  rc := { s.rc with heads := s.rc.heads.map fun r => { r with due := 0 } } }

theorem enterLoading_measuring (kind : a.header.kind = some .scan ∨ a.header.kind = some .calibrateReference) :
    enterLoading a s = forHeads loadingWake (clearCounters (installTables a (s.loadingBegun a))) := by
  rcases kind with kind | kind <;> rw [enterLoading, kind] <;> rfl

theorem enterLoading_short {k : OrderKind} (kind : a.header.kind = some k) (short : k = .mark ∨ k = .settings) :
    enterLoading a s = offerOrderBegin (s.loadingBegun a) := by
  rcases short with rfl | rfl <;> rw [enterLoading, kind] <;> rfl

theorem onQual_if (c : Bool) (h : Head) (f : HeadQual → HeadQual) (s : State) :
    (if c then s.onQual h f else s) = s.onQual h fun q => if c then f q else q := by
  cases c with
  | false =>
    have stands : s.qu.heads.set h (s.qu.heads.get h) = s.qu.heads := set_get _ _
    unfold State.onQual
    simp [stands]
  | true => rfl

theorem installTables_eq : installTables a s = { s with qu := { s.qu with
    heads := .of fun h =>
      if a.header.mask.get h then { s.qu.heads.get h with table := a.tables.get h } else s.qu.heads.get h } } := by
  unfold installTables forHeads
  simp only [onQual_if]
  rfl

/-- A port after its wake of LOADING, for a head of the mask or another (R134). -/
def Port.loaded (p : Port) (masked lit : Bool) (now : Time) : Port :=
  if (p.state = .off ∨ p.state = .fault) ∧ masked = true then
    if lit then { p with state := .forcedOff, wakePending := true } else p.sendWake now
  else p

theorem loadingWake_eq (h : Head) (s : State) :
    loadingWake h s = s.onPort h fun p => p.loaded (s.mask.get h) s.light.present s.xe.time := by
  by_cases wakes : ((s.ports.get h).state = .off ∨ (s.ports.get h).state = .fault) ∧ s.mask.get h = true
  · obtain ⟨down, masked⟩ := wakes
    have port : s.onPort h (fun p => p.loaded (s.mask.get h) s.light.present s.xe.time) = s.onPort h fun p =>
        if s.light.present then { p with state := .forcedOff, wakePending := true } else p.sendWake s.xe.time :=
      congrArg (fun p => { s with ports := s.ports.set h p }) (if_pos ⟨down, masked⟩)
    rw [port]
    unfold loadingWake wakeHead
    rcases down with state | state <;> rw [state, masked] <;> cases s.light.present <;> rfl
  · have stands : s.onPort h (fun p => p.loaded (s.mask.get h) s.light.present s.xe.time) = s :=
      onPort_same s h _ (if_neg wakes)
    rw [stands]
    unfold loadingWake
    cases state : (s.ports.get h).state
    case off => exact if_neg fun masked => wakes ⟨.inl state, masked⟩
    case fault => exact if_neg fun masked => wakes ⟨.inr state, masked⟩
    all_goals rfl

theorem forHeads_loadingWake (s : State) : forHeads loadingWake s = { s with
    ports := .of fun h => (s.ports.get h).loaded (s.mask.get h) s.light.present s.xe.time } := by
  unfold forHeads
  simp only [loadingWake_eq]
  rfl

theorem loaded_stands {p : Port} {masked lit : Bool} {now : Time}
    (stands : masked = false ∨ p.state = .waking ∨ p.state = .ready ∨ p.state = .forcedOff) :
    p.loaded masked lit now = p := by
  refine if_neg fun ⟨down, named⟩ => ?_
  rcases stands with other | state | state | state
  · rw [other] at named
    cases named
  all_goals simp [state] at down

theorem loaded_woken {p : Port} {c : HeadConfig} {now : Time} (down : p.state = .off ∨ p.state = .fault)
    (held : p.config = some c) : p.loaded true false now = { p with
      state := .waking, wakePending := false, seqCounter := 0, wakeTimer := .running now 100000
      timeoutInForce := c.timeout, sent := p.sent ++ [.wake c.codes c.timeout] } :=
  (if_pos ⟨down, rfl⟩).trans (sendWake_held held now)

end

/-! ## The heads of a SETTINGS order (R148, R43) -/

section
variable {s t u : State} {h k : Head}

/-- From `s` to `t` records of heads are installed and heads woken: the engine changes in its counts and in the heads
woken again alone, and with no exposure in flight its counts stand. -/
structure Installing (s t : State) : Prop where
  order : t.oe = { s.oe with counts := t.oe.counts, rewoken := t.oe.rewoken }
  unit : t.uc = s.uc
  light : t.light = s.light
  time : t.xe.time = s.xe.time
  staged : s.sb.staged <+: t.sb.staged
  bus : s.xe.bus <+: t.xe.bus
  idle : (∀ h, (s.ports.get h).inFlight = []) →
    t.oe.counts = s.oe.counts ∧ ∀ h, (t.ports.get h).inFlight = []

theorem Installing.refl (s : State) : Installing s s :=
  ⟨rfl, rfl, rfl, rfl, List.prefix_rfl, List.prefix_rfl, fun idle => ⟨rfl, idle⟩⟩

theorem Installing.trans (first : Installing s t) (next : Installing t u) : Installing s u := by
  refine ⟨next.order.trans (by rw [first.order]), next.unit.trans first.unit, next.light.trans first.light,
    next.time.trans first.time, first.staged.trans next.staged, first.bus.trans next.bus, fun idle => ?_⟩
  obtain ⟨counts, still⟩ := first.idle idle
  obtain ⟨counts', still'⟩ := next.idle still
  exact ⟨counts'.trans counts, still'⟩

theorem forHeads_installing {f : Head → State → State} (each : ∀ h s, Installing s (f h s)) (s : State) :
    Installing s (forHeads f s) :=
  (each .h0 s).trans ((each .h1 _).trans ((each .h2 _).trans (each .h3 _)))

theorem onPort_installing {f : Port → Port} (list : ∀ p, (f p).inFlight = p.inFlight ∨ (f p).inFlight = []) :
    Installing s (s.onPort h f) := by
  refine ⟨rfl, rfl, rfl, rfl, List.prefix_rfl, List.prefix_rfl, fun idle => ⟨rfl, fun k => ?_⟩⟩
  by_cases same : k = h
  · subst same
    rw [onPort_ports, get_set_same]
    exact (list _).elim (·.trans (idle k)) id
  · rw [onPort_ports, get_set_other _ _ same]
    exact idle k

theorem endPassage_unit : (endPassage h s).uc = s.uc := by
  unfold endPassage
  split <;> rfl

theorem leaveReady_unit : (leaveReady h false s).uc = s.uc := by
  obtain ⟨_, _, _, _, _, removed⟩ := groupsRemoved_onlyStaging h (s.openList h) (s.emptied h)
  have exit : leaveReady h false s = endPassage h (groupsRemoved h (s.openList h) (s.emptied h)) := rfl
  rw [exit, endPassage_unit, removed, emptied_eq]
  rfl

/-- What an exit from READY leaves of a port: its list empty, the head's state and messages as they were. -/
theorem leaveReady_link (k : Head) : SameLink ((s.onPort h fun p => { p with inFlight := [] }).ports.get k)
    ((leaveReady h false s).ports.get k) := (leaveReady_steady h false (Steady.refl _)).ports k

theorem leaveReady_inFlight : ((leaveReady h false s).ports.get h).inFlight = [] := by
  have link := (leaveReady_link (s := s) (h := h) h).inFlight
  rw [onPort_ports, get_set_same] at link
  exact List.map_eq_nil_iff.mp link

theorem leaveReady_installing : Installing s (leaveReady h false s) := by
  have steady : Steady (s.onPort h fun p => { p with inFlight := [] }) (leaveReady h false s) :=
    leaveReady_steady h false (Steady.refl _)
  have order := (leaveReady_orderStands h s false).order
  refine ⟨order.trans ?_, leaveReady_unit, steady.light, steady.time, steady.staged, steady.bus, fun idle => ⟨?_,
    fun k => ?_⟩⟩
  · rw [show (leaveReady h false s).oe.rewoken = s.oe.rewoken from (congrArg OrderEngine.rewoken order :)]
  · have none : s.openList h = [] := by rw [State.openList, idle h]; rfl
    have counted : (leaveReady h false s).oe = (s.emptied h).oe := (leaveReady_scansStand h s false).order
    rw [counted, emptied_eq, none]
    dsimp only
    rw [List.length_nil, ite_self, Nat.add_zero]
  · by_cases same : k = h
    · subst same
      exact leaveReady_inFlight
    · rw [(leaveReady_other s k false same).2]
      exact idle k

theorem wakeHead_awake (absent : s.light.present = false)
    (state : (s.ports.get h).state = .off ∨ (s.ports.get h).state = .fault ∨ (s.ports.get h).state = .waking) :
    wakeHead h s = s.onPort h fun p => p.sendWake s.xe.time := by
  unfold wakeHead
  rw [absent]
  rcases state with e | e | e <;> rw [e] <;> rfl

theorem wakeHead_ready (absent : s.light.present = false) (ready : (s.ports.get h).state = .ready) :
    wakeHead h s = (leaveReady h false s).onPort h fun p => p.sendWake s.xe.time := by
  unfold wakeHead
  rw [absent, ready]
  rfl

/-- What a wake can make of a state: nothing, a change of the head's port, or an exit from READY before it. -/
theorem wakeHead_cases (h : Head) (s : State) : wakeHead h s = s ∨ ∃ f : Port → Port,
    (∀ p, (f p).config = p.config ∧ (f p).inFlight = p.inFlight)
    ∧ (wakeHead h s = s.onPort h f ∨ wakeHead h s = (leaveReady h false s).onPort h f) := by
  have sends : ∀ p : Port, (p.sendWake s.xe.time).config = p.config ∧ (p.sendWake s.xe.time).inFlight = p.inFlight := by
    intro p
    refine ⟨?_, sendWake_flight p _⟩
    cases held : p.config with
    | none => rw [sendWake_unheld held, held]
    | some c => rw [sendWake_held held]; exact held
  cases lit : s.light.present with
  | false =>
    cases state : (s.ports.get h).state with
    | off => exact .inr ⟨_, sends, .inl (wakeHead_awake lit (.inl state))⟩
    | fault => exact .inr ⟨_, sends, .inl (wakeHead_awake lit (.inr (.inl state)))⟩
    | waking => exact .inr ⟨_, sends, .inl (wakeHead_awake lit (.inr (.inr state)))⟩
    | ready => exact .inr ⟨_, sends, .inr (wakeHead_ready lit state)⟩
    | forcedOff =>
      left
      unfold wakeHead
      rw [lit, state]
      rfl
  | true =>
    have forced : (wakeHead h s = s.onPort h fun p => { p with state := .forcedOff, wakePending := true })
        ∨ wakeHead h s = s := by
      unfold wakeHead
      rw [lit]
      cases (s.ports.get h).state
      case off | fault | forcedOff => exact .inl rfl
      case waking | ready => exact .inr rfl
    exact forced.elim (fun e => .inr ⟨fun p => { p with state := .forcedOff, wakePending := true },
      fun _ => ⟨rfl, rfl⟩, .inl e⟩) .inl

theorem wakeHead_installing : Installing s (wakeHead h s) := by
  rcases wakeHead_cases h s with e | ⟨f, keeps, e | e⟩ <;> rw [e]
  · exact .refl s
  · exact onPort_installing fun p => .inl (keeps p).2
  · exact leaveReady_installing.trans (onPort_installing fun p => .inl (keeps p).2)

theorem wakeHead_rewoken : (wakeHead h s).oe.rewoken = s.oe.rewoken := by
  rcases wakeHead_cases h s with e | ⟨f, _, e | e⟩ <;> rw [e]
  · rfl
  · exact (congrArg OrderEngine.rewoken (leaveReady_orderStands h s false).order :)

theorem wakeHead_config : ((wakeHead h s).ports.get h).config = (s.ports.get h).config := by
  rcases wakeHead_cases h s with e | ⟨f, keeps, e | e⟩ <;> rw [e]
  · rw [onPort_ports, get_set_same, (keeps _).1]
  · have link := (leaveReady_link (s := s) (h := h) h).config
    rw [onPort_ports, get_set_same] at link
    rw [onPort_ports, get_set_same, (keeps _).1, link]

theorem wakeHead_other (other : k ≠ h) : (wakeHead h s).ports.get k = s.ports.get k := by
  rcases wakeHead_cases h s with e | ⟨f, _, e | e⟩ <;> rw [e]
  · rw [onPort_ports, get_set_other _ _ other]
  · rw [onPort_ports, get_set_other _ _ other]
    exact (leaveReady_other s k false other).2

end

/-! ## One record installed (R148) -/

section
variable {s u : State} {h k : Head} {hd : OrderHeader}

theorem changesWake_iff (old : Option HeadConfig) (new : HeadConfig) : changesWake old new = true
    ↔ ∀ c, old = some c → c.codes ≠ new.codes ∨ c.timeout ≠ new.timeout := by
  cases old with
  | none => simp [changesWake]
  | some c => simp [changesWake]

/-- The new record in its port. -/
def State.installed (s : State) (hd : OrderHeader) (h : Head) : State :=
  s.onPort h fun p => { p with config := some (hd.replacement h) }

/-- The head counted among those woken again. -/
def State.wokenAgain (s : State) (h : Head) : State := s.onOrder fun o => { o with rewoken := o.rewoken.set h true }

theorem installReplacement_unnamed (other : hd.replaceMask.get h = false) : installReplacement hd h s = s :=
  if_neg (ne_true_of_eq_false other)

theorem installReplacement_same (named : hd.replaceMask.get h = true)
    (same : changesWake (s.ports.get h).config (hd.replacement h) = false) :
    installReplacement hd h s = s.installed hd h :=
  (if_pos named).trans (if_neg (ne_true_of_eq_false same))

theorem installReplacement_changed (named : hd.replaceMask.get h = true)
    (changed : changesWake (s.ports.get h).config (hd.replacement h) = true) :
    installReplacement hd h s = wakeHead h ((s.installed hd h).wokenAgain h) :=
  (if_pos named).trans (if_pos changed)

theorem installReplacement_cases (hd : OrderHeader) (h : Head) (s : State) : installReplacement hd h s = s
    ∨ installReplacement hd h s = s.installed hd h
    ∨ installReplacement hd h s = wakeHead h ((s.installed hd h).wokenAgain h) := by
  cases named : hd.replaceMask.get h with
  | false => exact .inl (installReplacement_unnamed named)
  | true =>
    cases changed : changesWake (s.ports.get h).config (hd.replacement h) with
    | false => exact .inr (.inl (installReplacement_same named changed))
    | true => exact .inr (.inr (installReplacement_changed named changed))

theorem installed_installing : Installing s (s.installed hd h) := onPort_installing fun _ => .inl rfl

theorem installReplacement_installing (hd : OrderHeader) (h : Head) (s : State) :
    Installing s (installReplacement hd h s) := by
  rcases installReplacement_cases hd h s with e | e | e <;> rw [e]
  · exact .refl s
  · exact installed_installing
  · have again : Installing (s.installed hd h) ((s.installed hd h).wokenAgain h) :=
      ⟨rfl, rfl, rfl, rfl, List.prefix_rfl, List.prefix_rfl, fun idle => ⟨rfl, idle⟩⟩
    exact installed_installing.trans (again.trans wakeHead_installing)

/-- A head's port, and whether the head has been woken again. -/
def State.replaced (s : State) (h : Head) : Port × Bool := (s.ports.get h, s.oe.rewoken.get h)

theorem installReplacement_other (other : k ≠ h) : (installReplacement hd h s).replaced k = s.replaced k := by
  have port : (s.installed hd h).ports.get k = s.ports.get k := get_set_other _ _ other
  unfold State.replaced
  rcases installReplacement_cases hd h s with e | e | e <;> rw [e]
  · rw [port]
    rfl
  · rw [wakeHead_other other, wakeHead_rewoken]
    exact Prod.ext port (get_set_other _ _ other)

/-- What installing the record of head `h` makes of a port `p`: it stands, takes the record, or takes it and the head
is woken again, at `now` where the light condition is absent (R148, R43). -/
structure Replaced (hd : OrderHeader) (h : Head) (lit : Bool) (now : Time) (p : Port) (x : Port × Bool) : Prop where
  unnamed : hd.replaceMask.get h = false → x.1 = p ∧ x.2 = false
  same : hd.replaceMask.get h = true → changesWake p.config (hd.replacement h) = false →
    x.1 = { p with config := some (hd.replacement h) } ∧ x.2 = false
  rewoken : hd.replaceMask.get h = true → changesWake p.config (hd.replacement h) = true →
    x.2 = true ∧ x.1.config = some (hd.replacement h)
  awake : hd.replaceMask.get h = true → changesWake p.config (hd.replacement h) = true → lit = false →
    (p.state = .off ∨ p.state = .fault ∨ p.state = .waking) → x.1 = { p with
      config := some (hd.replacement h), state := .waking, wakePending := false, seqCounter := 0
      wakeTimer := .running now 100000, timeoutInForce := (hd.replacement h).timeout
      sent := p.sent ++ [.wake (hd.replacement h).codes (hd.replacement h).timeout] }
  ready : hd.replaceMask.get h = true → changesWake p.config (hd.replacement h) = true → lit = false →
    p.state = .ready → x.1.state = .waking ∧ x.1.inFlight = []
      ∧ x.1.timeoutInForce = (hd.replacement h).timeout
      ∧ x.1.sent = p.sent ++ [.wake (hd.replacement h).codes (hd.replacement h).timeout]

theorem installReplacement_own (fresh : s.oe.rewoken.get h = false) :
    Replaced hd h s.light.present s.xe.time (s.ports.get h) ((installReplacement hd h s).replaced h) := by
  let w := (s.installed hd h).wokenAgain h
  have port : (s.installed hd h).ports.get h = { s.ports.get h with config := some (hd.replacement h) } :=
    get_set_same _ _ _
  have woken : w.ports.get h = { s.ports.get h with config := some (hd.replacement h) } := port
  have held : (w.ports.get h).config = some (hd.replacement h) := by rw [woken]
  refine ⟨fun other => ?_, fun named same => ?_, fun named changed => ?_, fun named changed absent down => ?_,
    fun named changed absent ready => ?_⟩
  · rw [installReplacement_unnamed other]
    exact ⟨rfl, fresh⟩
  · rw [installReplacement_same named same]
    exact ⟨port, fresh⟩
  all_goals rw [installReplacement_changed named changed]
  · refine ⟨?_, wakeHead_config.trans held⟩
    rw [State.replaced, wakeHead_rewoken]
    exact get_set_same _ _ _
  · rw [wakeHead_awake (s := w) absent (by rw [woken]; exact down), State.replaced, onPort_ports, get_set_same,
      sendWake_held held, woken]
    rfl
  · have link := leaveReady_link (s := w) (h := h) h
    rw [onPort_ports, get_set_same] at link
    rw [wakeHead_ready (s := w) absent (by rw [woken]; exact ready), State.replaced, onPort_ports, get_set_same,
      sendWake_held (link.config.trans held)]
    refine ⟨rfl, leaveReady_inFlight, rfl, ?_⟩
    rw [link.sent, woken]

/-- What each head's step makes of that head stands where the other heads' steps leave it. -/
theorem forHeads_own {α : Type} (view : State → Head → α) (keeps : State → Prop) (good : Head → α → Prop)
    (f : Head → State → State) (start : keeps s) (kept : ∀ k u, keeps u → keeps (f k u))
    (other : ∀ h k u, h ≠ k → view (f k u) h = view u h)
    (own : ∀ h u, keeps u → view u h = view s h → good h (view (f h u) h)) (h : Head) :
    good h (view (forHeads f s) h) := by
  have kept0 := kept .h0 s start
  have kept1 := kept .h1 _ kept0
  have kept2 := kept .h2 _ kept1
  unfold forHeads
  cases h with
  | h0 =>
    rw [other .h0 .h3 _ (by decide), other .h0 .h2 _ (by decide), other .h0 .h1 _ (by decide)]
    exact own .h0 s start rfl
  | h1 =>
    rw [other .h1 .h3 _ (by decide), other .h1 .h2 _ (by decide)]
    exact own .h1 _ kept0 (other .h1 .h0 s (by decide))
  | h2 =>
    rw [other .h2 .h3 _ (by decide)]
    refine own .h2 _ kept1 ?_
    rw [other .h2 .h1 _ (by decide), other .h2 .h0 _ (by decide)]
  | h3 =>
    refine own .h3 _ kept2 ?_
    rw [other .h3 .h2 _ (by decide), other .h3 .h1 _ (by decide), other .h3 .h0 _ (by decide)]

/-- All records of a SETTINGS order installed, head by head (R148). -/
theorem forHeads_installReplacement (fresh : s.oe.rewoken = .all false) (h : Head) :
    Replaced hd h s.light.present s.xe.time (s.ports.get h) ((forHeads (installReplacement hd) s).replaced h) := by
  refine forHeads_own State.replaced (Installing s)
    (fun h x => Replaced hd h s.light.present s.xe.time (s.ports.get h) x) _ (Installing.refl s)
    (fun k u i => i.trans (installReplacement_installing hd k u)) (fun _ _ _ other => installReplacement_other other)
    (fun k u i view => ?_) h
  obtain ⟨port, again⟩ := Prod.ext_iff.mp view
  have port : u.ports.get k = s.ports.get k := port
  rw [← i.light, ← i.time, ← port]
  refine installReplacement_own (again.trans ?_)
  change s.oe.rewoken.get k = false
  rw [fresh, get_all]

end

/-! ## The ORDER-begin record of a MARK or SETTINGS order (R134, R147, R148) -/

section
variable {s : State} {a : ActiveOrder}

/-- The ORDER-begin record taken, before what follows from it. -/
def State.beginTaken (s : State) (a : ActiveOrder) : State :=
  { takeRecord (s.orderBeginRecord a) s with oe := s.begun }

/-- The entry to CLOSING once the ORDER-begin record has been taken goes to the drain at once (R143, R145). -/
theorem enterClosing_begun (slot : EndSlot) (taken : s.oe.beginTaken = true) : (enterClosing slot s).oe = { s.oe with
    engine := .closing, endSlot := some slot, stage := .drain, interrupting := false
    marker := keptMarker s.oe.marker } := by
  unfold enterClosing
  obtain ⟨_, _, _, _, _, _, _, e, _⟩ := closingBlocks (s.onOrder fun o =>
    { o with engine := .closing, endSlot := some slot, stage := .orderBegin, interrupting := false,
             marker := keptMarker o.marker })
  dsimp only
  rw [e]
  exact congrArg State.oe (if_pos taken)

theorem offerOrderBegin_begun (active : s.oe.active = some a) (room : s.sb.staged.length < 1024) :
    offerOrderBegin s = orderBeginTaken (s.beginTaken a) := by
  have begun : (takeRecord (s.orderBeginRecord a) s).onOrder (fun o => { o with marker := none, beginTaken := true })
      = s.beginTaken a := by
    rw [State.onOrder, takeRecord_oe]
    rfl
  rw [offerOrderBegin_room active room, orderBeginTaken, begun]
  rfl

theorem offerOrderBegin_mark (active : s.oe.active = some a) (room : s.sb.staged.length < 1024)
    (kind : a.header.kind = some .mark) : offerOrderBegin s = enterClosing ⟨.complete, 0⟩ (s.beginTaken a) := by
  have same : (s.beginTaken a).onOrder (fun o => { o with marker := none, beginTaken := true }) = s.beginTaken a := rfl
  rw [offerOrderBegin_begun active room, orderBeginTaken, same, show (s.beginTaken a).oe.active = some a from active]
  simp only [kind]

theorem offerOrderBegin_settings (active : s.oe.active = some a) (room : s.sb.staged.length < 1024)
    (kind : a.header.kind = some .settings) :
    offerOrderBegin s = forHeads (installReplacement a.header) (s.beginTaken a) := by
  have same : (s.beginTaken a).onOrder (fun o => { o with marker := none, beginTaken := true }) = s.beginTaken a := rfl
  rw [offerOrderBegin_begun active room, orderBeginTaken, same, show (s.beginTaken a).oe.active = some a from active]
  simp only [kind]

theorem beginTaken_staged (room : s.sb.staged.length < 1024) :
    (s.beginTaken a).sb.staged = s.sb.staged ++ [⟨s.orderBeginRecord a, s.oe.activeTag⟩] :=
  takeRecord_room _ s (hasRoom_other (s.orderBeginRecord a) s rfl room)

theorem beginTaken_taken : Steady s (takeRecord (s.orderBeginRecord a) s) := takeRecord_steady _ (Steady.refl s)

end

end Sys2Proof.Machine
end

section
/-! The end of an order (08.5, 08.6): LIGHT_WAIT left, and the drain of CLOSING. -/

namespace Sys2Proof.Machine

/-! ## LIGHT_WAIT left (R140, R141) -/

section
variable {s : State} {a : ActiveOrder}

/-- The light condition is present, or a head of the order is WAKING or FORCED_OFF (R141). -/
def State.lightBusy (s : State) (a : ActiveOrder) : Prop :=
  s.light.present = true ∨ ∃ h, a.header.mask.get h = true ∧ s.oe.excluded.get h = false
    ∧ ((s.ports.get h).state = .waking ∨ (s.ports.get h).state = .forcedOff)

theorem waitEnded_iff (waits : s.oe.engine = .lightWait) (unmarked : s.oe.marker = none)
    (active : s.oe.active = some a) : s.waitEnded = true ↔ ¬s.lightBusy a := by
  simp only [State.waitEnded, waits, unmarked, State.lightBusy, State.workingHeads, Bool.and_eq_true, beq_self_eq_true,
    Option.isNone_none, Bool.not_eq_true', true_and, List.all_eq_true, List.mem_filter, mem_all, bne_iff_ne,
    inOrder_iff active, not_or, not_exists, not_and, Bool.not_eq_true, ne_eq, and_imp]

theorem exec_lightWaitDeparture_busy (waits : s.oe.engine = .lightWait) (unmarked : s.oe.marker = none)
    (active : s.oe.active = some a) (busy : s.lightBusy a) : exec .lightWaitDeparture s = .next s :=
  congrArg Host.Outcome.next (if_neg fun c => (waitEnded_iff waits unmarked active).mp c busy)

theorem exec_lightWaitDeparture (waits : s.oe.engine = .lightWait) (unmarked : s.oe.marker = none)
    (active : s.oe.active = some a) (free : ¬s.lightBusy a) :
    exec .lightWaitDeparture s = .next (settle (departLightWait s)) :=
  congrArg Host.Outcome.next (if_pos ((waitEnded_iff waits unmarked active).mpr free))

theorem departLightWait_plain (plain : s.oe.interrupting = false) : departLightWait s = enterAcquiring s := by
  rw [departLightWait, plain]
  rfl

theorem departLightWait_spent (interrupted : s.oe.interrupting = true) (spent : Config.restartRoom ≤ s.oe.restarts) :
    departLightWait s = endCondition ⟨.lightLost, 0⟩ s := by
  rw [departLightWait, interrupted, if_neg (by decide), if_neg (Nat.not_lt.mpr spent)]

theorem departLightWait_room (active : s.oe.active = some a) (interrupted : s.oe.interrupting = true)
    (few : s.oe.restarts < Config.restartRoom) (room : s.sb.staged.length < 1024) :
    departLightWait s = restartTaken s.xe.time (takeRecord (.stepBegin (s.stepBeginRecord a true)) s) := by
  rw [departLightWait, interrupted, if_neg (by decide), if_pos few, active]
  exact if_pos (hasRoom_other (.stepBegin (s.stepBeginRecord a true)) s rfl room)

theorem departLightWait_full (active : s.oe.active = some a) (interrupted : s.oe.interrupting = true)
    (few : s.oe.restarts < Config.restartRoom) (full : 1024 ≤ s.sb.staged.length) :
    departLightWait s
      = { s with oe := { s.oe with marker := some (.stepBegin (s.stepBeginRecord a true)) } } := by
  rw [departLightWait, interrupted, if_neg (by decide), if_pos few, active]
  exact if_neg (Bool.eq_false_iff.mp (hasRoom_full (.stepBegin (s.stepBeginRecord a true)) s rfl full))

theorem enterAcquiring_engine (absent : s.light.present = false) : (enterAcquiring s).oe.engine = .acquiring := by
  by_cases scan : s.orderKind = some .scan
  · obtain ⟨_, e, _⟩ := enterAcquiring_armed s scan absent
    rw [e]
  · rw [enterAcquiring, absent, if_neg (by decide), if_neg scan]
    rfl

theorem enterAcquiring_calibrate (absent : s.light.present = false) (active : s.oe.active = some a)
    (kind : a.header.kind = some .calibrateReference) :
    enterAcquiring s = { s with oe := { s.oe with engine := .acquiring } } := by
  have other : ¬s.orderKind = some .scan := by
    rw [orderKind_eq active, kind]
    decide
  rw [enterAcquiring, absent, if_neg (by decide), if_neg other]
  rfl

/-- The engine as a restarted step starts, before its entry to ACQUIRING (R141). -/
def State.stepRestarted (s : State) (time : Time) : OrderEngine := { s.oe with
  stepStart := time
  marker := none
  restarts := s.oe.restarts + 1
  stepRestarts := s.oe.stepRestarts + 1
  counts := { s.oe.counts with stepRestarts := s.oe.counts.stepRestarts + 1 }
  flags := { s.oe.flags with restarted := true } }

/-- A RESTART record taken: the restart is counted, no scan record is armed, the lists are empty, and the counters of
the mask are cleared, as the order enters ACQUIRING (R141, R97, R83). -/
theorem restartTaken_eq (time : Time) (s : State) : ∃ v,
    restartTaken time s = enterAcquiring v
    ∧ v.oe = s.stepRestarted time
    ∧ v.light = s.light ∧ v.rc = s.rc ∧ v.sf = s.sf ∧ v.uc = s.uc
    ∧ v.tg = (forHeads disarmScanOnly s).tg ∧ v.qu.settle = s.oe.settle
    ∧ ∀ h, v.qu.heads.get h = if s.mask.get h then (s.qu.heads.get h).cleared else s.qu.heads.get h := by
  let r : State := { s with oe := s.stepRestarted time }
  obtain ⟨ports, sb, rw', xe, free, disarmed⟩ := disarmScans_passes r
  obtain ⟨heads, cleared, each⟩ := clearCounters_spec (listsAcquiring (disarmScans r))
  have start : restartTaken time s
      = enterAcquiring (setSettle s.oe.settle (clearCounters (listsAcquiring (disarmScans r)))) := rfl
  refine ⟨_, start, ?_⟩
  rw [cleared]
  refine ⟨?_, ?_, ?_, ?_, ?_, ?_, rfl, fun h => (each h).trans ?_⟩
  all_goals
    rw [disarmed]
    rfl

/-- With an entry free and the light condition clear, LIGHT_WAIT left by a SCAN order restarts the step: the passes
armed again from disarmed records, beside what the RESTART record's taking changes (R141). -/
theorem restartTaken_scan {v : State} (time : Time) (active : s.oe.active = some a) (kind : a.header.kind = some .scan)
    (absent : s.light.present = false) (oe : v.oe = s.oe) (light : v.light = s.light) (tg : v.tg = s.tg)
    (rc : v.rc = s.rc) (sf : v.sf = s.sf) (qu : v.qu = s.qu) (uc : v.uc = s.uc) :
    let u := restartTaken time v
    u.oe = { s.stepRestarted time with engine := .acquiring } ∧ PassesArmed a.header s u
    ∧ (∀ h, ¬(a.header.mask.get h = true ∧ s.oe.excluded.get h = false) → (u.scan h).state = .notArmed)
    ∧ u.qu.settle = s.oe.settle
    ∧ (∀ h, u.qu.heads.get h = if a.header.mask.get h then (s.qu.heads.get h).cleared else s.qu.heads.get h)
    ∧ u.rc = s.rc ∧ u.sf = s.sf
    ∧ (s.rc.mode = .off → s.uc.unit ≠ .starting →
      (∃ h, a.header.mask.get h = true ∧ s.oe.excluded.get h = false) → settle u = u) := by
  intro u
  obtain ⟨w, start, woe, wlight, wrc, wsf, wuc, wtg, wsettle, wheads⟩ := restartTaken_eq time v
  have restarted : w.oe = s.stepRestarted time := by rw [woe, State.stepRestarted, oe]; rfl
  have wactive : w.oe.active = some a := by rw [restarted]; exact active
  have excluded : w.oe.excluded = s.oe.excluded := by rw [restarted]; rfl
  have mask : v.mask = a.header.mask := by simp [State.mask, oe, active]
  have passes : ∀ h, (w.tg.heads.get h).scan.state = .notArmed ∧ (w.tg.heads.get h).seriesOpen = false
      ∧ (w.tg.heads.get h).ref = (s.tg.heads.get h).ref := by
    intro h
    rw [wtg, ← tg]
    cases h <;> exact ⟨rfl, rfl, rfl⟩
  have zones : w.tg.zones = s.tg.zones := by rw [wtg, ← tg]; rfl
  obtain ⟨span, reference, qualifier⟩ := enterAcquiring_blocks w
  obtain ⟨engine, armed, others⟩ :=
    (enterAcquiring_spec w a wactive kind).acquiring (by rw [wlight, light]; exact absent)
  have e : u = enterAcquiring w := start
  rw [e]
  refine ⟨by rw [engine, restarted], ⟨armed.lists, excluded ▸ armed.armed, armed.zones.trans zones, fun h => ?_⟩,
    fun h out => ?_, by rw [qualifier, wsettle, oe], fun h => by rw [qualifier, wheads, mask, qu],
    by rw [reference, wrc, rc], by rw [span, wsf, sf], fun mode unit ⟨h, masked, working⟩ => ?_⟩
  · exact (armed.reference h).trans (passes h).2.2
  · rw [State.scan, others h (excluded ▸ out)]
    exact (passes h).1
  · refine enterAcquiring_quiet w ((orderKind_eq wactive).trans kind) h
      ((inOrder_iff wactive h).mpr ⟨masked, excluded ▸ working⟩) ⟨?_, fun k => (passes k).2.1, ?_⟩
    · rw [wrc, rc]
      exact mode
    · rw [wuc, uc]
      exact unit

end

/-! ## The pending gaps offered at one event (R151, R155) -/

section
variable {s : State}

theorem offerGap_gapRecords_other {h k : Head} (other : k ≠ h) : (offerGap h s).gapRecords k = s.gapRecords k := by
  obtain ⟨_, _, e⟩ := offerGap_ports h s
  rw [State.gapRecords, State.gapRecords, e, get_set_other _ _ other, (offerGap_steady h (Steady.refl s)).activeTag]

theorem offerGap_gap_none {h k : Head} (none : (s.ports.get k).gap = none) :
    ((offerGap h s).ports.get k).gap = .none := by
  by_cases same : k = h
  · subst same
    rw [offerGap, none]
    exact none
  · obtain ⟨_, _, e⟩ := offerGap_ports h s
    rw [e, get_set_other _ _ same]
    exact none

/-- With room for it a pending gap that does not wait is taken. -/
theorem offerGap_taken {h : Head} (room : s.sb.staged.length < 1024) (idle : (s.ports.get h).gapWaits = false) :
    ((offerGap h s).ports.get h).gap = none := by
  cases gap : (s.ports.get h).gap with
  | none => exact offerGap_gap_none gap
  | some g => simp [offerGap, gap, idle, hasRoom_other (.gap (g.record h)) s rfl room, takeGap]

/-- With room for all, the gaps of several heads join the buffer in some order of the heads, and each is taken. -/
theorem inFreeOrder_offerGap (n : Nat) (hs : List Head) (s : State) (len : hs.length = n) (once : hs.Nodup)
    (room : s.sb.staged.length + n ≤ 1024) :
    (∃ ks : List Head, ks.Perm hs
      ∧ (inFreeOrder offerGap n hs s).sb.staged = s.sb.staged ++ ks.flatMap s.gapRecords)
    ∧ ∀ h ∈ hs, (s.ports.get h).gapWaits = false → ((inFreeOrder offerGap n hs s).ports.get h).gap = none := by
  induction n generalizing hs s with
  | zero =>
    cases List.length_eq_zero_iff.mp len
    exact ⟨⟨[], .nil, by simp [inFreeOrder]⟩, nofun⟩
  | succ n ih =>
    have lt : s.choice hs.length < hs.length := choice_lt s (by omega)
    let x := hs[s.choice hs.length]
    let u := s.chosen hs.length
    have sb : u.sb = s.sb := chosen_sb _ s
    have ports : u.ports = s.ports := chosen_ports _ s
    have engine : u.oe = s.oe := by
      obtain ⟨_, chosen⟩ := chosen_eq s hs.length
      exact (congrArg State.oe chosen :)
    have records : u.gapRecords = s.gapRecords := by
      funext k
      rw [State.gapRecords, State.gapRecords, ports, engine]
    have free : u.sb.staged.length < 1024 := by rw [sb]; omega
    have staged : (offerGap x u).sb.staged = s.sb.staged ++ s.gapRecords x := by
      rw [offerGap_staged_gapRecords x u free, sb, records]
    have step : inFreeOrder offerGap (n + 1) hs s
        = inFreeOrder offerGap n (hs.eraseIdx (s.choice hs.length)) (offerGap x u) := by
      rw [inFreeOrder]
      simp only [List.getElem?_eq_getElem lt]
      rfl
    have perm : (x :: hs.eraseIdx (s.choice hs.length)).Perm hs := List.getElem_cons_eraseIdx_perm lt
    have apart := List.nodup_cons.mp (perm.nodup_iff.mpr once)
    obtain ⟨⟨ks, order, joined⟩, taken⟩ := ih (hs.eraseIdx (s.choice hs.length)) (offerGap x u)
      (by rw [List.length_eraseIdx_of_lt lt, len, Nat.add_sub_cancel]) apart.2
      (by rw [staged, List.length_append]; have := gapRecords_length s x; omega)
    rw [step]
    refine ⟨⟨x :: ks, (order.cons x).trans perm, ?_⟩, fun h mem idle => ?_⟩
    · have others : ks.flatMap (offerGap x u).gapRecords = ks.flatMap s.gapRecords :=
        List.flatMap_congr fun k hk => by
          have other : k ≠ x := fun same => apart.1 (by rw [← same]; exact order.mem_iff.mp hk)
          rw [offerGap_gapRecords_other other, records]
      rw [joined, staged, others, List.flatMap_cons, List.append_assoc]
    · by_cases same : h = x
      · subst same
        refine inFreeOrder_kept (fun t => (t.ports.get x).gap = none) offerGap (fun _ _ => offerGap_gap_none)
          (fun m t none => by rw [chosen_ports]; exact none) _ _ _ (offerGap_taken free (by rw [ports]; exact idle))
      · refine taken h ((List.mem_cons.mp (perm.mem_iff.mpr mem)).resolve_left same) ?_
        obtain ⟨_, _, e⟩ := offerGap_ports x u
        rw [e, get_set_other _ _ same, ports]
        exact idle

/-- The records of the heads with a gap to offer are those of all heads that have one. -/
theorem gapHeads_records {f : Head → Option Staged} (each : ∀ h, s.gapRecords h = (f h).toList) :
    s.gapHeads.flatMap s.gapRecords = Head.all.filterMap f := by
  have idle : ∀ h, s.gapPending h = false → s.gapRecords h = [] := by
    intro h
    unfold State.gapPending State.gapRecords
    cases (s.ports.get h).gap <;> cases (s.ports.get h).gapWaits <;> simp
  unfold State.gapHeads
  induction Head.all with
  | nil => rfl
  | cons h hs ih =>
    rw [List.filter_cons]
    cases pending : s.gapPending h with
    | true =>
      simp only [if_true, List.flatMap_cons, ih, each]
      cases some : f h <;> simp [some]
    | false =>
      have none : f h = none := Option.toList_eq_nil_iff.mp ((each h).symm.trans (idle h pending))
      simp [ih, none]

/-- With room for all, every gap to offer joins the buffer, in an order that is left open, and is taken. -/
theorem offerGaps_room (room : s.sb.staged.length + 4 ≤ 1024) :
    (∃ gaps : List Staged, gaps.Perm (s.gapHeads.flatMap s.gapRecords) ∧ gaps.length ≤ 4
      ∧ (offerGaps s).sb.staged = s.sb.staged ++ gaps)
    ∧ ∀ h, (s.ports.get h).gapWaits = false → ((offerGaps s).ports.get h).gap = none := by
  have four : s.gapHeads.length ≤ 4 := List.length_filter_le _ _
  have once : s.gapHeads.Nodup := List.Nodup.filter _ (by decide)
  obtain ⟨⟨ks, order, staged⟩, taken⟩ := inFreeOrder_offerGap _ s.gapHeads s rfl once (by omega)
  refine ⟨⟨_, order.flatMap_right _, ?_, staged⟩, fun h idle => ?_⟩
  · have short : ∀ l : List Head, (l.flatMap s.gapRecords).length ≤ l.length := by
      intro l
      induction l with
      | nil => exact Nat.le_refl 0
      | cons k l ih =>
        have := gapRecords_length s k
        simp only [List.flatMap_cons, List.length_append, List.length_cons]
        omega
    have := short ks
    have := order.length_eq
    omega
  · cases gap : (s.ports.get h).gap with
    | none =>
      exact inFreeOrder_kept (fun t => (t.ports.get h).gap = none) offerGap (fun _ _ => offerGap_gap_none)
        (fun m t none => by rw [chosen_ports]; exact none) _ _ _ gap
    | some g => exact taken h (List.mem_filter.mpr ⟨mem_all h, by simp [State.gapPending, gap, idle]⟩) idle

end

/-! ## The drain and the completion (R145, R146) -/

section
variable {s : State}

theorem drained_iff : s.drained = true
    ↔ ∀ h, ∀ e ∈ (s.ports.get h).inFlight, e.abandoned = true ∨ e.pass.kind = .reference := by
  simp only [State.drained, List.all_eq_true, mem_all, true_imp_iff, Port.drained, InFlight.openScan,
    Bool.not_eq_true', List.any_eq_false, Bool.and_eq_true, bne_iff_ne, not_and, ne_eq, not_not]
  exact ⟨fun all h e he => by cases marked : e.abandoned <;> simp [all h e he, marked],
    fun all h e he unmarked => (all h e he).resolve_left (by simp [unmarked])⟩

theorem referenceHeld_iff : s.referenceHeld = true ↔ ∃ h, (s.rc.heads.get h).held ≠ none := by
  simp only [State.referenceHeld, List.any_eq_true, mem_all, true_and, Option.isSome_iff_ne_none]

theorem exec_drainComplete_waits (waits : s.drained = false ∨ s.referenceHeld = true) :
    exec .drainComplete s = .next s := by
  refine congrArg Host.Outcome.next (if_neg ?_)
  rcases waits with e | e <;> simp [State.drainComplete, e]

theorem exec_drainComplete (closing : s.oe.engine = .closing) (stage : s.oe.stage = .drain)
    (unmarked : s.oe.marker = none) (drained : s.drained = true) (unheld : s.referenceHeld = false) :
    exec .drainComplete s = .next (completeDrain s) :=
  congrArg Host.Outcome.next (if_pos (by simp [State.drainComplete, closing, stage, unmarked, drained, unheld]))

/-- The ORDER-end record of an end slot (R134; log 46). -/
theorem orderEndRecord_eq {slot : EndSlot} (ended : s.oe.endSlot = some slot) : s.orderEndRecord = .orderEnd
    { tag := s.oe.activeTag, status := slot.reason.terminal, reason := slot.reason, detail := slot.detail,
      time := s.xe.time, revolution := s.tracker.revolution } := by
  rw [State.orderEndRecord, State.slot, ended]
  rfl

/-- The end of the drain with room for all its records: the gaps and then the ORDER-end record are staged (R145). -/
theorem completeDrain_room (room : s.sb.staged.length ≤ 1019) : ∃ gaps : List Staged,
    gaps.Perm (s.gapHeads.flatMap s.gapRecords)
    ∧ (completeDrain s).oe = { s.oe with stage := .records, marker := none }
    ∧ (∀ h, (s.ports.get h).gapWaits = false → ((completeDrain s).ports.get h).gap = none)
    ∧ (completeDrain s).sb.staged = s.sb.staged ++ gaps ++ [⟨s.orderEndRecord, s.oe.activeTag⟩] := by
  let v := s.onOrder fun o => { o with stage := .orderEnd }
  have steady : Steady v (offerGaps v) := offerGaps_steady (Steady.refl v)
  have engine : (offerGaps v).oe = v.oe := by
    obtain ⟨_, _, _, _, _, e⟩ := offerGaps_onlyStaging v
    rw [e]
  obtain ⟨⟨gaps, perm, four, staged⟩, taken⟩ := offerGaps_room (s := v) (by change s.sb.staged.length + 4 ≤ _; omega)
  have record : (offerGaps v).orderEndRecord = s.orderEndRecord := by
    rw [State.orderEndRecord, State.slot, engine, steady.time, steady.tracker]
    rfl
  have free : (offerGaps v).hasRoom (offerGaps v).orderEndRecord = true := by
    refine hasRoom_other _ _ rfl ?_
    rw [staged, List.length_append]
    change s.sb.staged.length + _ < _
    omega
  have result : completeDrain s = takeRecord (offerGaps v).orderEndRecord
      ((offerGaps v).onOrder fun o => { o with stage := .records, marker := none }) := if_pos free
  rw [result]
  refine ⟨gaps, perm, ?_, fun h idle => ?_, ?_⟩
  · rw [takeRecord_oe, onOrder_oe, engine]
    rfl
  · rw [takeRecord_ports]
    exact taken h idle
  · rw [takeRecord_room _ ((offerGaps v).onOrder _) free, onOrder_sb, staged, record, onOrder_oe, engine]
    rfl

theorem exec_completionWritten (own : s.isStray .completion = false) (doing : s.oe.doing = .completion) :
    exec .completionWritten s = .next { s with
      oe := { s.oe with stage := .terminal, doing := .terminal }
      xe := { s.xe with bus := s.xe.bus ++ [.ended .completion]
        ++ [.write .terminal [⟨s.oe.chain.getD 0 + 8, [BitVec.ofNat 8 s.slot.reason.terminal.code]⟩]] } } := by
  change execCompletionWritten s = _
  rw [execCompletionWritten, own, doing]
  rfl

/-- The terminal status of an end reason (R128). -/
theorem terminal_eq (r : EndReason) :
    r.terminal = if r = .complete then .done else if r = .abortCommand then .aborted else .failed := by
  cases r <;> rfl

end

end Sys2Proof.Machine
end

section
/-! The statements of 08 (scan orders and the order chain), settled. -/

open Sys2Proof Sys2Proof.Machine

/-- Settles O32: the end of each read of a follow, by what it finds and by the unit's state. -/
theorem followedLinkActsOnWhatItFinds : Obligations.FollowedLinkActsOnWhatItFinds := by
  intro s holder block bytes value parked held stopped ended running following link status
  have done := fun kind r => readDone_blocks (s := s) kind r
  have awake : following → s.uc.unit ≠ .halting := by
    rintro (unit | unit) <;> rw [unit] <;> decide
  have holds : ∀ kind r reason, held (hold reason holder (s.readDone kind r)) reason := by
    intro kind r reason
    obtain ⟨engine, _, registers⟩ := done kind r
    have k := hold_heldAt (s.readDone kind r) reason holder
    exact ⟨k.unit, k.heldReason, k.heldPoint, k.engine, k.doing.trans (by rw [engine]), k.held,
      k.chain.trans (by rw [engine]), registers.trans k.registers⟩
  have parks : ∀ kind r, running → parked (parkOn holder (s.readDone kind r)) := by
    intro kind r unit
    obtain ⟨engine, same, registers⟩ := done kind r
    have k := parkOn_parkedOn (s.readDone kind r) holder (by rw [same, show s.uc.unit = .running from unit]; decide)
    exact ⟨k.unit, k.park, k.engine, k.doing.trans (by rw [engine]), k.parked, k.chain.trans (by rw [engine]),
      registers.trans k.registers⟩
  have rechecks : ∀ kind, s.uc.unit = .parked →
      parkOn holder (s.readDone kind (.data bytes)) = ended kind s.oe.recheck := fun kind unit =>
    parkOn_parked (s.readDone kind (.data bytes)) holder unit
  have stops : ∀ kind r, stopped (enterStopped (s.readDone kind r)) := by
    intro kind r
    obtain ⟨engine, _, registers⟩ := done kind r
    obtain ⟨unit, stopping, _, _, _, _, _, _, _, _, idle, chain, _, doing, _, _, kept, _⟩ :=
      enterStopped_spec (s.readDone kind r)
    exact ⟨unit, stopping, idle, doing, enterStopped_park _, chain.trans (by rw [engine]), registers.trans kept⟩
  refine ⟨fun free => ⟨fun ⟨own, doing⟩ => ?_, fun ⟨own, doing⟩ => ?_⟩, fun r =>
    ⟨fun aborted unit => ⟨fun ⟨own, doing⟩ => ?_, fun ⟨own, doing⟩ => ?_⟩,
      fun halting => ⟨fun ⟨own, doing⟩ => ?_, fun ⟨own, doing⟩ => ?_⟩⟩⟩
  · have answer : ∀ r, following →
        exec (.linkRead r) s = .next (linkAnswer holder r (s.readDone .link r)) := fun r unit => by
      rw [exec_linkRead r own doing, followGoesOn_on]
      · exact (done .link r).2.1 ▸ awake unit
      · exact (done .link r).1 ▸ free
    have found : following → exec (.linkRead (.data bytes)) s
        = .next (linkFound holder value (s.readDone .link (.data bytes))) := answer (.data bytes)
    refine ⟨fun unit none => ⟨_, found (.inl unit), ?_⟩, fun unit none => ?_,
      fun unit off => ⟨_, (found unit).trans (congrArg _ (linkFound_off off)), holds _ _ _⟩,
      fun unit some on => (found unit).trans (congrArg _ (linkFound_block some on)),
      fun unit => ⟨_, answer .error unit, holds _ _ _⟩⟩
    · rw [none]
      exact parks _ _ unit
    · rw [found (.inr unit), none]
      exact congrArg _ (rechecks _ unit)
  · have answer : ∀ r, following → exec (.blockStatusRead r) s
        = .next (statusAnswer holder block r (s.readDone .blockStatus r)) := fun r unit => by
      rw [exec_blockStatusRead r own doing, followGoesOn_on]
      · exact (done .blockStatus r).2.1 ▸ awake unit
      · exact (done .blockStatus r).1 ▸ free
    have found : following → exec (.blockStatusRead (.data bytes)) s
        = .next (statusFound holder block (byteAt bytes 0) (s.readDone .blockStatus (.data bytes))) :=
      answer (.data bytes)
    refine ⟨fun unit draft => ⟨_, found (.inl unit), ?_⟩, fun unit draft => ?_, fun unit pending => ?_,
      fun unit pending => ⟨enterUnit .running ((s.readDone .blockStatus (.data bytes)).fetching block), ?_, ?_⟩,
      fun unit draft pending => ⟨_, (found unit).trans (congrArg _ (statusFound_other draft pending)), holds _ _ _⟩,
      fun unit => ⟨_, answer .error unit, holds _ _ _⟩⟩
    · rw [draft]
      exact parks _ _ unit
    · rw [found (.inr unit), draft]
      exact congrArg _ (rechecks _ unit)
    · have other : ¬(s.readDone .blockStatus (.data bytes)).uc.unit = .parked := by
        rw [(done .blockStatus (.data bytes)).2.1, show s.uc.unit = .running from unit]
        decide
      rw [found (.inl unit), pending, statusFound_pending,
        fetchOrder_eq ((done .blockStatus (.data bytes)).1 ▸ free), if_neg other]
      rfl
    · rw [found (.inr unit), pending, statusFound_pending, fetchOrder_eq ((done .blockStatus (.data bytes)).1 ▸ free),
        if_pos ((done .blockStatus (.data bytes)).2.1 ▸ unit)]
    · obtain ⟨unit', engine, _, bus, registers⟩ :=
        enterUnit_spec ((s.readDone .blockStatus (.data bytes)).fetching block) .running
      exact ⟨unit', engine, bus,
        SameRegisters.trans (s := (s.readDone .blockStatus (.data bytes)).fetching block)
          ⟨rfl, rfl, rfl, rfl, rfl, rfl, rfl⟩ registers⟩
  · rw [exec_linkRead r own doing, followGoesOn_aborted _ ((done .link r).2.1 ▸ awake (.inl unit))
      ((done .link r).1 ▸ aborted)]
    exact ⟨_, rfl, holds _ _ _⟩
  · rw [exec_blockStatusRead r own doing, followGoesOn_aborted _ ((done .blockStatus r).2.1 ▸ awake (.inl unit))
      ((done .blockStatus r).1 ▸ aborted)]
    exact ⟨_, rfl, holds _ _ _⟩
  · rw [exec_linkRead r own doing, followGoesOn_halting _ ((done .link r).2.1 ▸ halting)]
    exact ⟨_, rfl, stops _ _⟩
  · rw [exec_blockStatusRead r own doing, followGoesOn_halting _ ((done .blockStatus r).2.1 ▸ halting)]
    exact ⟨_, rfl, stops _ _⟩

/-- Settles O33: each check and each read error of FETCHING and VALIDATING in its order, and the reads that follow a
header that passes. -/
theorem firstFailedCheckEndsOrder : Obligations.FirstFailedCheckEndsOrder := by
  intro s bytes unit unfaulted free rest ended hd a u
  have readEnds : ∀ kind r (slot : EndSlot) (k : BusEvent),
      (s.readDone kind r).xe.bus = s.xe.bus ++ [k] → ended k slot (settle (endEarly slot (s.readDone kind r))) := by
    intro kind r slot k bus
    obtain ⟨engine, same, _⟩ := readDone_blocks (s := s) kind r
    exact endEarly_after slot (readDone_steady kind r) (by rw [engine]; exact rest) (by rw [same]; exact unit)
      (by rw [engine]) bus
  have found : ∀ bs detail k (v : State), v.uc = s.uc → v.oe = { s.oe with doing := .none } →
      validationRead (.data bs) detail k v = k bs v := fun bs detail k v same engine =>
    validationRead_goesOn (.data bs) detail k v (by rw [same]; exact unfaulted) (by rw [engine]; exact free)
  have lost : ∀ detail k (v : State), v.uc = s.uc → v.oe = { s.oe with doing := .none } →
      validationRead .error detail k v = endEarly ⟨.readError, detail⟩ v := fun detail k v same engine =>
    validationRead_goesOn .error detail k v (by rw [same]; exact unfaulted) (by rw [engine]; exact free)
  refine ⟨fun own doing fetching => ?_, fun a own doing active => ?_, fun a h own doing active => ?_⟩
  · intro fails c3 c4 c5 c6 c7
    have answer : exec (.headerRead (.data bytes)) s
        = .next (settle (headerFound bytes (s.readDone .header (.data bytes)))) := by
      rw [exec_headerRead _ own doing, found _ _ _ (s.readDone .header (.data bytes)) rfl rfl]
    have endsAfter : ∀ slot, ended (.ended .header) slot
        (settle (endEarly slot (s.headerTaken (readOrderHeader bytes)))) := fun slot =>
      endEarly_after slot (headerTaken_steady (readOrderHeader bytes)) rfl unit rfl rfl
    have passed : ∀ {v}, headerFound bytes (s.readDone .header (.data bytes)) = v →
        exec (.headerRead (.data bytes)) s = .next (settle v) := fun same => same ▸ answer
    have failed : ∀ n, s.headerCheck hd = some n → fails n := fun n check =>
      ⟨_, passed (headerFound_fails check), endsAfter _⟩
    refine ⟨⟨_, by rw [exec_headerRead _ own doing, lost _ _ (s.readDone .header .error) rfl rfl],
        readEnds .header .error _ _ rfl⟩,
      fun kind => failed 1 (headerCheck_unknownKind kind),
      fun kind format => failed 2 (headerCheck_unknownFormat kind format), fun kind format => ?_,
      fun kind format => ?_, fun kind format => ?_, fun kind format => ?_⟩
    · refine ⟨fun n first => failed n (headerCheck_scan_first kind format maskFails_iff .rfl .rfl .rfl first),
        fun n3 n4 n5 n6 => ?_⟩
      have passes : s.headerCheck hd = none := (headerCheck_scan kind format).trans (by
        rw [if_neg (mt maskFails_iff.mp n3), if_neg n4, if_neg n5, if_neg n6])
      have next := passed (headerFound_scan passes kind)
      refine ⟨fun bad => ⟨_, next, ?_⟩, fun given on => ⟨_, next, headerTaken_readsZones _ unit given on⟩⟩
      rw [readZones_bad _ bad]
      exact endsAfter _
    · have check := headerCheck_calibrate (s := s) kind format
      have fails3 := maskFails_iff (s := s) (hd := hd)
      refine ⟨fun h3 => failed 3 (check.trans (if_pos (fails3.mpr h3))), fun n3 h5 => failed 5 ?_,
        fun n3 n5 => passed (headerFound_calibrate (check.trans ?_) kind)⟩
      · rw [if_neg (mt fails3.mp n3), if_pos h5] at check
        exact check
      · rw [if_neg (mt fails3.mp n3), if_neg n5]
    · have check := headerCheck_settings (s := s) kind format
      have fails7 := replacementFails_iff (s := s) (hd := hd)
      exact ⟨fun h7 => failed 7 (check.trans (if_pos (fails7.mpr h7))), fun n7 =>
        passed (headerFound_short (check.trans (if_neg (mt fails7.mp n7))) kind (.inr rfl))⟩
    · exact ⟨passed (headerFound_short (headerCheck_mark kind format) kind (.inl rfl)),
        settle_steady (Steady.refl _)⟩
  · have zoned := fun r => zonesDone_blocks (s := s) a.header.zoneAddr r
    have failed : ∀ n, s.zonesCheck a bytes = some n → exec (.zoneTableRead (.data bytes)) s
        = .next (settle (endEarly ⟨.validation, n⟩ ((s.zonesDone a.header.zoneAddr (.data bytes)).onOrder fun o =>
          { o with active := some (a.withZones bytes) }))) := fun n check => by
      rw [exec_zoneTableRead _ own doing active, found _ _ _ _ (zoned _).2 (zoned _).1,
        ← zonesFound_fails (zonesDone_steady _ _) check]
    refine ⟨⟨_, by rw [exec_zoneTableRead _ own doing active, lost _ _ _ (zoned _).2 (zoned _).1]; rfl,
        readEnds .zoneTable .error _ _ rfl⟩,
      fun out => ?_, fun n check => ?_⟩
    · refine ⟨_, failed 8 (zoneTableCheck_count out), ?_⟩
      rw [zonesDone_out _ out]
      exact endEarly_after _ (onOrder_steady _ rfl (readDone_steady _ _)) rest unit rfl rfl
    · obtain ⟨engine, same⟩ := zonesDone_blocks (s := s) a.header.zoneAddr (.data bytes)
      obtain ⟨early, slot, access, chain, _, steady⟩ := endEarly_settled ⟨.validation, n⟩
        (s := (s.zonesDone a.header.zoneAddr (.data bytes)).onOrder fun o =>
          { o with active := some (a.withZones bytes) })
        (onOrder_steady _ rfl (zonesDone_steady _ _)) (by rw [onOrder_oe, engine]; exact rest)
        (by rw [onOrder_uc, same]; exact unit) (b := s) (by rw [onOrder_oe, engine])
      exact ⟨_, failed n check, early, slot, access, chain, steady⟩
  · refine ⟨⟨_, by rw [exec_correctionTableRead _ own doing active,
        lost _ _ (s.readDone .correctionTable .error) rfl rfl], readEnds .correctionTable .error _ _ rfl⟩,
      fun fails => ⟨_, ?_, readEnds .correctionTable (.data bytes) _ _ rfl⟩⟩
    rw [exec_correctionTableRead _ own doing active,
      found _ _ _ (s.readDone .correctionTable (.data bytes)) rfl rfl, ← tableFound_fails fails]

/-- Settles O34: a table that passes stands in the active copy, and the next address left decides what follows. -/
theorem tablesPassedGoOnToNext : Obligations.TablesPassedGoOnToNext := by
  intro s a h bytes unfaulted free active kept copied zoned corrected
  refine ⟨fun own doing passes => ?_, fun own doing passes => ?_, fun b hs u =>
    ⟨readCorrections_none hs, fun k found on => ?_, fun k found off => ?_⟩⟩
  · have within : 1 ≤ zoneCount bytes ∧ zoneCount bytes ≤ 32 :=
      Decidable.byContradiction fun out => nomatch passes.symm.trans (zoneTableCheck_count out)
    have done := zonesDone_in (s := s) a.header.zoneAddr within
    rw [exec_zoneTableRead _ own doing active, validationRead_goesOn _ _ _ _ (by rw [done]; exact unfaulted)
      (by rw [done]; exact free)]
    dsimp only
    rw [zonesFound_passes (zonesDone_steady _ _) passes, done]
    rfl
  · rw [exec_correctionTableRead _ own doing active,
      validationRead_goesOn _ _ _ (s.readDone .correctionTable (.data bytes)) unfaulted free]
    dsimp only
    rw [tableFound_passes passes]
    rfl
  · intro t
    refine ⟨(readCorrections_some hs found).trans (if_pos on), settle_steady (Steady.refl t), fun unit rest => ?_⟩
    have k := settle_atRest t rest unit
    exact ⟨k.doing, k.active⟩
  · exact (readCorrections_some hs found).trans (if_neg off)

/-- Settles O35: the entry to LOADING of a measuring order, and of a MARK or SETTINGS order with its record. -/
theorem loadingStartsOrder : Obligations.LoadingStartsOrder := by
  refine ⟨fun s a measuring => ?_, fun s a kind format known short formed => ?_⟩
  · intro t
    obtain ⟨heads, cleared, each⟩ := clearCounters_spec (installTables a (s.loadingBegun a))
    have result : t = forHeads loadingWake (clearCounters (installTables a (s.loadingBegun a))) :=
      enterLoading_measuring measuring
    rw [installTables_eq] at cleared each result
    rw [result, cleared, forHeads_loadingWake]
    refine ⟨rfl, rfl, rfl, rfl, rfl, rfl, rfl, rfl, rfl, rfl, rfl, rfl, rfl, rfl, rfl, rfl, rfl, rfl, rfl, rfl, rfl,
      rfl, rfl, rfl, fun h => (each h).trans ?_, fun h => ⟨fun stands => ?_, fun c masked absent held down => ?_⟩⟩
    · change (if a.header.mask.get h = true then HeadQual.cleared ((PerHead.of _).get h) else (PerHead.of _).get h) = _
      simp only [get_of]
      by_cases masked : a.header.mask.get h = true
      · simp only [if_pos masked]
        rfl
      · simp only [if_neg masked]
        rfl
    · exact (get_of _ h).trans (loaded_stands stands)
    · refine (get_of _ h).trans ?_
      change (s.ports.get h).loaded (a.header.mask.get h) s.light.present s.xe.time = _
      rw [masked, absent, loaded_woken down held]
  · intro t begins
    let b := s.loadingBegun a
    have result : t = offerOrderBegin b := enterLoading_short known short
    have active : b.oe.active = some a := rfl
    have record : b.orderBeginRecord a = begins := orderBeginRecord_eq known formed
    by_cases room : s.sb.staged.length < 1024
    · let v := b.beginTaken a
      have staged : s.sb.staged ++ [⟨begins, a.header.tag⟩] = v.sb.staged :=
        record ▸ (beginTaken_staged (s := b) (a := a) room).symm
      have steady : Steady b (takeRecord (b.orderBeginRecord a) b) := beginTaken_taken
      have ports : v.ports = s.ports := takeRecord_ports _ b
      have unit : v.uc = s.uc := takeRecord_uc _ b
      have notFull : ¬1024 ≤ s.sb.staged.length := Nat.not_le.mpr room
      rcases short with rfl | rfl
      · have closes : t = enterClosing ⟨.complete, 0⟩ v := by
          rw [result, offerOrderBegin_mark active room known]
        have engine : t.oe = { b.begun with
            engine := .closing, endSlot := some ⟨.complete, 0⟩, stage := .drain, interrupting := false } :=
          closes ▸ enterClosing_begun (s := v) ⟨.complete, 0⟩ rfl
        have closed : Steady v t := closes ▸ enterClosing_steady _ (Steady.refl v)
        obtain ⟨_, _, _, _, _, _, _, same, _⟩ := enterClosing_spec ⟨.complete, 0⟩ v
        have same : t.uc = v.uc := closes ▸ same
        rw [engine]
        exact ⟨rfl, fun _ => rfl, rfl, rfl, rfl, rfl, rfl, same.trans unit, steady.bus.trans closed.bus,
          fun full => absurd full notFull, fun _ => ⟨staged ▸ closed.staged, rfl, rfl, fun _ => ⟨rfl, rfl⟩, nofun⟩⟩
      · have installs : t = forHeads (installReplacement a.header) v := by
          rw [result, offerOrderBegin_settings active room known]
        have done : Installing v t := installs ▸ forHeads_installing (installReplacement_installing a.header) v
        have each : ∀ h, Replaced a.header h v.light.present v.xe.time (v.ports.get h) (t.replaced h) := fun h =>
          installs ▸ forHeads_installReplacement (s := v) rfl h
        have light : v.light = s.light := takeRecord_light _ b
        have time : v.xe.time = s.xe.time := steady.time
        rw [light, time, ports] at each
        have idle : (∀ h, (s.ports.get h).inFlight = []) → t.oe.counts = .zero := fun empty =>
          (done.idle (ports ▸ empty)).1
        rw [done.order]
        refine ⟨rfl, idle, rfl, rfl, rfl, rfl, rfl, done.unit.trans unit, steady.bus.trans done.bus,
          fun full => absurd full notFull, fun _ => ⟨staged ▸ done.staged, rfl, rfl, nofun, fun _ => ⟨rfl, rfl,
            fun h => ?_⟩⟩⟩
        intro p new changed
        have wakes : changesWake p.config new = true ↔ changed := changesWake_iff p.config new
        have stays : ¬changed → changesWake p.config new = false := fun same =>
          Bool.eq_false_iff.mpr (mt wakes.mp same)
        refine ⟨(each h).unnamed, fun named same => (each h).same named (stays same), fun named change => ?_⟩
        obtain ⟨again, config⟩ := (each h).rewoken named (wakes.mpr change)
        exact ⟨again, config, (each h).awake named (wakes.mpr change), (each h).ready named (wakes.mpr change)⟩
    · have full : t = { b with oe := { b.oe with marker := some begins } } := by
        rw [result, offerOrderBegin_full active (Nat.not_lt.mp room), record]
      rw [full]
      exact ⟨rfl, fun _ => rfl, rfl, rfl, rfl, rfl, rfl, rfl, List.prefix_rfl, fun _ => ⟨rfl, rfl, rfl, rfl, rfl⟩,
        fun lt => absurd lt room⟩

/-- Settles O36: LOADING ends by the wakes outstanding, with the record, without a head, or with the SETTINGS order's
end. -/
theorem loadingEndsWithOrderBegin : Obligations.LoadingEndsWithOrderBegin := by
  intro s a kind format loading unmarked active known formed
  have running : s.oe.engine.running = true := by rw [loading]; rfl
  refine ⟨fun fresh measures => ?_, fun taken settings => ?_⟩
  · have measuring : a.header.kind = some .scan ∨ a.header.kind = some .calibrateReference :=
      known ▸ measures.imp (congrArg some) (congrArg some)
    have other : s.orderKind ≠ some .settings := by
      rw [orderKind_eq active]
      rcases measuring with k | k <;> rw [k] <;> decide
    have ended := loadingEnded_measuring loading unmarked active fresh measuring
    refine ⟨fun ⟨h, masked, waking⟩ => ?_, fun awake => ⟨fun working => ?_, fun none undecided unit => ?_⟩⟩
    · refine exec_loadingEnd_waits (Bool.eq_false_iff.mpr fun free => ?_)
      exact (noWakeOf_iff _).mp (ended ▸ free) h masked waking
    · intro begins oe matching matched
      have answer : exec .loadingEnd s = .next (settle (offerOrderBegin s)) := by
        rw [exec_loadingEnd (ended.trans ((noWakeOf_iff _).mpr awake)), endLoading_working active other working]
      have record : s.orderBeginRecord a = begins := orderBeginRecord_eq known formed
      refine ⟨fun room => ?_, fun full => by rw [answer, offerOrderBegin_full active full, record]⟩
      have steady : Steady s (offerOrderBegin s) := offerOrderBegin_steady other (Steady.refl s)
      have staged := record ▸ offerOrderBegin_staged active other room
      obtain ⟨v, starts, lines, result⟩ := offerOrderBegin_arming active measuring room
      refine ⟨_, answer, steady, settle_steady (Steady.refl _), staged, fun unchecked => ?_, fun c checked held => ?_⟩
      · have plain : offerOrderBegin s = endArming v := by rw [result, unchecked]; rfl
        have arming : ArmingEnded a.header oe s.sf s (offerOrderBegin s) := plain ▸ lines ▸ starts.ends active
        refine ⟨arming, fun scan noChecks quiet => ?_⟩
        obtain ⟨engine, passes, _, reference, _⟩ := arming.scan (known.trans (congrArg some scan))
        refine settle_quiet _ ?_ (fun starting => ?_) (fun h open_ => ?_) (.inr (.inr ?_))
        · rw [reference, noChecks]
          rfl
        · exact steady.unit.elim (fun same => quiet.unit (same ▸ starting)) fun both => quiet.unit both.1
        · rw [passes, quiet.series h] at open_
          cases open_
        · rw [engine]
      · have request : offerOrderBegin s = matchRequest v := by rw [result, checked]; rfl
        rw [request]
        refine ⟨matchRequest_matching starts lines active held, matchRequest_timedOut starts lines held,
          fun differs wait => ?_⟩
        rw [matchRequest_waits lines held differs wait]
        refine ⟨starts.engine, starts.passes, starts.lists, starts.reference, ?_⟩
        rw [onSpan_sf, lines, starts.time]
        rfl
    · obtain ⟨engine, slot, _⟩ := settle_ended ⟨.headsLost, 0⟩ s running undecided unit
      refine ⟨_, by rw [exec_loadingEnd (ended.trans ((noWakeOf_iff _).mpr awake)),
        endLoading_headsLost active other none], ?_, engine, slot⟩
      exact settle_steady (endCondition_steady _ (Steady.refl s))
  · have isSettings : a.header.kind = some .settings := known.trans (congrArg some settings)
    have ended := loadingEnded_settings loading unmarked active taken isSettings
    refine ⟨fun ⟨h, woken, waking⟩ => ?_, fun awake unit => ?_⟩
    · refine exec_loadingEnd_waits (Bool.eq_false_iff.mpr fun free => ?_)
      exact (noWakeOf_iff _).mp (ended ▸ free) h woken waking
    · obtain ⟨engine, slot, _, _, _, _, _, same, _⟩ := enterClosing_spec ⟨.complete, 0⟩ s
      have rests := settle_atRest (enterClosing ⟨.complete, 0⟩ s) (by rw [engine]; rfl) (by rw [same]; exact unit)
      refine ⟨_, by rw [exec_loadingEnd (ended.trans ((noWakeOf_iff _).mpr awake)),
        endLoading_settings ((orderKind_eq active).trans isSettings)], ?_, rests.engine.trans engine,
        rests.endSlot.trans slot⟩
      exact settle_steady (enterClosing_steady _ (Steady.refl s))

/-- Settles O37: what leaving LIGHT_WAIT does, by whether the wait interrupted the step and how often it was
restarted. -/
theorem lightWaitIsLeft : Obligations.LightWaitIsLeft := by
  intro s a waits unmarked active busy
  have absent : ¬busy → s.light.present = false := fun free => by simpa using (not_or.mp free).1
  have answer : ¬busy → exec .lightWaitDeparture s = .next (settle (departLightWait s)) := fun free =>
    exec_lightWaitDeparture waits unmarked active free
  refine ⟨exec_lightWaitDeparture_busy waits unmarked active, fun free plain => ?_,
    fun free interrupted few => ⟨fun room => ?_, fun full => ?_⟩, fun free interrupted spent undecided unit => ?_⟩
  · exact ⟨by rw [answer free, departLightWait_plain plain], enterAcquiring_engine (absent free),
      settle_steady (enterAcquiring_steady (Steady.refl s)), enterAcquiring_spec s a active,
      enterAcquiring_calibrate (absent free) active⟩
  · let v := takeRecord (.stepBegin (s.stepBeginRecord a true)) s
    have taken : Steady s v := takeRecord_steady _ (Steady.refl s)
    have staged : v.sb.staged = s.sb.staged ++ [⟨.stepBegin (s.stepBeginRecord a true), s.oe.activeTag⟩] :=
      takeRecord_room _ s (hasRoom_other _ s rfl room)
    refine ⟨restartTaken s.xe.time v, by rw [answer free, departLightWait_room active interrupted few room],
      restartTaken_steady _ taken, settle_steady (Steady.refl _), ?_, fun kind => ?_⟩
    · exact staged ▸ (restartTaken_steady s.xe.time (Steady.refl v)).staged
    · exact restartTaken_scan s.xe.time active kind (absent free) (takeRecord_oe _ s) (takeRecord_light _ s)
        (takeRecord_tg _ s) (takeRecord_rc _ s) (takeRecord_sf _ s) (takeRecord_qu _ s) (takeRecord_uc _ s)
  · rw [answer free, departLightWait_full active interrupted few full]
    rfl
  · have running : s.oe.engine.running = true := by rw [waits]; rfl
    obtain ⟨engine, slot, _⟩ := settle_ended ⟨.lightLost, 0⟩ s running undecided unit
    exact ⟨_, by rw [answer free, departLightWait_spent interrupted spent],
      settle_steady (endCondition_steady _ (Steady.refl s)), engine, slot⟩

/-- Settles O39: the entry to CLOSING at the first end condition, and no change at a later one. -/
theorem firstEndConditionDecides : Obligations.FirstEndConditionDecides := by
  intro s slot
  refine ⟨fun ⟨running, undecided⟩ => ?_, endCondition_decided slot⟩
  have steady : Steady s (endCondition slot s) := endCondition_steady slot (Steady.refl s)
  rw [endCondition_taken slot s running undecided] at steady ⊢
  obtain ⟨engine, ended, _, _, _, _, lines, _, lists, _, mode, heads⟩ := enterClosing_spec slot (emptyLists .idle s)
  refine ⟨engine, ended, steady, heads, ?_, ?_, ?_, mode, ?_, ?_, ?_⟩
  iterate 3 (rw [lists]; rfl)
  iterate 3 (rw [lines]; rfl)

/-- Settles O40: the records of stages 2 and 3 of CLOSING, and the terminal status after the completion. -/
theorem drainedOrderWritesItsEnd : Obligations.DrainedOrderWritesItsEnd := by
  intro s slot ended status pending
  have terminal : status = slot.reason.terminal := (terminal_eq slot.reason).symm
  refine ⟨fun ⟨closing, stage, unmarked, room, unheld, drained⟩ => ?_, fun waits => ?_, fun own doing => ⟨?_, ?_⟩⟩
  · obtain ⟨gaps, perm, engine, taken, staged⟩ := completeDrain_room room
    have free : s.referenceHeld = false :=
      Bool.eq_false_iff.mpr fun held => (referenceHeld_iff.mp held).elim fun h some => some (unheld h)
    have all : s.gapHeads.flatMap s.gapRecords = pending := gapHeads_records fun h => by
      unfold State.gapRecords
      cases (s.ports.get h).gap <;> cases (s.ports.get h).gapWaits <;> rfl
    refine ⟨_, gaps, exec_drainComplete closing stage unmarked (drained_iff.mpr drained) free,
      completeDrain_steady (Steady.refl s), by rw [engine], by rw [engine]; exact closing, all ▸ perm, taken, ?_⟩
    rw [staged, orderEndRecord_eq ended, terminal]
  · refine exec_drainComplete_waits (waits.elim (fun held => .inr (referenceHeld_iff.mpr held)) fun ⟨h, e, mem, open_,
      kind⟩ => .inl (Bool.eq_false_iff.mpr fun drained => ?_))
    exact (drained_iff.mp drained h e mem).elim (by simp [open_]) kind
  · have same : s.slot = slot := by rw [State.slot, ended]; rfl
    rw [exec_completionWritten own doing, terminal, same]
  · rw [terminal]
    cases slot.reason <;> rfl

/-- Settles O41: stage 7 of CLOSING, and then the first of the routes of R146 that applies. -/
theorem terminalStatusRoutesUnit : Obligations.TerminalStatusRoutesUnit := by
  intro s a block slot own doing active loaded chain endSlot unit
  have seven := orderEnded_stageSeven s
  have discarded : s.orderEnded.oe.active = none := by rw [seven.engine]
  have same : s.orderEnded.uc.unit = s.uc.unit := by rw [seven.unit]
  have ended : s.orderEnd.slot = slot := by simp [State.orderEnd, State.slot, endSlot]
  have held : s.orderEnd.block = block := by simp [State.orderEnd, State.block, chain]
  have continues : s.orderEnd.continueOnFail = a.header.flags.continueOnFail := by simp [State.orderEnd, active]
  have answer := exec_terminalStatusWritten_routed own doing
  rw [show s.slot = slot from ended] at answer
  cases fault : s.uc.fault with
  | some c =>
    have other : s.orderEnded.uc.unit ≠ .faulted := by rcases unit with e | e <;> rw [same, e] <;> decide
    rw [routeOrder_faulted (c := c) (by rw [seven.unit]; exact fault)] at answer
    obtain ⟨t, runs, registers, endSet, failSet, gone, idle, rest, _⟩ := answer (enterFaulted_routed c other)
    obtain ⟨faulted, cause, _⟩ := enterFaulted_spec c s.orderEnded other
    refine ⟨t, runs, registers, endSet, failSet, gone, idle, ?_⟩
    simp only [Option.isSome_some, if_true, rest.uc]
    exact ⟨faulted, cause⟩
  | none =>
    rw [routeOrder_loaded (by rw [seven.unit]; exact fault) loaded, ended, held, continues, same] at answer
    simp only [Option.isSome_none, Bool.false_eq_true, if_false]
    by_cases halting : s.uc.unit = .halting
    · rw [if_pos halting] at answer
      simp only [if_pos halting]
      obtain ⟨t, runs, registers, endSet, failSet, gone, idle, rest, _⟩ := answer (enterStopped_routed _)
      obtain ⟨stopped, stopping, _⟩ := enterStopped_spec s.orderEnded
      exact ⟨t, runs, registers, endSet, failSet, gone, idle, by rw [rest.uc]; exact ⟨stopped, stopping⟩⟩
    rw [if_neg halting] at answer
    simp only [if_neg halting]
    by_cases aborted : slot.reason = .abortCommand ∨ s.oe.abortMark = true
    · rw [if_pos (show slot.reason = .abortCommand ∨ s.orderEnd.abortMark = true from aborted)] at answer
      simp only [if_pos aborted]
      have k := hold_heldAt s.orderEnded .orderAborted block
      obtain ⟨t, runs, registers, endSet, failSet, gone, idle, rest, _⟩ := answer (k.routed discarded)
      exact ⟨t, runs, registers, endSet, failSet, gone, idle, (congrArg _ rest.uc).trans k.unit,
        rest.heldReason.trans k.heldReason, rest.heldPoint.trans k.heldPoint⟩
    rw [if_neg (show ¬(slot.reason = .abortCommand ∨ s.orderEnd.abortMark = true) from aborted)] at answer
    simp only [if_neg aborted]
    by_cases failed : slot.reason ≠ .complete ∧ a.header.flags.continueOnFail = false
    · rw [if_pos failed] at answer
      simp only [if_pos failed]
      have k := hold_heldAt s.orderEnded .orderFailed block
      obtain ⟨t, runs, registers, endSet, failSet, gone, idle, rest, _⟩ := answer (k.routed discarded)
      exact ⟨t, runs, registers, endSet, failSet, gone, idle, (congrArg _ rest.uc).trans k.unit,
        rest.heldReason.trans k.heldReason, rest.heldPoint.trans k.heldPoint⟩
    rw [if_neg failed] at answer
    simp only [if_neg failed]
    have running := unit.resolve_right halting
    obtain ⟨t, runs, registers, endSet, failSet, gone, idle, rest, bus⟩ :=
      answer (followLink_routed block discarded (by rw [same, running]; decide))
    obtain ⟨page, written, pageBus⟩ := seven.page
    refine ⟨t, runs, registers, endSet, failSet, gone, idle, ?_, rest.doing, page, written, ?_⟩
    · exact (congrArg UnitControl.unit rest.uc).trans (same.trans running)
    · rw [← pageBus]
      exact bus

end

section
/-! The capacities, the alignment of the base and the soundness of the writer, kept by every step and met at reset
(R48, R84, R151, R164, R165, R168, R169). -/

namespace Sys2Proof.Machine

section
variable {s t u : State}

/-- From `s` to `t` no capacity is passed that was kept before, a base that is aligned stays aligned, and a sound writer
stays sound. -/
structure KeepsSafe (s t : State) : Prop where
  buffer : bufferWithin s.sb.staged → bufferWithin t.sb.staged
  flights : flightsWithin s.ports → flightsWithin t.ports
  lists : listsWithin s.ru → listsWithin t.ru
  segments : segmentsWithin s.rw → segmentsWithin t.rw
  writer : WriterSound s.rw → WriterSound t.rw
  base : baseAligned s.xe.xbaseL → baseAligned t.xe.xbaseL

theorem Keeps.keepsSafe (keeps : Keeps 0 s t) : KeepsSafe s t :=
  ⟨keeps.buffer, keeps.flights, keeps.lists, keeps.segments, keeps.writer,
    fun aligned => keeps.xbaseL ▸ aligned⟩

/-- An event that touches the registers alone keeps them all, where it leaves the base aligned. -/
theorem KeepsSafe.ofRegisters (sb : t.sb = s.sb) (ports : t.ports = s.ports) (ru : t.ru = s.ru) (rw' : t.rw = s.rw)
    (base : baseAligned s.xe.xbaseL → baseAligned t.xe.xbaseL) : KeepsSafe s t :=
  ⟨fun h => by rwa [sb], fun h => by rwa [ports], fun h => by rwa [ru], fun h => by rwa [rw'], fun h => by rwa [rw'],
    base⟩

/-! ## The reset values -/

theorem listsWithin_reset : listsWithin Revisit.reset := by
  constructor <;> decide

theorem segmentsWithin_reset : segmentsWithin Writer.reset := Nat.zero_le _

theorem baseAligned_zero : baseAligned 0 := by
  unfold baseAligned
  decide

/-- Ports with empty lists are within their capacity. -/
theorem flightsWithin_empty {p : PerHead Port} (empty : ∀ h, (p.get h).inFlight = []) : flightsWithin p := by
  intro h
  rw [empty h]
  exact Nat.zero_le _

/-- With nothing in flight, no zone table and no order active the lists are sound. -/
theorem FlightsSound.empty (flights : ∀ h, (s.ports.get h).inFlight = []) (zones : s.tg.zones = none)
    (active : s.oe.active = none) (kinds : ∀ h, (s.tg.heads.get h).kindsFit) : FlightsSound s := by
  refine ⟨fun h => ?_, fun z e => ?_, fun _ a _ e => ?_, kinds⟩
  · rw [flights h]
    exact .nil
  · rw [zones] at e
    cases e
  · rw [active] at e
    cases e

theorem reset_flights (h : Head) : (State.reset.ports.get h).inFlight = [] := by
  cases h <;> rfl

/-! ## Every step keeps them -/

/-- The bits of XBASE_L that a write takes leave bits 11 to 0 at 0 (R169). -/
theorem baseAligned_masked (value : Word) : baseAligned (value &&& 0xFFFFF000) := by
  have low : (0xFFFFF000 : Word) &&& 0xFFF = 0 := by decide
  rw [baseAligned, BitVec.and_assoc, low]
  exact BitVec.and_zero

theorem execRegisterWrite_keepsSafe (offset : BitVec 12) (enables : BitVec 4) (value : Word)
    (answer : execRegisterWrite offset enables value s = .next t) : KeepsSafe s t := by
  unfold execRegisterWrite at answer
  cases answer
  repeat' split
  · exact .ofRegisters rfl rfl rfl rfl fun _ => baseAligned_masked value
  all_goals exact .ofRegisters rfl rfl rfl rfl id

/-- A cold reset empties every buffer and list, and clears the base (R179). -/
theorem coldReset_keepsSafe (levels : Levels) (s : State) : KeepsSafe s (coldReset levels s) := by
  obtain ⟨ports, _⟩ := coldReset_blocks levels s
  refine ⟨fun _ => bufferWithin_nil, fun _ => flightsWithin_empty fun h => ?_, fun _ => listsWithin_reset,
    fun _ => segmentsWithin_reset, fun _ => .reset, fun _ => baseAligned_zero⟩
  rw [ports, get_map]
  rfl

theorem exec_keepsSafe (c : Instr) (answer : exec c s = .next t) : KeepsSafe s t := by
  by_cases leaves : Instr.leavesRegisters c = true
  · exact (exec_keeps c leaves answer).keepsSafe
  · cases c with
    | registerWrite offset enables value => exact execRegisterWrite_keepsSafe offset enables value answer
    | noteEnWrite value =>
      cases answer
      exact .ofRegisters rfl rfl rfl rfl id
    | coldReset levels =>
      cases answer
      exact coldReset_keepsSafe levels s
    | _ => exact absurd rfl leaves

/-- Every step answers, on an empty queue with the Time Base counted alone. -/
theorem step_keepsSafe (s : State) : ∃ t, step s = .next t ∧ KeepsSafe s t := by
  unfold step
  split
  · exact ⟨_, rfl, .ofRegisters rfl rfl rfl rfl id⟩
  · rename_i c rest _
    obtain ⟨t, answer⟩ := exec_answers c { s with pending := rest }
    obtain ⟨buffer, flights, lists, segments, writer, base⟩ := exec_keepsSafe c answer
    exact ⟨t, answer, buffer, flights, lists, segments, writer, base⟩

end

end Sys2Proof.Machine
end

section
/-! What the Result Writer's operations do: groups begun and ended, the writer going on, a take going on (09.4). -/

namespace Sys2Proof.Machine

section
variable {s : State}

/-! ## Groups of accesses (R166) -/

/-- The bus after the end of the writer's group in progress. -/
def State.groupEnded (s : State) (kind : BusKind) : List BusEvent :=
  s.xe.bus ++ issuedAfter kind s.rw.rest ++ [.ended kind]

theorem endGroup_eq (kind : BusKind) (s : State) : endGroup kind s = { s with
    rw := { s.rw with rest := [] }
    xe := { s.xe with bus := s.groupEnded kind } } := rfl

theorem readEntry_eq (n left : Nat) (s : State) : readEntry n left s = { s with
    rw := { s.rw with
      doing := .entry, entry := n, left := left
      rest := [.read .segmentEntry (entryAddr s.xbase n + 8) 12] }
    xe := { s.xe with bus := s.xe.bus ++ [.read .segmentEntry (entryAddr s.xbase n) 1] } } := rfl

theorem beginClose_eq (reason : CloseReason) (g : Segment) (s : State) : beginClose reason g s = { s with
    rw := { s.rw with
      phase := .closingSegment, doing := .full reason
      rest := ((closeWrites s.xbase g reason).map fun w => BusEvent.write .full [w]).drop 1 }
    xe := { s.xe with
      bus := s.xe.bus ++ ((closeWrites s.xbase g reason).map fun w => BusEvent.write .full [w]).take 1 } } := rfl

/-! ## The writer going on (R160, R162) -/

theorem writerNext_empty (empty : s.sb.staged = []) :
    writerNext s = { s with rw := { s.rw with phase := .idle, doing := .none } } := by
  rw [writerNext, empty]

section
variable {x : Staged} {rest : List Staged} {g : Segment} (staged : s.sb.staged = x :: rest)
include staged

theorem writerNext_take (free : s.rw.filling = none) : writerNext s = { s with
    rw := { s.rw with
      phase := .taking, recheck := false, doing := .entry, entry := s.rw.cursor, left := 64
      rest := [.read .segmentEntry (entryAddr s.xbase s.rw.cursor + 8) 12] }
    xe := { s.xe with bus := s.xe.bus ++ [.read .segmentEntry (entryAddr s.xbase s.rw.cursor) 1] } } := by
  rw [writerNext, staged, free]
  rfl

theorem writerNext_record (filling : s.rw.filling = some g) (fits : g.fill + x.record.length ≤ g.length) :
    writerNext s = { s with
      rw := { s.rw with phase := .writing, doing := .record, rest := [] }
      xe := { s.xe with
        bus := s.xe.bus ++ [.write .record [⟨g.address + BitVec.ofNat 64 g.fill, x.record.bytes⟩]] } } := by
  rw [writerNext, staged, filling]
  exact if_pos fits

theorem writerNext_close (filling : s.rw.filling = some g) (full : g.length < g.fill + x.record.length) :
    writerNext s = beginClose .length g s := by
  rw [writerNext, staged, filling]
  exact if_neg (Nat.not_le.mpr full)

end

/-- Going on changes the writer's phase and access and the bus alone. -/
structure WriterGoesOn (s t : State) : Prop where
  only : t = { s with rw := t.rw, xe := { s.xe with bus := t.xe.bus } }
  filling : t.rw.filling = s.rw.filling
  cursor : t.rw.cursor = s.rw.cursor
  segments : t.rw.segments = s.rw.segments
  overflow : t.rw.overflow = s.rw.overflow
  target : t.rw.target = s.rw.target
  recheck : s.rw.recheck = false → t.rw.recheck = false
  bus : s.xe.bus <+: t.xe.bus

theorem writerNext_goesOn (s : State) : WriterGoesOn s (writerNext s) := by
  cases staged : s.sb.staged with
  | nil =>
    rw [writerNext_empty staged]
    exact ⟨rfl, rfl, rfl, rfl, rfl, rfl, id, List.prefix_rfl⟩
  | cons x rest =>
    cases filling : s.rw.filling with
    | none =>
      rw [writerNext_take staged filling]
      exact ⟨rfl, rfl, rfl, rfl, rfl, rfl, fun _ => rfl, List.prefix_append _ _⟩
    | some g =>
      rcases Nat.lt_or_ge g.length (g.fill + x.record.length) with full | fits
      · rw [writerNext_close staged filling full, beginClose_eq]
        exact ⟨rfl, rfl, rfl, rfl, rfl, rfl, id, List.prefix_append _ _⟩
      · rw [writerNext_record staged filling fits]
        exact ⟨rfl, rfl, rfl, rfl, rfl, rfl, id, List.prefix_append _ _⟩

theorem WriterGoesOn.blocks {t : State} (on : WriterGoesOn s t) :
    t.sb = s.sb ∧ t.oe = s.oe ∧ SameRegisters s t ∧ ∀ n, t.notice n = s.notice n := by
  obtain ⟨only, _⟩ := on
  rw [only]
  exact ⟨rfl, rfl, ⟨rfl, rfl, rfl, rfl, rfl, rfl, rfl⟩, fun _ => rfl⟩

/-! ## A take going on, or failing (R160, R161; log 54) -/

/-- The take ends without a usable entry, before the recheck that may follow. -/
def State.starved (s : State) : State :=
  let t := if s.rw.phase = .starved then s else setNotice .segStarved s
  { t with rw := { t.rw with phase := .starved, doing := .none } }

theorem starved_only (s : State) : ∃ raw, s.starved = { s with
    rw := { s.rw with phase := .starved, doing := .none }
    xe := { s.xe with noteRaw := raw } } := by
  unfold State.starved
  split <;> exact ⟨_, rfl⟩

/-- SEG_STARVED is set at the entry to STARVED alone. -/
theorem starved_notice (entered : s.rw.phase ≠ .starved) : s.starved.notice .segStarved = true := by
  unfold State.starved
  rw [if_neg entered]
  exact setNotice_notice .segStarved .segStarved s (.inr rfl)

theorem starved_notices {n : Notice} (set : s.notice n = true) : s.starved.notice n = true := by
  unfold State.starved
  split
  · exact set
  · exact setNotice_notice .segStarved n s (.inl set)

theorem starved_rw (s : State) : s.starved.rw = { s.rw with phase := .starved, doing := .none } := by
  obtain ⟨_, only⟩ := starved_only s
  rw [only]

theorem starved_bus (s : State) : s.starved.xe.bus = s.xe.bus := by
  obtain ⟨_, only⟩ := starved_only s
  rw [only]

theorem takeFailed_plain (none : s.rw.recheck = false) : takeFailed s = s.starved := by
  have same : s.starved.rw.recheck = false := by rw [starved_rw]; exact none
  exact if_neg (ne_true_of_eq_false same)

/-- A recheck kept pending is made at once, the phase STARVED (R161). -/
theorem takeFailed_again (pending : s.rw.recheck = true) : takeFailed s = { s.starved with
    rw := { s.rw with
      phase := .starved, doing := .entry, entry := s.rw.cursor, left := 64, recheck := false
      rest := [.read .segmentEntry (entryAddr s.xbase s.rw.cursor + 8) 12] }
    xe := { s.starved.xe with
      bus := s.xe.bus ++ [.read .segmentEntry (entryAddr s.xbase s.rw.cursor) 1] } } := by
  have same : s.starved.rw.recheck = true := by rw [starved_rw]; exact pending
  have begun : takeFailed s = beginRecheck s.starved := if_pos same
  obtain ⟨_, only⟩ := starved_only s
  rw [begun, only]
  rfl

/-- A failed take leaves the phase STARVED, and the cursor, the buffer and the engine as they stand. -/
structure TakeFailed (s t : State) : Prop where
  phase : t.rw.phase = .starved
  cursor : t.rw.cursor = s.rw.cursor
  starved : s.rw.phase ≠ .starved → t.notice .segStarved = true
  notices : ∀ n, s.notice n = true → t.notice n = true
  bus : s.xe.bus <+: t.xe.bus
  sb : t.sb = s.sb
  oe : t.oe = s.oe
  registers : SameRegisters s t

theorem starved_takeFailed (s : State) : TakeFailed s s.starved := by
  refine ⟨?_, ?_, starved_notice, fun _ => starved_notices, ?_, ?_, ?_, ?_⟩ <;> obtain ⟨_, only⟩ := starved_only s <;>
    rw [only]
  exact ⟨rfl, rfl, rfl, rfl, rfl, rfl, rfl⟩

theorem takeFailed_spec (s : State) : TakeFailed s (takeFailed s) := by
  have failed := starved_takeFailed s
  cases pending : s.rw.recheck with
  | false =>
    rw [takeFailed_plain pending]
    exact failed
  | true =>
    rw [takeFailed_again pending]
    obtain ⟨_, _, starved, notices, _, sb, oe, registers⟩ := failed
    obtain ⟨xbaseL, xbaseH, ucmdCode, ucmdResult, noteEn, time, queue⟩ := registers
    exact ⟨rfl, rfl, starved, notices, List.prefix_append _ _, sb, oe, xbaseL, xbaseH, ucmdCode, ucmdResult, noteEn,
      time, queue⟩

theorem nextEntry_more (more : 2 ≤ s.rw.left) :
    nextEntry s = readEntry ((s.rw.entry + 1) % 64) (s.rw.left - 1) s := if_neg (Nat.not_le.mpr more)

theorem nextEntry_last (last : s.rw.left ≤ 1) : nextEntry s = takeFailed s := if_pos last

end

end Sys2Proof.Machine
end

section
/-! The ends of a take's accesses (R159, R160, R161). -/

namespace Sys2Proof.Machine

section
variable {s : State} {e : SegmentEntry} {g : Segment}

theorem offered_iff : e.offered = true ↔ e.state = 1 := by simp [SegmentEntry.offered]

theorem usable_iff : e.usable = true ↔ e.address.toNat % 8 = 0 ∧ e.address ≠ 0 ∧ 4096 ≤ e.length
    ∧ e.length ≤ 1048576 ∧ e.length % 4096 = 0 := by
  simp only [SegmentEntry.usable, Bool.and_eq_true, bne_iff_ne, beq_iff_eq, decide_eq_true_eq]
  tauto

theorem exec_segmentEntryRead (bytes : List Byte) (own : s.isStray .segmentEntry = false)
    (doing : s.rw.doing = .entry) :
    exec (.segmentEntryRead bytes) s = .next (entryRead (readSegmentEntry bytes) s) := by
  change execSegmentEntryRead bytes s = _
  rw [execSegmentEntryRead, own, if_neg Bool.false_ne_true, if_pos doing]

/-- The state after the read of an entry's state alone: its address and length have not been read (R159). -/
def State.stateRead (s : State) : State := { s with
  rw := { s.rw with rest := [] }
  xe := { s.xe with bus := s.xe.bus ++ [.ended .segmentEntry] } }

theorem entryRead_other (other : e.state ≠ 1) (s : State) : entryRead e s = nextEntry s.stateRead := by
  have unoffered : (!e.offered) = true := by simp [SegmentEntry.offered, other]
  have alone : endGroup .segmentEntry { s with rw := { s.rw with rest := [] } } = s.stateRead := by
    simp [endGroup_eq, State.groupEnded, issuedAfter, State.stateRead]
  rw [entryRead, if_pos unoffered, alone]

theorem entryRead_usable (offered : e.state = 1) (usable : e.usable = true) (s : State) :
    entryRead e s = takeEntry e (endGroup .segmentEntry s) := by
  rw [entryRead, offered_iff.mpr offered, if_neg (by decide), if_pos usable]

theorem entryRead_unusable (offered : e.state = 1) (unusable : e.usable = false) (s : State) :
    entryRead e s = closeFault (endGroup .segmentEntry s) := by
  rw [entryRead, offered_iff.mpr offered, if_neg (by decide), if_neg (ne_true_of_eq_false unusable)]

/-- A take's writes ended: the segment is FILLING, and the cursor stands after it (R160; log 41). -/
def State.segmentTaken (s : State) (g : Segment) : State := { s with
  rw := { s.rw with
    phase := .writing, doing := .none, filling := some g, target := none, recheck := false
    cursor := (g.index + 1) % 64, rest := [] }
  xe := { s.xe with bus := s.groupEnded .take } }

theorem exec_segmentTakeWritten (own : s.isStray .take = false) (doing : s.rw.doing = .take)
    (target : s.rw.target = some g) : exec .segmentTakeWritten s = .next (writerNext (s.segmentTaken g)) := by
  change execSegmentTakeWritten s = _
  rw [execSegmentTakeWritten, own, if_neg Bool.false_ne_true, doing, target]
  rfl

theorem stateRead_registers (s : State) : SameRegisters s s.stateRead := ⟨rfl, rfl, rfl, rfl, rfl, rfl, rfl⟩

theorem segmentTaken_registers (s : State) (g : Segment) : SameRegisters s (s.segmentTaken g) :=
  ⟨rfl, rfl, rfl, rfl, rfl, rfl, rfl⟩

end

end Sys2Proof.Machine
end

section
/-! The end of a close (R164), and what follows it (R160, R162, R145). -/

namespace Sys2Proof.Machine

section
variable {s : State} {reason : CloseReason}

/-- The completion of an entry to STOPPED changes unit control alone. -/
theorem settleStopped_only (s : State) : ∃ uc, settleStopped s = { s with uc := uc } := by
  unfold settleStopped
  split <;> exact ⟨_, rfl⟩

/-- A close written: its group ended, and SEG_FULL set (R164). -/
def State.fullEnded (s : State) : State := setNotice .segFull (endGroup .full s)

theorem fullEnded_notice (s : State) : s.fullEnded.notice .segFull = true :=
  setNotice_notice .segFull .segFull (endGroup .full s) (.inr rfl)

theorem fullEnded_registers (s : State) : SameRegisters s s.fullEnded := ⟨rfl, rfl, rfl, rfl, rfl, rfl, rfl⟩

theorem exec_fullWritten (own : s.isStray .full = false) (doing : s.rw.doing = .full reason) :
    ∃ uc, exec .fullWritten s = .next { afterClose reason s.fullEnded with uc := uc } := by
  have answer : exec .fullWritten s = .next (settleStopped (afterClose reason s.fullEnded)) := by
    change execFullWritten s = _
    rw [execFullWritten, own, if_neg Bool.false_ne_true, doing]
    rfl
  obtain ⟨uc, e⟩ := settleStopped_only (afterClose reason s.fullEnded)
  exact ⟨uc, by rw [answer, e]⟩

/-- From `s` to `t`, what the end of a close leaves: the notices set, the buffer, the registers and the accesses so
far. -/
structure CloseStands (s t : State) : Prop where
  notices : ∀ n, s.notice n = true → t.notice n = true
  sb : t.sb = s.sb
  registers : SameRegisters s t
  bus : s.xe.bus <+: t.xe.bus

/-! ## A close of the FILLING segment -/

/-- The writer with its segment given up. -/
def State.segmentFreed (s : State) : State := { s with rw := { s.rw with doing := .none, filling := none } }

/-- The writer goes on without a segment, in stage 5 of CLOSING after the completion writes have begun (R145). -/
theorem afterClose_filled (filled : reason ≠ .fault) : ∃ v, afterClose reason s = writerNext v
    ∧ v.rw = { s.rw with doing := .none, filling := none } ∧ CloseStands s v
    ∧ (reason = .orderEnd → s.oe.engine = .closing → s.oe.stage = .segment →
      v.oe.stage = .completion ∧ v.oe.doing = .completion) := by
  have freed : CloseStands s s.segmentFreed := ⟨fun _ => id, rfl, ⟨rfl, rfl, rfl, rfl, rfl, rfl, rfl⟩, List.prefix_rfl⟩
  cases reason with
  | fault => exact absurd rfl filled
  | length | stop => exact ⟨s.segmentFreed, rfl, rfl, freed, nofun⟩
  | orderEnd =>
    by_cases last : s.oe.engine = .closing ∧ s.oe.stage = .segment
    · exact ⟨beginCompletion s.segmentFreed, if_pos last, rfl,
        ⟨fun _ => id, rfl, ⟨rfl, rfl, rfl, rfl, rfl, rfl, rfl⟩, List.prefix_append _ _⟩, fun _ _ _ => ⟨rfl, rfl⟩⟩
    · exact ⟨s.segmentFreed, if_neg last, rfl, freed, fun _ closing stage => absurd ⟨closing, stage⟩ last⟩

theorem WriterGoesOn.closeStands {t : State} (on : WriterGoesOn s t) : CloseStands s t := by
  obtain ⟨sb, _, registers, notices⟩ := on.blocks
  exact ⟨fun n set => (notices n).trans set, sb, registers, on.bus⟩

theorem CloseStands.trans {b t : State} (first : CloseStands b s) (next : CloseStands s t) : CloseStands b t :=
  ⟨fun n set => next.notices n (first.notices n set), next.sb.trans first.sb, first.registers.trans next.registers,
    first.bus.trans next.bus⟩

/-! ## A close with FAULT -/

/-- After a close with FAULT the cursor stands past the entry (R160). -/
def State.faultClosed (s : State) : State :=
  { s with rw := { s.rw with doing := .none, cursor := (s.rw.entry + 1) % 64 } }

theorem afterClose_fault (s : State) : afterClose .fault s = nextEntry s.faultClosed := rfl

theorem faultClosed_stands (s : State) : CloseStands s s.faultClosed :=
  ⟨fun _ => id, rfl, ⟨rfl, rfl, rfl, rfl, rfl, rfl, rfl⟩, List.prefix_rfl⟩

theorem TakeFailed.closeStands {t : State} (failed : TakeFailed s t) : CloseStands s t :=
  ⟨failed.notices, failed.sb, failed.registers, failed.bus⟩

theorem readEntry_closeStands (n left : Nat) (s : State) : CloseStands s (readEntry n left s) :=
  ⟨fun _ => id, rfl, ⟨rfl, rfl, rfl, rfl, rfl, rfl, rfl⟩, List.prefix_append _ _⟩

theorem nextEntry_stands (s : State) : CloseStands s (nextEntry s) ∧ (nextEntry s).rw.cursor = s.rw.cursor := by
  rcases Nat.lt_or_ge 1 s.rw.left with more | last
  · rw [nextEntry_more more]
    exact ⟨readEntry_closeStands _ _ s, rfl⟩
  · rw [nextEntry_last last]
    exact ⟨(takeFailed_spec s).closeStands, (takeFailed_spec s).cursor⟩

/-- For every reason the buffer, the registers and the accesses so far stand. -/
theorem afterClose_stands (reason : CloseReason) (s : State) : CloseStands s (afterClose reason s) := by
  by_cases fault : reason = .fault
  · rw [fault, afterClose_fault]
    exact (faultClosed_stands s).trans (nextEntry_stands _).1
  · obtain ⟨v, e, _, stands, _⟩ := afterClose_filled (s := s) fault
    rw [e]
    exact stands.trans (writerNext_goesOn v).closeStands

end

end Sys2Proof.Machine
end

section
/-! What every grant leaves of the result stream, and the grants of a freed entry (R153, R156, R106, R95, R134). -/

namespace Sys2Proof.Machine

/-! ## The result stream stands -/

section
variable {b s t : State} {h : Head}

/-- From `s` to `t` staged records and bus accesses are only added, and the FILLING segment, the order's segment list
and the registers stand. -/
structure StreamStands (s t : State) : Prop where
  staged : s.sb.staged <+: t.sb.staged
  filling : t.rw.filling = s.rw.filling
  segments : t.rw.segments = s.rw.segments
  overflow : t.rw.overflow = s.rw.overflow
  bus : s.xe.bus <+: t.xe.bus
  registers : SameRegisters s t

theorem Steady.stream (k : Steady s t) : StreamStands s t :=
  ⟨k.staged, k.filling, k.segments, k.overflow, k.bus, k.registers⟩

theorem StreamStands.refl (s : State) : StreamStands s s := (Steady.refl s).stream

theorem StreamStands.trans (first : StreamStands b s) (next : StreamStands s t) : StreamStands b t :=
  ⟨first.staged.trans next.staged, next.filling.trans first.filling, next.segments.trans first.segments,
    next.overflow.trans first.overflow, first.bus.trans next.bus, first.registers.trans next.registers⟩

/-- A change outside the buffer, the writer, the bus and the registers. -/
theorem StreamStands.same (sb : t.sb = s.sb) (rw' : t.rw = s.rw) (xe : t.xe = s.xe) (pending : t.pending = s.pending) :
    StreamStands s t := by
  refine ⟨?_, ?_, ?_, ?_, ?_, ⟨?_, ?_, ?_, ?_, ?_, ?_, pending⟩⟩ <;> simp only [sb, rw', xe, List.prefix_rfl]

theorem WriterGoesOn.stream (on : WriterGoesOn s t) : StreamStands s t := by
  obtain ⟨sb, _, registers, _⟩ := on.blocks
  exact ⟨by rw [sb], on.filling, on.segments, on.overflow, on.bus, registers⟩

theorem forHeads_stream {f : Head → State → State} (each : ∀ h s, StreamStands s (f h s)) (s : State) :
    StreamStands s (forHeads f s) :=
  (each .h0 s).trans ((each .h1 _).trans ((each .h2 _).trans (each .h3 _)))

theorem onPort_stream (f : Port → Port) : StreamStands s (s.onPort h f) := .same rfl rfl rfl rfl

theorem wakeHead_stream (h : Head) (s : State) : StreamStands s (wakeHead h s) := by
  rcases wakeHead_cases h s with e | ⟨f, _, e | e⟩ <;> rw [e]
  · exact .refl s
  · exact onPort_stream f
  · have left : StreamStands (s.onPort h fun p => { p with inFlight := [] }) (leaveReady h false s) :=
      (leaveReady_steady h false (Steady.refl _)).stream
    exact ((onPort_stream _).trans left).trans (onPort_stream f)

theorem installReplacement_stream (hd : OrderHeader) (h : Head) (s : State) :
    StreamStands s (installReplacement hd h s) := by
  rcases installReplacement_cases hd h s with e | e | e <;> rw [e]
  · exact .refl s
  · exact onPort_stream _
  · have named : StreamStands s ((s.installed hd h).wokenAgain h) := .same rfl rfl rfl rfl
    exact named.trans (wakeHead_stream h _)

end

/-! ## A held marker taken (R134, R137, R139, R141, R145) -/

section
variable {s : State}

theorem orderBeginTaken_settings {a : ActiveOrder} (active : s.oe.active = some a)
    (kind : a.header.kind = some .settings) : orderBeginTaken s
      = forHeads (installReplacement a.header) (s.onOrder fun o => { o with marker := none, beginTaken := true }) := by
  rw [orderBeginTaken]
  simp only [onOrder_oe, active, kind]

theorem orderBeginTaken_stream (s : State) : StreamStands s (orderBeginTaken s) := by
  by_cases settings : s.orderKind = some .settings
  · obtain ⟨a, active, kind⟩ := Option.bind_eq_some_iff.mp settings
    rw [orderBeginTaken_settings active kind]
    have taken : StreamStands s (s.onOrder fun o => { o with marker := none, beginTaken := true }) :=
      .same rfl rfl rfl rfl
    exact taken.trans (forHeads_stream (installReplacement_stream a.header) _)
  · exact (orderBeginTaken_steady settings (Steady.refl s)).stream

/-- Only the ORDER-begin record of a SETTINGS order in LOADING installs records of heads. -/
theorem markerTaken_steady {b : State} {r : Record}
    (plain : s.orderKind ≠ some .settings ∨ s.oe.engine = .closing ∨ ∀ x, r ≠ .orderBegin x) (k : Steady b s) :
    Steady b (markerTaken r s) := by
  cases r with
  | orderBegin x =>
    unfold markerTaken
    dsimp only
    split
    · exact onOrder_steady _ rfl k
    · rename_i loading
      exact orderBeginTaken_steady (plain.resolve_right (by simp [loading])) k
  | orderEnd x => exact onOrder_steady (fun o => { o with marker := none, stage := .records }) rfl k
  | stepBegin x => exact ite_steady (restartTaken_steady x.time k) (stepBeginTaken_steady x.time k)
  | stepEnd x => exact stepEndTaken_steady k
  | sample x | gap x | reference x => exact k

theorem markerTaken_stream (r : Record) (s : State) : StreamStands s (markerTaken r s) := by
  by_cases begins : ∃ x, r = .orderBegin x
  · obtain ⟨x, rfl⟩ := begins
    unfold markerTaken
    dsimp only
    split
    · exact .same rfl rfl rfl rfl
    · exact orderBeginTaken_stream s
  · exact (markerTaken_steady (.inr (.inr fun x e => begins ⟨x, e⟩)) (Steady.refl s)).stream

end

/-! ## The producers to which a freed entry can go (R153) -/

section
variable {s : State} {h : Head} {p : Producer}

theorem waits_iff (p : Port) : p.waits = true
    ↔ (p.gapWaits = true ∧ p.gap ≠ none) ∨ p.heldSuspended ≠ none ∨ p.heldHeadLost ≠ none := by
  simp only [Port.waits, Bool.or_eq_true, Bool.and_eq_true, Option.isSome_iff_ne_none, or_assoc]

/-- While a port waits, the next freed entry goes to a port that waits (R156). -/
theorem mem_grantable_waiting (waiting : ∃ h, (s.ports.get h).waits = true) :
    p ∈ s.grantable ↔ ∃ h, (s.ports.get h).waits = true ∧ p = .port h := by
  obtain ⟨h, waits⟩ := waiting
  unfold State.grantable
  split
  · rename_i none
    exact absurd (List.mem_filter.mpr ⟨mem_all h, waits⟩) (by rw [none]; exact List.not_mem_nil)
  · rename_i hs _
    simp only [List.mem_map, List.mem_filter, mem_all, true_and, eq_comm]

/-- With no port waiting it goes to another producer that waits (R153). -/
theorem mem_grantable_free (free : ∀ h, (s.ports.get h).waits = false) :
    p ∈ s.grantable ↔ (p = .referenceCheck ∧ ∃ h, (s.rc.heads.get h).held ≠ none)
      ∨ (p = .revisit ∧ s.ru.held ≠ none) ∨ (p = .orderEngine ∧ s.oe.marker ≠ none) := by
  have none : Head.all.filter (fun h => (s.ports.get h).waits) = [] :=
    List.filter_eq_nil_iff.mpr fun h _ => ne_true_of_eq_false (free h)
  rw [State.grantable, none, ← referenceHeld_iff, ← Option.isSome_iff_ne_none, ← Option.isSome_iff_ne_none]
  cases s.referenceHeld <;> cases s.ru.held.isSome <;> cases s.oe.marker.isSome <;> simp

theorem not_mem_grantable_port (idle : (s.ports.get h).waits = false) : .port h ∉ s.grantable := by
  intro mem
  by_cases waiting : ∃ k, (s.ports.get k).waits = true
  · obtain ⟨k, waits, e⟩ := (mem_grantable_waiting waiting).mp mem
    cases e
    rw [idle] at waits
    cases waits
  · have free : ∀ k, (s.ports.get k).waits = false := fun k => Bool.eq_false_iff.mpr fun w => waiting ⟨k, w⟩
    rcases (mem_grantable_free free).mp mem with ⟨e, _⟩ | ⟨e, _⟩ | ⟨e, _⟩ <;> cases e

/-- While a port waits no other producer is granted an entry. -/
theorem not_mem_grantable_other (waiting : ∃ h, (s.ports.get h).waits = true) (other : ∀ h, p ≠ .port h) :
    p ∉ s.grantable := fun mem => by
  obtain ⟨h, _, e⟩ := (mem_grantable_waiting waiting).mp mem
  exact other h e

/-- A producer other than a port is granted no entry without a record that it holds. -/
theorem not_mem_grantable_unheld (other : ∀ h, p ≠ .port h)
    (reference : p = .referenceCheck → ∀ h, (s.rc.heads.get h).held = none)
    (revisit : p = .revisit → s.ru.held = none) (engine : p = .orderEngine → s.oe.marker = none) :
    p ∉ s.grantable := by
  intro mem
  by_cases waiting : ∃ h, (s.ports.get h).waits = true
  · exact not_mem_grantable_other waiting other mem
  · have free : ∀ h, (s.ports.get h).waits = false := fun h => Bool.eq_false_iff.mpr fun w => waiting ⟨h, w⟩
    rcases (mem_grantable_free free).mp mem with ⟨e, h, held⟩ | ⟨e, held⟩ | ⟨e, held⟩
    · exact held (reference e h)
    · exact held (revisit e)
    · exact held (engine e)

end

/-! ## A granted entry taken (R153, R156) -/

section
variable {s : State} {h : Head} {p : Producer} {r : GapRecord}

theorem exec_entryGrant (room : s.sb.staged.length < 1024) (waits : p ∈ s.grantable) :
    exec (.entryGrant p) s = .next (settle (grantTo p s)) :=
  congrArg Host.Outcome.next
    (if_pos (Bool.and_eq_true_iff.mpr ⟨decide_eq_true room, List.contains_iff_mem.mpr waits⟩))

theorem exec_entryGrant_full (full : 1024 ≤ s.sb.staged.length) : exec (.entryGrant p) s = .next s := by
  have none : s.entryFree = false := decide_eq_false (Nat.not_lt.mpr full)
  exact congrArg Host.Outcome.next (if_neg (by simp [none]))

theorem exec_entryGrant_not (idle : p ∉ s.grantable) : exec (.entryGrant p) s = .next s :=
  congrArg Host.Outcome.next (if_neg (by simp [idle]))

/-- From `s` to `t` a record of a producer is taken, and the part goes on by steps that are no grant. -/
structure RecordGranted (r : Record) (s t : State) : Prop where
  steady : Steady s t
  staged : s.sb.staged ++ [⟨r, s.oe.activeTag⟩] <+: t.sb.staged

/-- A record for which there is room is taken after a change that leaves the buffer and the tag. -/
theorem takeRecord_granted {u : State} (r : Record) (other : r.isSample = false) (room : s.sb.staged.length < 1024)
    (steady : Steady s u) (sb : u.sb = s.sb) : RecordGranted r s (takeRecord r u) := by
  refine ⟨takeRecord_steady _ steady, ?_⟩
  rw [takeRecord_room _ u (hasRoom_other r u other (by rw [sb]; exact room)), sb, steady.activeTag]

theorem RecordGranted.goesOn {r : Record} {t u : State} (granted : RecordGranted r s t) (steady : Steady t u)
    (whole : Steady s u) : RecordGranted r s u := ⟨whole, granted.staged.trans steady.staged⟩

/-- Until the steps at the end of the event. -/
theorem RecordGranted.settled {r : Record} {t : State} (granted : RecordGranted r s t) :
    RecordGranted r s (settle t) := granted.goesOn (settle_steady (Steady.refl t)) (settle_steady granted.steady)

/-- The gap that a port offers to a freed entry: its pending gap where it waits (R156). -/
theorem grantPort_gap {g : PendingGap} (waits : (s.ports.get h).gapWaits = true) (gap : (s.ports.get h).gap = some g) :
    grantPort h s = takeGap h g s := by
  rw [grantPort]
  simp only [waits, gap, if_true]

section
variable (quiet : (s.ports.get h).gapWaits = false ∨ (s.ports.get h).gap = none)
include quiet

theorem noGap_waits : (if (s.ports.get h).gapWaits then (s.ports.get h).gap else none) = none := by
  rcases quiet with e | e <;> simp [e]

theorem grantPort_suspended (held : (s.ports.get h).heldSuspended = some r) : grantPort h s
    = takeRecord (.gap r) (s.onPort h fun p => { p with heldSuspended := none }) := by
  rw [grantPort]
  simp only [noGap_waits quiet, held]

theorem grantPort_headLost (unheld : (s.ports.get h).heldSuspended = none)
    (held : (s.ports.get h).heldHeadLost = some r) : grantPort h s
      = takeRecord (.gap r) (s.onPort h fun p => { p with heldHeadLost := none }) := by
  rw [grantPort]
  simp only [noGap_waits quiet, unheld, held]

end

/-- What a port holds for the buffer is no part of its link. -/
theorem portRecord_granted {f : Port → Port} (room : s.sb.staged.length < 1024) (link : ∀ p, SameLink p (f p)) :
    RecordGranted (.gap r) s (takeRecord (.gap r) (s.onPort h f)) :=
  takeRecord_granted _ rfl room (onPort_steady h f link (Steady.refl s)) rfl

theorem grantPort_gap_granted {g : PendingGap} (room : s.sb.staged.length < 1024)
    (waits : (s.ports.get h).gapWaits = true) (gap : (s.ports.get h).gap = some g) :
    RecordGranted (.gap (g.record h)) s (grantPort h s) := by
  rw [grantPort_gap waits gap]
  exact portRecord_granted room fun _ => ⟨rfl, rfl, rfl, rfl, rfl, rfl, rfl, rfl, rfl, rfl⟩

theorem grantPort_suspended_granted (room : s.sb.staged.length < 1024)
    (quiet : (s.ports.get h).gapWaits = false ∨ (s.ports.get h).gap = none)
    (held : (s.ports.get h).heldSuspended = some r) : RecordGranted (.gap r) s (grantPort h s) := by
  rw [grantPort_suspended quiet held]
  exact portRecord_granted room fun _ => ⟨rfl, rfl, rfl, rfl, rfl, rfl, rfl, rfl, rfl, rfl⟩

theorem grantPort_headLost_granted (room : s.sb.staged.length < 1024)
    (quiet : (s.ports.get h).gapWaits = false ∨ (s.ports.get h).gap = none)
    (unheld : (s.ports.get h).heldSuspended = none) (held : (s.ports.get h).heldHeadLost = some r) :
    RecordGranted (.gap r) s (grantPort h s) := by
  rw [grantPort_headLost quiet unheld held]
  exact portRecord_granted room fun _ => ⟨rfl, rfl, rfl, rfl, rfl, rfl, rfl, rfl, rfl, rfl⟩

/-- A held UNRESOLVED record taken, and step close going on with the entries after its own (R95). -/
theorem grantTo_revisit_granted (room : s.sb.staged.length < 1024) (held : s.ru.held = some r) :
    RecordGranted (.gap r) s (grantTo .revisit s) := by
  rw [grantTo, held]
  have taken : RecordGranted (.gap r) s (takeUnresolved r (s.ru.next.drop 1) s) :=
    takeRecord_granted _ rfl room (onCounts_steady _ (ru_steady _ (Steady.refl s))) rfl
  exact taken.goesOn (stageUnresolved_steady _ (Steady.refl _)) (stageUnresolved_steady _ taken.steady)

/-- The lowest head's held REFERENCE record taken, with its verdict's effect (R106, R107). -/
theorem grantTo_reference_granted {x : ReferenceRecord} (room : s.sb.staged.length < 1024)
    (lowest : Head.all.find? (fun k => (s.rc.heads.get k).held.isSome) = some h)
    (held : (s.rc.heads.get h).held = some x) : RecordGranted (.reference x) s (grantTo .referenceCheck s) := by
  have granted : grantTo .referenceCheck s = applyVerdict x (takeRecord (.reference x) s) := by
    simp only [grantTo, lowest, grantReference, held]
  have taken : RecordGranted (.reference x) s (takeRecord (.reference x) s) :=
    takeRecord_granted _ rfl room (Steady.refl s) rfl
  rw [granted]
  exact taken.goesOn (applyVerdict_steady x (Steady.refl _)) (applyVerdict_steady x taken.steady)

section
variable {m : Record} (marked : s.oe.marker = some m)
include marked

theorem grantTo_orderEngine : grantTo .orderEngine s = markerTaken m (takeRecord m s) := by rw [grantTo, marked]

theorem grantTo_orderEngine_staged (room : s.sb.staged.length < 1024) (other : m.isSample = false) :
    s.sb.staged ++ [⟨m, s.oe.activeTag⟩] <+: (grantTo .orderEngine s).sb.staged := by
  rw [grantTo_orderEngine marked]
  exact (takeRecord_granted m other room (Steady.refl s) rfl).staged.trans (markerTaken_stream m _).staged

theorem grantTo_orderEngine_steady
    (plain : s.orderKind ≠ some .settings ∨ s.oe.engine = .closing ∨ ∀ x, m ≠ .orderBegin x) :
    Steady s (grantTo .orderEngine s) := by
  have stands : (takeRecord m s).orderKind = s.orderKind := by rw [State.orderKind, takeRecord_oe, State.orderKind]
  rw [grantTo_orderEngine marked]
  exact markerTaken_steady (by rwa [stands, takeRecord_oe]) (takeRecord_steady m (Steady.refl s))

end

/-! ## The stream through a grant (R153) -/

theorem grantPort_stream (h : Head) (s : State) : StreamStands s (grantPort h s) := by
  have taken : ∀ (r : Record) (f : Port → Port), StreamStands s (takeRecord r (s.onPort h f)) := fun r f =>
    (onPort_stream f).trans (takeRecord_steady r (Steady.refl _)).stream
  unfold grantPort
  dsimp only
  split
  · exact taken _ _
  · exact taken _ _
  · exact taken _ _
  · exact .refl s

theorem grantTo_stream (p : Producer) (s : State) : StreamStands s (grantTo p s) := by
  unfold grantTo
  cases p with
  | port h => exact grantPort_stream h s
  | referenceCheck =>
    dsimp only
    split
    · unfold grantReference
      split
      · exact .refl s
      · exact (applyVerdict_steady _ (takeRecord_steady _ (Steady.refl s))).stream
    · exact .refl s
  | revisit =>
    dsimp only
    split
    · exact (stageUnresolved_steady _ (takeUnresolved_steady _ _ (Steady.refl s))).stream
    · exact .refl s
  | orderEngine =>
    dsimp only
    split
    · exact (takeRecord_steady _ (Steady.refl s)).stream.trans (markerTaken_stream _ _)
    · exact .refl s

theorem grantFreed_stream (s : State) : StreamStands s (grantFreed s) := by
  unfold grantFreed
  split
  · split
    · exact (chosen_steady _ (Steady.refl s)).stream.trans (grantTo_stream _ _)
    · exact .refl s
  · exact .refl s

end

end Sys2Proof.Machine
end

section
/-! The end of a record's write and of a fill update (R162, R163, R165), and what follows them (R145, R153). -/

namespace Sys2Proof.Machine

section
variable {s : State} {g : Segment} {x : Staged} {rest : List Staged}

/-! ## A record written (R162, R165) -/

/-- The order's segment list after a record written into segment `n`: appended unless it stands last in it or the list
is full, which sets the overflow (R165). -/
theorem listSegment_eq (n : Nat) (w : Writer) : listSegment n w = { w with
    segments := if w.segments.getLast? = some n ∨ 32 ≤ w.segments.length then w.segments else w.segments ++ [n]
    overflow := w.overflow || decide (w.segments.getLast? ≠ some n ∧ 32 ≤ w.segments.length) } := by
  by_cases last : w.segments.getLast? = some n
  · simp [listSegment, last]
  · by_cases room : w.segments.length < 32
    · simp [listSegment, Config.segmentListRoom, last, room, Nat.not_le.mpr room]
    · simp [listSegment, Config.segmentListRoom, last, room, Nat.not_lt.mp room]

/-- The state after a record's write has ended: the segment advanced, its index listed, the buffer's head removed. -/
def State.recordEnded (s : State) (g : Segment) (x : Staged) (rest : List Staged) : State := { s with
  sb := { s.sb with staged := rest }
  rw := { s.rw with
    doing := .none
    filling := some (g.advanced x.record.length x.tag)
    segments := if s.rw.segments.getLast? = some g.index ∨ 32 ≤ s.rw.segments.length
      then s.rw.segments else s.rw.segments ++ [g.index]
    overflow := s.rw.overflow
      || decide (s.rw.segments.getLast? ≠ some g.index ∧ 32 ≤ s.rw.segments.length) }
  xe := { s.xe with bus := s.xe.bus ++ [.ended .record] } }

theorem recordDone_eq (staged : s.sb.staged = x :: rest) :
    recordDone x g (logBus (.ended .record) s) = s.recordEnded g x rest := by
  have left : (logBus (.ended .record) s).sb.staged.drop 1 = rest := by
    rw [show (logBus (.ended .record) s).sb.staged = x :: rest from staged]
    rfl
  rw [recordDone, removeOldest, listSegment_eq, left]
  rfl

theorem exec_recordWritten (own : s.isStray .record = false) (doing : s.rw.doing = .record)
    (filling : s.rw.filling = some g) (staged : s.sb.staged = x :: rest) :
    exec .recordWritten s = .next (settle (grantFreed (afterRecord x g (s.recordEnded g x rest)))) := by
  rw [← recordDone_eq staged]
  change execRecordWritten s = _
  rw [execRecordWritten, own, if_neg Bool.false_ne_true, doing, filling, staged]

/-- STEP-end and ORDER-end records alone are followed by a fill update (R163). -/
theorem updatesFill_iff (r : Record) :
    r.updatesFill = true ↔ ∃ y, r = .stepEnd y ∨ ∃ z, r = .orderEnd z := by
  cases r with
  | stepEnd y => exact ⟨fun _ => ⟨y, .inl rfl⟩, fun _ => rfl⟩
  | orderEnd z => exact ⟨fun _ => ⟨⟨0, 0, 0, 0, 0, 0⟩, .inr ⟨z, rfl⟩⟩, fun _ => rfl⟩
  | sample y | orderBegin y | stepBegin y | gap y | reference y => simp [Record.updatesFill]

/-- After a record the fill update begins, or the writer goes on: the segment, its list and the buffer stand. -/
theorem afterRecord_stream (x : Staged) (g : Segment) (s : State) : StreamStands s (afterRecord x g s) := by
  unfold afterRecord
  split
  · exact ⟨List.prefix_rfl, rfl, rfl, rfl, List.prefix_append _ _, ⟨rfl, rfl, rfl, rfl, rfl, rfl, rfl⟩⟩
  · exact (writerNext_goesOn s).stream

/-- The freed entry granted and the part's own steps taken, the stream stands as the record's end left it. -/
theorem recordWritten_stream (x : Staged) (g : Segment) (s : State) :
    StreamStands s (settle (grantFreed (afterRecord x g s))) :=
  ((afterRecord_stream x g s).trans (grantFreed_stream _)).trans (settle_steady (Steady.refl _)).stream

/-! ## A fill update written (R163, R145) -/

/-- The state after a fill update's writes have ended. -/
def State.fillUpdated (s : State) : State := { s with
  rw := { s.rw with doing := .none, rest := [] }
  xe := { s.xe with bus := s.groupEnded .fillUpdate } }

theorem exec_fillUpdateWritten (own : s.isStray .fillUpdate = false) (doing : s.rw.doing = .fillUpdate) :
    exec .fillUpdateWritten s
      = .next (if s.recordsWritten then endRecords s.fillUpdated else writerNext s.fillUpdated) := by
  change execFillUpdateWritten s = _
  rw [execFillUpdateWritten, own, if_neg Bool.false_ne_true, if_pos doing]
  rfl

/-- Stage 4 has ended when no ORDER-end record is staged any more (R145). -/
theorem recordsWritten_iff : s.recordsWritten = true ↔ s.oe.engine = .closing ∧ s.oe.stage = .records
    ∧ ∀ y ∈ s.sb.staged, ∀ r, y.record ≠ .orderEnd r := by
  simp only [State.recordsWritten, Bool.and_eq_true, beq_iff_eq, Bool.not_eq_true', List.any_eq_false, and_assoc]
  refine and_congr_right' (and_congr_right' (forall₂_congr fun y _ => ?_))
  cases y.record <;> simp

theorem endRecords_closing {a : ActiveOrder} (active : s.oe.active = some a)
    (close : a.header.flags.closeAtEnd = true) (filling : s.rw.filling = some g) :
    endRecords s = beginClose .orderEnd g (s.onOrder fun o => { o with stage := .segment }) := by
  rw [endRecords, active, Option.map_some, close, filling]

theorem endRecords_plain {a : ActiveOrder} (active : s.oe.active = some a)
    (plain : a.header.flags.closeAtEnd = false) : endRecords s = writerNext (beginCompletion s) := by
  rw [endRecords, active, Option.map_some, plain]

end

end Sys2Proof.Machine
end

section
/-! The failure of a host-memory access: BUS_WRITE by its source, and the fault it brings (R167, R178, R179, R182). -/

namespace Sys2Proof.Machine

/-! ## The failure of an access let go of (R179; log 19) -/

section
variable {s : State} {source : BusSource} {k : BusKind}

theorem exec_busWrite_stray {earlier later : List BusKind} (stray : s.xe.stray = earlier ++ k :: later)
    (own : k ∈ sourceKinds source) (others : ∀ j ∈ earlier, j ∉ sourceKinds source) :
    exec (.busWrite source) s = .next { s with
      xe := { s.xe with stray := earlier ++ later, bus := s.xe.bus ++ [.failed k] } } := by
  have first : s.strayOf source = some k := by
    rw [State.strayOf, stray, List.find?_eq_some_iff_append]
    exact ⟨by simpa using own, earlier, later, rfl, fun j mem => by simpa using others j mem⟩
  have apart : k ∉ earlier := fun mem => others k mem own
  have left : s.xe.stray.erase k = earlier ++ later := by
    rw [stray, List.erase_append_right _ apart, List.erase_cons_head]
  change execBusWrite source s = _
  unfold execBusWrite
  rw [first, ← left]
  rfl

/-- The write error of an access that its source still makes (R167). -/
def sourceFails : BusSource → State → State
  | .resultWriter => writerFails
  | .orderEngine => orderFails
  | .statusPage => pageFails

theorem exec_busWrite (held : ∀ k ∈ s.xe.stray, k ∉ sourceKinds source) :
    exec (.busWrite source) s = .next (sourceFails source s) := by
  have own : s.strayOf source = .none := by
    rw [State.strayOf, List.find?_eq_none]
    exact fun k mem => by simpa using held k mem
  change execBusWrite source s = _
  unfold execBusWrite
  rw [own]
  cases source <;> rfl

end

/-! ## What a failed access leaves before the fault -/

section
variable {s u : State}

/-- From `s` to `u` an access has failed, its block no longer making it: the unit, the buffer, the ports and the
registers stand, and the writer, but that a failed group of its own is broken off. -/
structure AccessFailed (s u : State) : Prop where
  unit : u.uc = s.uc
  sb : u.sb = s.sb
  ports : u.ports = s.ports
  writer : u.rw = s.rw ∨ u.rw = { s.rw with doing := .none, rest := [] }
  registers : SameRegisters s u

theorem logBus_failed (e : BusEvent) (failed : AccessFailed s u) : AccessFailed s (logBus e u) := by
  obtain ⟨unit, sb, ports, writer, registers⟩ := failed
  exact ⟨unit, sb, ports, writer, registers.trans ⟨rfl, rfl, rfl, rfl, rfl, rfl, rfl⟩⟩

theorem breakGroup_failed (k : BusKind) (s : State) : AccessFailed s (breakGroup k s) := by
  obtain ⟨_, _, e, _⟩ := breakGroup_only k s
  rw [e]
  exact ⟨rfl, rfl, rfl, .inr rfl, ⟨rfl, rfl, rfl, rfl, rfl, rfl, rfl⟩⟩

theorem onOrder_failed (f : OrderEngine → OrderEngine) (s : State) : AccessFailed s (s.onOrder f) :=
  ⟨rfl, rfl, rfl, .inl rfl, ⟨rfl, rfl, rfl, rfl, rfl, rfl, rfl⟩⟩

/-- A broken group has issued a free number of the accesses that followed its first (log 5, log 6). -/
theorem breakGroup_bus (k : BusKind) (s : State) : ∃ n ≤ s.rw.rest.length,
    (breakGroup k s).xe.bus = s.xe.bus ++ issuedAfter k (s.rw.rest.take n) := by
  refine ⟨s.choice (s.rw.rest.length + 1), Nat.lt_succ_iff.mp (choice_lt s (Nat.succ_pos _)), ?_⟩
  unfold breakGroup State.chosen
  dsimp only
  split <;> rfl

theorem writerFails_eq {k : BusKind} (doing : s.rw.doing.kind = some k) :
    writerFails s = busFault (logBus (.failed k) (breakGroup k s)) := by rw [writerFails, doing]

theorem kind_none_iff (d : WriterAccess) : d.kind = none ↔ d = .none := by cases d <;> simp [WriterAccess.kind]

/-- The Order Engine makes writes: its completion or terminal status, or, from LOADING to CLOSING, its start fields
(R146; log 21). -/
def State.orderWrites (s : State) : Prop :=
  s.oe.doing = .completion ∨ s.oe.doing = .terminal ∨ s.oe.engine.running = true ∨ s.oe.engine = .closing

theorem orderFails_fault (writes : s.orderWrites) : ∃ u, AccessFailed s u ∧ orderFails s = busFault u := by
  have ended : ∀ e, AccessFailed s (logBus e (s.onOrder fun o => { o with doing := .none })) :=
    fun e => logBus_failed e (onOrder_failed _ s)
  have loading : AccessFailed s (logBus (.failed .loading) s) := logBus_failed _ (onOrder_failed id s)
  unfold orderFails
  cases doing : s.oe.doing with
  | completion => exact ⟨_, ended _, rfl⟩
  | terminal => exact ⟨_, ended _, rfl⟩
  | none | link _ | status _ _ | header | zoneTable | correction _ =>
    refine ⟨_, loading, if_pos ?_⟩
    simpa [State.orderWrites, doing] using writes

theorem orderFails_not (writes : ¬s.orderWrites) : orderFails s = s := by
  unfold orderFails
  simp only [State.orderWrites, not_or] at writes
  obtain ⟨completion, terminal, running, closing⟩ := writes
  split
  · exact absurd ‹_› completion
  · exact absurd ‹_› terminal
  all_goals exact if_neg (by simp [running, closing])

end

/-! ## The writer stopped by the fault (R167) -/

section
variable {s u : State}

/-- From `s` to `t` the writer has stopped by the fault, with no access in progress: all but its access, the bus and
the free choices stands. -/
structure WriterStopped (s t : State) : Prop where
  only : t = { s with
    rw := t.rw, xe := { s.xe with bus := t.xe.bus, stray := t.xe.stray }, free := t.free }
  phase : t.rw.phase = .stoppedByFault
  doing : t.rw.doing = .none
  filling : t.rw.filling = s.rw.filling
  rest : s.rw.doing ≠ .none ∨ s.rw.rest = [] → t.rw.rest = []
  bus : s.xe.bus <+: t.xe.bus

/-- A writer that lets go of an access makes none of those that were to follow it. -/
theorem letGoWriter_rest (was : s.rw.doing ≠ .none ∨ s.rw.rest = []) : (letGoWriter s).rw.rest = [] := by
  unfold letGoWriter
  split
  · rename_i none
    exact was.resolve_left fun busy => busy ((kind_none_iff _).mp none)
  · rename_i k _
    obtain ⟨_, _, broken, _⟩ := breakGroup_only k s
    obtain ⟨_, _, gone, _⟩ := letGo_only [k] (breakGroup k s)
    rw [gone, broken]

theorem writerStopped_spec (s : State) : WriterStopped s (writerStopped s) := by
  obtain ⟨rest, bus, stray, free, gone, more⟩ := letGoWriter_only s
  have none := letGoWriter_rest (s := s)
  rw [gone] at none
  unfold writerStopped
  dsimp only
  rw [gone]
  exact ⟨rfl, rfl, rfl, rfl, none, more⟩

/-- From `s` to `t` the fault of a unit already FAULTED: the writer stopped alone (R178). -/
structure FaultedAgain (s t : State) : Prop where
  unit : t.uc = s.uc
  sb : t.sb = s.sb
  ports : t.ports = s.ports
  phase : t.rw.phase = .stoppedByFault
  doing : t.rw.doing = .none
  filling : t.rw.filling = s.rw.filling
  registers : SameRegisters s t

theorem AccessFailed.filling (failed : AccessFailed s u) : u.rw.filling = s.rw.filling := by
  rcases failed.writer with e | e <;> rw [e]

theorem AccessFailed.rest (failed : AccessFailed s u) (busy : s.rw.doing ≠ .none) :
    u.rw.doing ≠ .none ∨ u.rw.rest = [] := by
  rcases failed.writer with e | e <;> rw [e]
  · exact .inl busy
  · exact .inr rfl

theorem WriterStopped.registers {t : State} (stopped : WriterStopped s t) : SameRegisters s t := by
  rw [stopped.only]
  exact ⟨rfl, rfl, rfl, rfl, rfl, rfl, rfl⟩

theorem WriterStopped.page {t : State} (stopped : WriterStopped s t) :
    t.xe.pageBusy = s.xe.pageBusy ∧ t.xe.pageQueued = s.xe.pageQueued := by
  rw [stopped.only]
  exact ⟨rfl, rfl⟩

theorem busFault_faulted (faulted : u.uc.unit = .faulted) : busFault u = writerStopped u := if_pos faulted

theorem busFault_faultedAgain (failed : AccessFailed s u) (faulted : s.uc.unit = .faulted) :
    FaultedAgain s (busFault u) := by
  have stopped := writerStopped_spec u
  rw [busFault_faulted (by rw [failed.unit]; exact faulted)]
  refine ⟨?_, ?_, ?_, stopped.phase, stopped.doing, stopped.filling.trans failed.filling,
    failed.registers.trans stopped.registers⟩ <;> rw [stopped.only]
  · exact failed.unit
  · exact failed.sb
  · exact failed.ports

end

/-! ## The Status Page's marks through the entry to FAULTED (R178, R182) -/

section
variable {b s t : State}

/-- The Status Page in progress and the one asked for stand. -/
structure PageStands (s t : State) : Prop where
  busy : t.xe.pageBusy = s.xe.pageBusy
  queued : t.xe.pageQueued = s.xe.pageQueued

theorem PageStands.trans (first : PageStands b s) (next : PageStands s t) : PageStands b t :=
  ⟨next.busy.trans first.busy, next.queued.trans first.queued⟩

theorem PageStands.same (xe : t.xe = s.xe) : PageStands s t := by
  constructor <;> rw [xe]

theorem wakeWriter_page (s : State) : PageStands s (wakeWriter s) := by
  unfold wakeWriter
  split
  · rw [(writerNext_goesOn s).only]
    exact ⟨rfl, rfl⟩
  · exact .same rfl

theorem takeRecord_page (r : Record) (s : State) : PageStands s (takeRecord r s) := by
  unfold takeRecord joinRecord
  split
  · refine PageStands.trans ?_ (wakeWriter_page _)
    split <;> exact ⟨rfl, rfl⟩
  · exact .same rfl

theorem offerGap_page (h : Head) (s : State) : PageStands s (offerGap h s) := by
  unfold offerGap
  split
  · exact .same rfl
  · split
    · exact .same rfl
    · split
      · have cleared : PageStands s (s.onPort h fun p => { p with gap := none, gapWaits := false }) := .same rfl
        exact cleared.trans (takeRecord_page _ _)
      · exact .same rfl

theorem disarmScans_page (s : State) : PageStands s (disarmScans s) := by
  have start : PageStands s (forHeads disarmScanOnly s) := .same rfl
  refine inFreeOrder_kept (PageStands s) offerGap (fun h u k => k.trans (offerGap_page h u)) (fun n u k => ?_) _ _ _
    start
  obtain ⟨_, e⟩ := chosen_eq u n
  rw [e]
  exact k.trans (.same rfl)

theorem endPassage_page (h : Head) (s : State) : PageStands s (endPassage h s) := by
  unfold endPassage
  split <;> exact .same rfl

theorem forHeads_page {f : Head → State → State} (each : ∀ h s, PageStands s (f h s)) (s : State) :
    PageStands s (forHeads f s) :=
  (each .h0 s).trans ((each .h1 _).trans ((each .h2 _).trans (each .h3 _)))

theorem letGoOrder_only (s : State) : ∃ bus stray, letGoOrder s = { s with
    oe := { s.oe with doing := .none }, xe := { s.xe with bus := bus, stray := stray } } ∧ s.xe.bus <+: bus :=
  letGo_only s.oe.doing.kind { s with oe := { s.oe with doing := .none } }

theorem letGoCell_only (s : State) : ∃ bus stray, letGoCell s = { s with
    uc := { s.uc with cellReading := false }, xe := { s.xe with bus := bus, stray := stray } } ∧ s.xe.bus <+: bus :=
  letGo_only (if s.uc.cellReading then [.cellRecord] else []) { s with uc := { s.uc with cellReading := false } }

/-- The reads let go of and the passages ended at the entry to FAULTED, before the blocks' own part of it. -/
def State.faultBegun (s : State) : State := forHeads endPassage (disarmScans (letGoCell (letGoOrder s)))

theorem faultBegun_page (s : State) : PageStands s s.faultBegun := by
  obtain ⟨_, _, order, _⟩ := letGoOrder_only s
  obtain ⟨_, _, cell, _⟩ := letGoCell_only (letGoOrder s)
  have released : PageStands s (letGoCell (letGoOrder s)) := by
    rw [cell, order]
    exact ⟨rfl, rfl⟩
  exact released.trans ((disarmScans_page _).trans (forHeads_page endPassage_page _))

theorem readsReleased_bus (s : State) : s.xe.bus <+: (letGoCell (letGoOrder s)).xe.bus := by
  obtain ⟨_, _, order, first⟩ := letGoOrder_only s
  obtain ⟨_, _, cell, next⟩ := letGoCell_only (letGoOrder s)
  rw [cell]
  refine List.IsPrefix.trans ?_ next
  rw [order]
  exact first

theorem faultBegun_bus (s : State) : s.xe.bus <+: s.faultBegun.xe.bus := by
  have steady : Steady (letGoCell (letGoOrder s)) s.faultBegun := (disarmedAll_spec _).1
  exact (readsReleased_bus s).trans steady.bus

/-- The entry to FAULTED with BUS_WRITE writes no Status Page, and drops an encoder fault that waited (R178; log 35). -/
theorem enterFaulted_busWrite (other : s.uc.unit ≠ .faulted) : PageStands s (enterFaulted .busWrite s)
    ∧ s.xe.bus <+: (enterFaulted .busWrite s).xe.bus ∧ (enterFaulted .busWrite s).uc.fault = none := by
  have page := faultBegun_page s
  have bus := faultBegun_bus s
  have begun : forHeads endPassage (disarmScans (letGoCell (letGoOrder s))) = s.faultBegun := rfl
  unfold enterFaulted
  rw [if_neg other]
  dsimp only
  rw [begun]
  generalize s.faultBegun = v at page bus
  rw [enterUnit, requestPage_not _ rfl rfl]
  exact ⟨⟨page.busy, page.queued⟩, bus, rfl⟩

end

/-! ## The fault (R167, R178) -/

section
variable {s u : State}

/-- From `s` to `t` the unit has entered FAULTED by a BUS_WRITE fault (R167, R178). -/
structure BusFaulted (s t : State) : Prop where
  unit : t.uc.unit = .faulted
  cause : t.uc.cause = some .busWrite
  fault : t.uc.fault = none
  notice : t.notice .unitFault = true
  phase : t.rw.phase = .stoppedByFault
  doing : t.rw.doing = .none
  rest : s.rw.doing ≠ .none → t.rw.rest = []
  pageBusy : t.xe.pageBusy = false
  pageQueued : t.xe.pageQueued = false
  staged : s.sb.staged <+: t.sb.staged
  filling : t.rw.filling = s.rw.filling
  engine : t.oe.engine = .idle
  active : t.oe.active = none
  registers : SameRegisters s t

theorem letGoPage_only (s : State) : ∃ bus stray, letGoPage s = { s with
    xe := { s.xe with pageBusy := false, pageQueued := false, bus := bus, stray := stray } } ∧ s.xe.bus <+: bus :=
  letGo_only (if s.xe.pageBusy then [.statusPage] else [])
    { s with xe := { s.xe with pageBusy := false, pageQueued := false } }

theorem busFault_entered (other : u.uc.unit ≠ .faulted) :
    busFault u = enterFaulted .busWrite (letGoPage (writerStopped u)) := if_neg other

theorem busFault_busFaulted (failed : AccessFailed s u) (other : s.uc.unit ≠ .faulted) :
    BusFaulted s (busFault u) := by
  have stopped := writerStopped_spec u
  obtain ⟨bus, stray, released, _⟩ := letGoPage_only (writerStopped u)
  generalize hv : letGoPage (writerStopped u) = v at released
  have uc : v.uc = s.uc := by rw [released, stopped.only]; exact failed.unit
  have sb : v.sb = s.sb := by rw [released, stopped.only]; exact failed.sb
  have writer : v.rw = (writerStopped u).rw := by rw [released]
  have kept : SameRegisters (writerStopped u) v := by rw [released]; exact ⟨rfl, rfl, rfl, rfl, rfl, rfl, rfl⟩
  have unit : v.uc.unit ≠ .faulted := by rw [uc]; exact other
  obtain ⟨faulted, cause, _, notice, engine, active, _, registers, staged, _, filling, still⟩ :=
    enterFaulted_spec .busWrite v unit
  obtain ⟨page, _, fault⟩ := enterFaulted_busWrite unit
  have same : (enterFaulted .busWrite v).rw = (writerStopped u).rw :=
    (still (by rw [writer, stopped.phase]; decide)).trans writer
  rw [busFault_entered (by rw [failed.unit]; exact other), hv]
  refine ⟨faulted, cause, fault, notice, ?_, ?_, fun busy => ?_, page.busy.trans (by rw [released]),
    page.queued.trans (by rw [released]), sb ▸ staged, ?_, engine, active,
    ((failed.registers.trans stopped.registers).trans kept).trans registers⟩ <;> rw [same]
  · exact stopped.phase
  · exact stopped.doing
  · exact stopped.rest (failed.rest busy)
  · exact stopped.filling.trans failed.filling

/-- The accesses so far stand, whether the unit was FAULTED or not. -/
theorem busFault_bus (s : State) : s.xe.bus <+: (busFault s).xe.bus := by
  have stopped := (writerStopped_spec s).bus
  by_cases faulted : s.uc.unit = .faulted
  · rw [busFault_faulted faulted]
    exact stopped
  · obtain ⟨_, _, released, more⟩ := letGoPage_only (writerStopped s)
    have unit : (letGoPage (writerStopped s)).uc.unit ≠ .faulted := by
      rw [released, (writerStopped_spec s).only]
      exact faulted
    obtain ⟨_, bus, _⟩ := enterFaulted_busWrite unit
    rw [busFault_entered faulted]
    refine (stopped.trans ?_).trans bus
    rw [released]
    exact more

end

/-! ## The failure of a Status Page (R182, R177, R178) -/

section
variable {s : State}

/-- The page's write has failed, and the part no longer makes it; whether one asked for meanwhile is kept is given. -/
def State.pageFailed (s : State) (queued : Bool) : State := { s with
  xe := { s.xe with pageBusy := false, pageQueued := queued, bus := s.xe.bus ++ [.failed .statusPage] } }

theorem pageFailed_failed (s : State) (queued : Bool) : AccessFailed s (s.pageFailed queued) :=
  ⟨rfl, rfl, rfl, .inl rfl, ⟨rfl, rfl, rfl, rfl, rfl, rfl, rfl⟩⟩

theorem pageFails_not (none : s.xe.pageBusy = false) : pageFails s = s := if_neg (ne_true_of_eq_false none)

theorem pageFails_running (busy : s.xe.pageBusy = true) (other : s.uc.unit ≠ .stopped)
    (unfaulted : s.uc.unit ≠ .faulted) : pageFails s = busFault (s.pageFailed false) :=
  (if_pos busy).trans ((if_neg other).trans (if_neg fun c => unfaulted c.1))

theorem pageFails_faulted (busy : s.xe.pageBusy = true) (faulted : s.uc.unit = .faulted) : pageFails s
    = if s.xe.pageQueued then requestPage (busFault (s.pageFailed false)) else busFault (s.pageFailed false) := by
  have other : s.uc.unit ≠ .stopped := by rw [faulted]; decide
  refine (if_pos busy).trans ((if_neg other).trans ?_)
  simp only [faulted, true_and]
  rfl

/-- In STOPPED the cause is shown, by the page asked for meanwhile too (R177, R182). -/
theorem pageFails_stopped (busy : s.xe.pageBusy = true) (stopped : s.uc.unit = .stopped) :
    ∃ stopping page queued bus, pageFails s = { s with
      uc := { s.uc with cause := some .busWrite, stopping := stopping }
      xe := { s.xe with pageBusy := page, pageQueued := queued, bus := bus } } := by
  let v : State := { s.pageFailed s.xe.pageQueued with uc := { s.uc with cause := some .busWrite } }
  have fails : pageFails s = settleStopped (if v.xe.pageQueued then beginPage v else v) :=
    (if_pos busy).trans (if_pos stopped)
  rw [fails]
  unfold settleStopped
  repeat' split
  all_goals exact ⟨_, _, _, _, rfl⟩

/-- A page asked for in FAULTED is begun, unless the cause is BUS_WRITE (R178, R182). -/
theorem requestPage_faulted (faulted : s.uc.unit = .faulted) (free : s.xe.pageBusy = false)
    (unasked : s.xe.pageQueued = false) : (requestPage s).xe.pageQueued = false
      ∧ (requestPage s).xe.pageBusy = (s.uc.cause != some .busWrite) := by
  by_cases cause : s.uc.cause = some .busWrite
  · rw [requestPage_not s faulted cause, cause]
    exact ⟨unasked, free⟩
  · have begun : requestPage s = beginPage s :=
      (if_neg fun c => cause c.2).trans (if_neg (ne_true_of_eq_false free))
    rw [begun]
    exact ⟨rfl, (bne_iff_ne.mpr cause).symm⟩

theorem FaultedAgain.requested {t : State} (again : FaultedAgain s t) : FaultedAgain s (requestPage t) := by
  obtain ⟨unit, sb, ports, phase, doing, filling, registers⟩ := again
  refine ⟨?_, ?_, ?_, ?_, ?_, ?_, registers.trans (requestPage_registers t)⟩ <;>
    simpa only [requestPage_uc, requestPage_sb, requestPage_ports, requestPage_rw]

/-- A page that fails in FAULTED stops the writer alone; one asked for meanwhile is begun, unless the cause is BUS_WRITE
(R178, R182). -/
theorem pageFails_faultedAgain (busy : s.xe.pageBusy = true) (faulted : s.uc.unit = .faulted) :
    FaultedAgain s (pageFails s) ∧ (pageFails s).xe.pageQueued = false
    ∧ (pageFails s).xe.pageBusy = (s.xe.pageQueued && s.uc.cause != some .busWrite) := by
  have again := busFault_faultedAgain (pageFailed_failed s false) faulted
  obtain ⟨free, unasked⟩ := (writerStopped_spec (s.pageFailed false)).page
  rw [← busFault_faulted (u := s.pageFailed false) faulted] at free unasked
  have unit : (busFault (s.pageFailed false)).uc.unit = .faulted := by rw [again.unit]; exact faulted
  rw [pageFails_faulted busy faulted]
  cases asked : s.xe.pageQueued with
  | false => exact ⟨again, unasked, free⟩
  | true =>
    obtain ⟨queued, begun⟩ := requestPage_faulted unit free unasked
    rw [again.unit] at begun
    exact ⟨again.requested, queued, begun⟩

end

end Sys2Proof.Machine
end

section
/-! The statements of 09 (staging and result segments), the invariants that every step keeps, and the reset state,
settled. -/

open Sys2Proof Sys2Proof.Machine

/-- Settles O42: the grants that change nothing, and then the record that each producer's grant takes. -/
theorem freedEntryGoesToWaitingProducer : Obligations.FreedEntryGoesToWaitingProducer := by
  intro s waits taken
  have waiting : ∀ h, (s.ports.get h).waits = true ↔ waits h := fun h => waits_iff _
  have settled : ∀ {p r}, p ∈ s.grantable → s.sb.staged.length < 1024 → RecordGranted r s (grantTo p s) → taken p r :=
    fun mem room granted => ⟨_, exec_entryGrant room mem, granted.settled.steady, granted.settled.staged⟩
  refine ⟨fun full p => exec_entryGrant_full full, fun room => ?_⟩
  have port : ∀ {h r}, waits h → RecordGranted r s (grantPort h s) → taken (.port h) r := fun {h _} w =>
    settled ((mem_grantable_waiting ⟨h, (waiting h).mpr w⟩).mpr ⟨h, (waiting h).mpr w, rfl⟩) room
  have idle : ∀ {h}, ¬waits h → (s.ports.get h).waits = false := fun {h} w =>
    Bool.eq_false_iff.mpr (mt (waiting h).mp w)
  refine ⟨fun h g gapWaits gap => ?_, fun h r quiet held => ?_, fun h r quiet unheld held => ?_, fun h w => ?_,
    fun unheld => exec_entryGrant_not (not_mem_grantable_unheld nofun nofun nofun fun _ => unheld),
    fun unheld => exec_entryGrant_not (not_mem_grantable_unheld nofun nofun (fun _ => unheld) nofun),
    fun unheld => exec_entryGrant_not (not_mem_grantable_unheld nofun (fun _ => unheld) nofun nofun),
    fun some => ?_, fun quiet => ?_⟩
  · exact port (.inl ⟨gapWaits, by simp [gap]⟩) (grantPort_gap_granted room gapWaits gap)
  · exact port (.inr (.inl (by simp [held]))) (grantPort_suspended_granted room quiet held)
  · exact port (.inr (.inr (by simp [held]))) (grantPort_headLost_granted room quiet unheld held)
  · exact exec_entryGrant_not (not_mem_grantable_port (idle w))
  · have busy : ∃ h, (s.ports.get h).waits = true := some.imp fun h => (waiting h).mpr
    have refused : ∀ p, (∀ h, p ≠ .port h) → exec (.entryGrant p) s = .next s := fun p other =>
      exec_entryGrant_not (not_mem_grantable_other busy other)
    exact ⟨refused _ nofun, refused _ nofun, refused _ nofun⟩
  · have free : ∀ h, (s.ports.get h).waits = false := fun h => idle (quiet h)
    refine ⟨fun r marked other => ?_, fun r held => ?_, fun x h lowest held => ?_⟩
    · refine ⟨_, exec_entryGrant room ((mem_grantable_free free).mpr (.inr (.inr ⟨rfl, by simp [marked]⟩))), ?_,
        fun plain => settle_steady (grantTo_orderEngine_steady marked plain)⟩
      exact (grantTo_orderEngine_staged marked room other).trans (settle_steady (Steady.refl _)).staged
    · exact settled ((mem_grantable_free free).mpr (.inr (.inl ⟨rfl, by simp [held]⟩))) room
        (grantTo_revisit_granted room held)
    · exact settled ((mem_grantable_free free).mpr (.inl ⟨rfl, h, by simp [held]⟩)) room
        (grantTo_reference_granted room lowest held)

/-- Settles O43: the four findings of an entry's read, and the take's end. -/
theorem segmentTakeFollowsEntry : Obligations.SegmentTakeFollowsEntry := by
  intro s bytes e n g usable ended whole stateRead offerRead take fault
  refine ⟨fun own doing =>
      ⟨fun other more => ?_, fun other last => ?_, fun offered use => ?_, fun offered unused => ?_⟩,
    fun f own doing target => ?_⟩
  · rw [exec_segmentEntryRead bytes own doing, entryRead_other other,
      nextEntry_more (s := s.stateRead) more, readEntry_eq]
    rfl
  · have failed := takeFailed_spec s.stateRead
    refine ⟨_, exec_segmentEntryRead bytes own doing, ?_⟩
    rw [entryRead_other other, nextEntry_last (s := s.stateRead) last]
    refine ⟨fun alone => ?_, fun pending => ?_, failed.starved, failed.sb, failed.oe,
      (stateRead_registers s).trans failed.registers⟩
    · rw [takeFailed_plain (s := s.stateRead) alone, starved_rw, starved_bus]
      exact ⟨rfl, rfl⟩
    · rw [takeFailed_again (s := s.stateRead) pending]
      exact ⟨rfl, rfl⟩
  · rw [exec_segmentEntryRead bytes own doing, entryRead_usable offered (usable_iff.mpr use)]
    rfl
  · have unusable : e.usable = false := Bool.eq_false_iff.mpr (mt usable_iff.mp unused)
    rw [exec_segmentEntryRead bytes own doing, entryRead_unusable offered unusable]
    rfl
  · refine ⟨_, exec_segmentTakeWritten own doing target, ?_⟩
    have on := writerNext_goesOn (s.segmentTaken f)
    obtain ⟨sb, oe, registers, _⟩ := on.blocks
    refine ⟨on.filling, on.target, on.recheck rfl, on.cursor, on.segments, sb, on.bus, oe,
      (segmentTaken_registers s f).trans registers, fun empty => ?_, fun x rest staged fits => ?_⟩
    · rw [writerNext_empty (s := s.segmentTaken f) empty]
      exact ⟨rfl, rfl, rfl⟩
    · rw [writerNext_record (s := s.segmentTaken f) staged rfl fits]
      exact ⟨rfl, rfl, rfl, rfl⟩

/-- Settles O44: the end of a record's write, the end of a fill update in and outside stage 4, and the writer going
on. -/
theorem writtenRecordLeavesBuffer : Obligations.WrittenRecordLeavesBuffer := by
  intro s g x rest filling advanced written update updates filled close lastWritten
  refine ⟨fun own doing staged => ?_, fun a own doing active => ?_, fun u => ⟨writerNext_empty, fun y ys staged =>
    ⟨writerNext_take staged, fun f held => ⟨writerNext_record staged held, writerNext_close staged held⟩⟩⟩⟩
  · have answer := exec_recordWritten own doing filling staged
    have stream := recordWritten_stream x g (s.recordEnded g x rest)
    refine ⟨fun ends => ?_, fun other => ?_, _, answer, stream.filling, stream.staged, stream.segments,
      stream.overflow, stream.bus, ?_⟩
    · rw [answer, afterRecord, if_pos ((updatesFill_iff _).mpr ends)]
      rfl
    · rw [answer, afterRecord, if_neg (mt (updatesFill_iff _).mp other)]
      rfl
    · have kept : SameRegisters s (s.recordEnded g x rest) := ⟨rfl, rfl, rfl, rfl, rfl, rfl, rfl⟩
      exact kept.trans stream.registers
  · have answer := exec_fillUpdateWritten own doing
    refine ⟨fun last plain => ?_, fun last closes => ?_, fun more => ?_⟩
    · rw [if_pos (recordsWritten_iff.mpr last), endRecords_plain (s := s.fillUpdated) active plain] at answer
      have on := writerNext_goesOn (beginCompletion s.fillUpdated)
      obtain ⟨sb, engine, registers, _⟩ := on.blocks
      have kept : SameRegisters s (beginCompletion s.fillUpdated) := ⟨rfl, rfl, rfl, rfl, rfl, rfl, rfl⟩
      exact ⟨_, answer, by rw [engine]; rfl, by rw [engine]; rfl, on.filling.trans filling, sb,
        kept.trans registers, on.bus⟩
    · rw [answer, if_pos (recordsWritten_iff.mpr last), endRecords_closing (s := s.fillUpdated) active closes filling]
      rfl
    · rw [answer, if_neg (mt recordsWritten_iff.mp more)]
      rfl

/-- Settles O45: what stands after every close, and then the close of the FILLING segment and the close with FAULT. -/
theorem fullSegmentIsReported : Obligations.FullSegmentIsReported := by
  intro s reason own doing bus
  obtain ⟨uc, answer⟩ := exec_fullWritten own doing
  obtain ⟨notices, sb, registers, more⟩ := afterClose_stands reason s.fullEnded
  obtain ⟨xbaseL, xbaseH, ucmdCode, ucmdResult, noteEn, time, queue⟩ := (fullEnded_registers s).trans registers
  refine ⟨_, answer, notices _ (fullEnded_notice s), sb, ⟨xbaseL, xbaseH, ucmdCode, ucmdResult, noteEn, time, queue⟩,
    more, fun filled => ?_, fun ends closing stage => ?_, fun fault => ?_, fun fault left => ?_, fun fault left => ?_⟩
  · obtain ⟨v, e, freed, _⟩ := afterClose_filled (s := s.fullEnded) filled
    have on := writerNext_goesOn v
    rw [e]
    exact ⟨on.filling.trans (by rw [freed]), on.cursor.trans (by rw [freed]; rfl)⟩
  · obtain ⟨v, e, _, _, completion⟩ := afterClose_filled (s := s.fullEnded) (reason := reason) (by rw [ends]; decide)
    obtain ⟨_, engine, _⟩ := (writerNext_goesOn v).blocks
    rw [e, engine]
    exact completion ends closing stage
  · rw [fault, afterClose_fault]
    exact (nextEntry_stands s.fullEnded.faultClosed).2
  · rw [fault, afterClose_fault, nextEntry_more (s := s.fullEnded.faultClosed) left]
    exact ⟨rfl, rfl, rfl, rfl, rfl⟩
  · rw [fault, afterClose_fault, nextEntry_last (s := s.fullEnded.faultClosed) left]
    exact (takeFailed_spec _).phase

/-- Settles O46: the failure of an access let go of, and then that of one in progress, by the unit's state. -/
theorem failedWriteFaultsUnit : Obligations.FailedWriteFaultsUnit := by
  intro s source of order
  have kinds : ∀ k, of k ↔ k ∈ sourceKinds source := by
    intro k
    cases source <;> simp [of, sourceKinds]
  refine ⟨fun k earlier later stray own others => exec_busWrite_stray stray ((kinds k).mp own) fun j mem =>
    mt (kinds j).mpr (others j mem), fun held => ?_⟩
  have answer := exec_busWrite (source := source) fun k mem => mt (kinds k).mpr (held k mem)
  have writer : s.rw.doing ≠ .none → ∃ k, s.rw.doing.kind = some k := fun busy =>
    Option.ne_none_iff_exists'.mp (mt (kind_none_iff _).mp busy)
  have broken : ∀ k, AccessFailed s (logBus (.failed k) (breakGroup k s)) := fun k =>
    logBus_failed _ (breakGroup_failed k s)
  refine ⟨fun ⟨unfaulted, access⟩ => ?_, fun k own doing => ?_, fun ⟨faulted, access⟩ => ?_, fun stopped own busy => ?_,
    fun idle => ?_⟩
  · have fault : ∃ u, AccessFailed s u ∧ sourceFails source s = busFault u := by
      rcases access with ⟨rfl, busy⟩ | ⟨rfl, writes⟩ | ⟨rfl, busy, unit⟩
      · obtain ⟨k, doing⟩ := writer busy
        exact ⟨_, broken k, writerFails_eq doing⟩
      · exact orderFails_fault writes
      · exact ⟨_, pageFailed_failed s false, pageFails_running busy unit unfaulted⟩
    obtain ⟨u, failed, e⟩ := fault
    have t := busFault_busFaulted failed unfaulted
    rw [answer, e]
    exact ⟨_, rfl, t.unit, t.cause, t.fault, t.notice, t.phase, t.doing, t.rest, t.pageBusy, t.pageQueued, t.staged,
      t.filling, t.engine, t.active, t.registers⟩
  · subst own
    obtain ⟨n, within, bus⟩ := breakGroup_bus k s
    refine ⟨_, n, answer, within, ?_⟩
    rw [← bus]
    rw [sourceFails, writerFails_eq doing]
    exact busFault_bus (logBus (.failed k) (breakGroup k s))
  · have again : FaultedAgain s (sourceFails source s) ∧ (source = .statusPage →
        (sourceFails source s).xe.pageQueued = false
        ∧ (sourceFails source s).xe.pageBusy = (s.xe.pageQueued && s.uc.cause != some .busWrite)) := by
      rcases access with ⟨rfl, busy⟩ | ⟨rfl, writes⟩ | ⟨rfl, busy⟩
      · obtain ⟨k, doing⟩ := writer busy
        rw [sourceFails, writerFails_eq doing]
        exact ⟨busFault_faultedAgain (broken k) faulted, nofun⟩
      · obtain ⟨u, failed, e⟩ := orderFails_fault writes
        rw [sourceFails, e]
        exact ⟨busFault_faultedAgain failed faulted, nofun⟩
      · obtain ⟨stands, page⟩ := pageFails_faultedAgain busy faulted
        exact ⟨stands, fun _ => page⟩
    obtain ⟨t, page⟩ := again
    exact ⟨_, answer, t.unit, t.sb, t.ports, t.phase, t.doing, t.filling, t.registers, page⟩
  · subst own
    obtain ⟨stopping, page, queued, bus, e⟩ := pageFails_stopped busy stopped
    refine ⟨_, answer, ?_⟩
    rw [sourceFails, e]
    exact ⟨stopped, rfl, rfl, rfl, rfl, ⟨rfl, rfl, rfl, rfl, rfl, rfl, rfl⟩⟩
  · rw [answer]
    rcases idle with ⟨rfl, idle⟩ | ⟨rfl, writes⟩ | ⟨rfl, idle⟩
    · rw [sourceFails, writerFails, idle]
      rfl
    · rw [sourceFails, orderFails_not writes]
    · rw [sourceFails, pageFails_not idle]

/-- Settles O57, by the capacities and the alignment that every command keeps. -/
theorem invariantsKeptByEveryStep : Obligations.InvariantsKeptByEveryStep := by
  refine ⟨fun s buffer flights lists segments => ?_, fun s aligned => ?_⟩ <;>
    obtain ⟨t, answer, keeps⟩ := step_keepsSafe s
  · exact ⟨t, answer, keeps.buffer buffer, keeps.flights flights, keeps.lists lists, keeps.segments segments⟩
  · exact ⟨t, answer, keeps.base aligned⟩

/-- Settles O58, by the soundness of the writer that every command keeps. -/
theorem oneSegmentFillsAtATime : Obligations.OneSegmentFillsAtATime := by
  intro s sound
  obtain ⟨t, answer, keeps⟩ := step_keepsSafe s
  exact ⟨t, answer, keeps.writer sound⟩

/-- Settles O60, block by block. -/
theorem resetMeetsInvariants : Obligations.ResetMeetsInvariants := by
  refine ⟨bufferWithin_nil, flightsWithin_empty reset_flights, listsWithin_reset, segmentsWithin_reset,
    baseAligned_zero, WriterSound.reset, .empty reset_flights rfl rfl fun h => ?_, rfl⟩
  rw [State.reset, TriggerGen.reset, get_all]
  exact ⟨nofun, rfl⟩

end

section
/-! Unit control (10.1, 10.2): what each command leaves of the queue, the registers and their reset values. -/

namespace Sys2Proof.Machine

/-! ## The queue (R183; log 3) -/

section
variable {s t : State}

/-- The three commands that write registers leave the queue as the others do. -/
theorem exec_keepsPending (c : Instr) (answer : exec c s = .next t) : t.pending = s.pending := by
  by_cases leaves : Instr.leavesRegisters c = true
  · exact (exec_keeps c leaves answer).pending
  · cases c with
    | registerWrite offset enables value =>
      change execRegisterWrite offset enables value s = .next t at answer
      unfold execRegisterWrite at answer
      cases answer
      repeat' split
      all_goals rfl
    | noteEnWrite value => cases answer; rfl
    | coldReset levels => cases answer; rfl
    | _ => exact absurd rfl leaves

theorem step_idle (empty : s.pending = []) : step s = .next (tick s) := by
  unfold step
  rw [empty]

end

/-! ## XBASE written (R169) -/

section
variable (s : State)

/-- Bit by bit, the mask of XBASE_L is a multiple of 4,096 at or below the value written. -/
theorem masked_eq_multiple (v : Word) : v &&& 0xFFFFF000 = BitVec.ofNat 32 (v.toNat / 4096 * 4096) := by
  have mask : ∀ i : Fin 32, (0xFFFFF000 : Word).getLsbD i = decide (12 ≤ i.val) := by decide
  refine BitVec.eq_of_getLsbD_eq fun i within => ?_
  rw [BitVec.getLsbD_and, mask ⟨i, within⟩, BitVec.getLsbD_ofNat, show 4096 = 2 ^ 12 from rfl,
    Nat.testBit_mul_two_pow, Nat.testBit_div_two_pow, BitVec.getLsbD, decide_eq_true within, Bool.true_and]
  by_cases high : 12 ≤ i
  · rw [decide_eq_true high, Nat.sub_add_cancel high, Bool.and_comm]
  · rw [decide_eq_false high, Bool.and_false, Bool.false_and]

theorem baseWritable_iff : s.baseWritable = true ↔ s.uc.unit = .stopped ∧ s.uc.stopping = false := by
  simp [State.baseWritable]

/-- A write of the row is taken where it is full and XBASE can be written, and is ignored elsewhere (log 23). -/
theorem exec_registerWrite (offset : BitVec 12) (enables : BitVec 4) (v : Word) :
    exec (.registerWrite offset enables v) s = .next
      (if enables = 15 ∧ s.uc.unit = .stopped ∧ s.uc.stopping = false then
        if offset = 4 then { s with xe := { s.xe with xbaseL := BitVec.ofNat 32 (v.toNat / 4096 * 4096) } }
        else if offset = 8 then { s with xe := { s.xe with xbaseH := v } }
        else s
      else s) := by
  change execRegisterWrite offset enables v s = _
  simp only [execRegisterWrite, baseWritable_iff, masked_eq_multiple]

end

end Sys2Proof.Machine
end

section
/-! NUDGE, NOTE_RAW and NOTE_EN (10.1, 10.4): the two receivers of a nudge, the notices cleared, and the interrupt. -/

namespace Sys2Proof.Machine

/-! ## The two receivers of a nudge (R131, R161, R170) -/

section
variable {s : State} {o : OrderEngine} {w : Writer} {bus : List BusEvent}

/-- What the Order Engine makes of a nudge: the engine after it, and the read it begins. -/
def State.parkTakes (s : State) (o : OrderEngine) (bus : List BusEvent) : Prop :=
  (s.uc.unit = .parked ∧ s.oe.doing = .none ∧ ∃ p, s.oe.park = some p
    ∧ o = { s.oe with engine := .idle, doing := .link p } ∧ bus = [.read .link p 8])
  ∨ (s.uc.unit = .parked ∧ s.oe.doing ≠ .none ∧ o = { s.oe with recheck := true } ∧ bus = [])
  ∨ ((s.uc.unit ≠ .parked ∨ (s.oe.doing = .none ∧ s.oe.park = none)) ∧ o = s.oe ∧ bus = [])

/-- What the Result Writer makes of a nudge: the writer after it, and the first access of the group it begins. -/
def State.tableTakes (s : State) (w : Writer) (bus : List BusEvent) : Prop :=
  (s.rw.phase = .starved ∧ s.rw.doing = .none
    ∧ w = { s.rw with
      recheck := false, doing := .entry, entry := s.rw.cursor, left := 64
      rest := [.read .segmentEntry (entryAddr s.xbase s.rw.cursor + 8) 12] }
    ∧ bus = [.read .segmentEntry (entryAddr s.xbase s.rw.cursor) 1])
  ∨ ((s.rw.phase = .taking ∨ (s.rw.phase = .starved ∧ s.rw.doing ≠ .none))
    ∧ w = { s.rw with recheck := true } ∧ bus = [])
  ∨ (s.rw.phase ≠ .starved ∧ s.rw.phase ≠ .taking ∧ w = s.rw ∧ bus = [])

theorem exists_parkTakes (s : State) : ∃ o bus, s.parkTakes o bus := by
  by_cases parked : s.uc.unit = .parked
  · by_cases doing : s.oe.doing = .none
    · cases park : s.oe.park with
      | none => exact ⟨_, _, .inr (.inr ⟨.inr ⟨doing, park⟩, rfl, rfl⟩)⟩
      | some p => exact ⟨_, _, .inl ⟨parked, doing, p, park, rfl, rfl⟩⟩
    · exact ⟨_, _, .inr (.inl ⟨parked, doing, rfl, rfl⟩)⟩
  · exact ⟨_, _, .inr (.inr ⟨.inl parked, rfl, rfl⟩)⟩

theorem exists_tableTakes (s : State) : ∃ w bus, s.tableTakes w bus := by
  by_cases starved : s.rw.phase = .starved
  · by_cases doing : s.rw.doing = .none
    · exact ⟨_, _, .inl ⟨starved, doing, rfl, rfl⟩⟩
    · exact ⟨_, _, .inr (.inl ⟨.inr ⟨starved, doing⟩, rfl, rfl⟩)⟩
  · by_cases taking : s.rw.phase = .taking
    · exact ⟨_, _, .inr (.inl ⟨.inl taking, rfl, rfl⟩)⟩
    · exact ⟨_, _, .inr (.inr ⟨starved, taking, rfl, rfl⟩)⟩

theorem parkRecheck_takes (takes : s.parkTakes o bus) :
    parkRecheck s = { s with oe := o, xe := { s.xe with bus := s.xe.bus ++ bus } } := by
  unfold parkRecheck
  rcases takes with ⟨parked, doing, p, park, rfl, rfl⟩ | ⟨parked, doing, rfl, rfl⟩ | ⟨idle, rfl, rfl⟩
  · rw [if_pos parked, doing, park]
    rfl
  · rw [if_pos parked, List.append_nil]
    cases access : s.oe.doing with
    | none => exact absurd access doing
    | _ => rfl
  · rw [List.append_nil]
    rcases idle with other | ⟨doing, park⟩
    · exact if_neg other
    · rw [doing, park]
      exact ite_self s

theorem starvedRecheck_takes (takes : s.tableTakes w bus) :
    starvedRecheck s = { s with rw := w, xe := { s.xe with bus := s.xe.bus ++ bus } } := by
  unfold starvedRecheck
  rcases takes with ⟨starved, doing, rfl, rfl⟩ | ⟨taking | ⟨starved, doing⟩, rfl, rfl⟩ | ⟨starved, taking, rfl, rfl⟩
  · rw [starved]
    dsimp only
    rw [if_pos doing]
    rfl
  · rw [taking, List.append_nil]
  · rw [starved, List.append_nil]
    exact if_neg doing
  · rw [List.append_nil]
    split
    · exact absurd ‹_› starved
    · exact absurd ‹_› taking
    all_goals rfl

end

/-! ## NOTE_RAW (R180, R59, R60) -/

section
variable (s : State) (v : Word)

/-- The state after a write of NOTE_RAW has cleared its bits. -/
def State.noticesCleared : State := { s with
  xe := { s.xe with noteRaw := s.xe.noteRaw &&& ~~~(
    if s.light.judgement = .good then v.setWidth 13 else v.setWidth 13 &&& 0x1DFF) } }

theorem bit_lt (n : Notice) : n.bit < 13 := by cases n <;> decide

/-- The bits kept of LIGHT_LOW's write by a supply not judged GOOD are those of the other notices (R59). -/
theorem lightLow_kept (n : Notice) : (0x1DFF : BitVec 13).getLsbD n.bit = (n != .lightLow) := by
  cases n <;> decide

theorem noticesCleared_notice (n : Notice) : (s.noticesCleared v).notice n
    = (s.notice n && !(v.getLsbD n.bit && (n != .lightLow || s.light.judgement == .good))) := by
  unfold State.noticesCleared State.notice
  rw [BitVec.getLsbD_and, BitVec.getLsbD_not, decide_eq_true (bit_lt n), Bool.true_and]
  by_cases good : s.light.judgement = .good
  · rw [if_pos good, BitVec.getLsbD_setWidth, decide_eq_true (bit_lt n), good]
    simp
  · rw [if_neg good, BitVec.getLsbD_and, BitVec.getLsbD_setWidth, decide_eq_true (bit_lt n), lightLow_kept,
      beq_false_of_ne good, Bool.or_false, Bool.true_and]

theorem writeClearsLight_iff : s.writeClearsLight v = true ↔
    v.getLsbD 9 = true ∧ s.light.judgement = .good ∧ s.light.mode = .latched ∧ s.light.present = true := by
  simp [State.writeClearsLight, Notice.bit, and_assoc]

/-- A write of NOTE_RAW clears its bits, and in LATCHED the light condition, at which the heads are woken and the
part's own steps follow. -/
theorem exec_noteRawWrite : exec (.noteRawWrite v) s = .next
    (if s.writeClearsLight v then settle (lightClears (s.noticesCleared v)) else s.noticesCleared v) := rfl

/-- A port as the clear of the light condition leaves it: a FORCED_OFF head with wake pending that holds a record is
sent WAKE (R60). -/
theorem wokenAt_eq (p : Port) (now : Time) : p.wokenAt now =
    match p.config with
    | some c =>
      if p.state = .forcedOff ∧ p.wakePending = true then
        { p with
          state := .waking
          wakePending := false
          wakeTimer := .running now 100000
          seqCounter := 0
          timeoutInForce := c.timeout
          sent := p.sent ++ [.wake c.codes c.timeout] }
      else p
    | none => p := by
  unfold Port.wokenAt
  cases held : p.config with
  | none => rw [sendWake_unheld held, ite_self]
  | some c => rw [sendWake_held held, held]

end

/-! ## The interrupt (R181) -/

section
variable (s : State)

theorem interrupt_iff :
    s.interrupt = true ↔ ∃ i, s.xe.noteRaw.getLsbD i = true ∧ s.xe.noteEn.getLsbD i = true := by
  unfold State.interrupt
  constructor
  · intro raised
    by_contra quiet
    refine (bne_iff_ne.mp raised) (BitVec.eq_of_getLsbD_eq fun i _ => ?_)
    rw [BitVec.getLsbD_and]
    refine (Bool.eq_false_iff.mpr fun both => quiet ⟨i, ?_⟩).trans BitVec.getLsbD_zero.symm
    exact Bool.and_eq_true_iff.mp both
  · rintro ⟨i, raw, enabled⟩
    refine bne_iff_ne.mpr fun none => ?_
    have bit := congrArg (BitVec.getLsbD · i) none
    simp [raw, enabled] at bit

theorem interrupt_disabled (none : s.xe.noteEn = 0) : s.interrupt = false := by
  rw [State.interrupt, none]
  simp

/-- A bit of NOTE_RAW that an enable covers asserts the level. -/
theorem interrupt_raised {n : Notice} (raw : s.notice n = true) (enabled : s.xe.noteEn.getLsbD n.bit = true) :
    s.interrupt = true := (interrupt_iff s).mpr ⟨n.bit, raw, enabled⟩

theorem exec_noteEnWrite (v : Word) :
    exec (.noteEnWrite v) s = .next { s with xe := { s.xe with noteEn := v.setWidth 13 } } := rfl

end

end Sys2Proof.Machine
end

section
/-! The entries to RUNNING and STOPPED that complete, and a Status Page written (10.2, 10.5: R174, R177, R182). -/

namespace Sys2Proof.Machine

section
variable (s : State)

/-! ## The entry to RUNNING (R174; log 14) -/

theorem startEnded_iff : s.startEnded = true ↔ s.uc.unit = .starting ∧ s.uc.cellReading = false
    ∧ s.tracker.state = .tracking ∧ ∀ h, s.uc.startWakes.get h = false := by
  simp only [State.startEnded, Bool.and_eq_true, beq_iff_eq, Bool.not_eq_true', members_isEmpty, and_assoc]

/-- From `s` to `t` the unit enters RUNNING with a link followed from a holder: the engine as `oe` with that read, and
a Status Page asked for (R129, R132, R174). -/
structure RunningAt (holder : Addr) (oe : OrderEngine) (s t : State) : Prop where
  unit : t.uc = { s.uc with unit := .running }
  engine : t.oe = { oe with engine := .idle, doing := .link holder }
  bus : s.xe.bus ++ [.read .link holder 8] <+: t.xe.bus
  ports : t.ports = s.ports
  staged : t.sb = s.sb
  writer : t.rw = s.rw
  tracker : t.tracker = s.tracker
  registers : SameRegisters s t

theorem followLink_runningAt (holder : Addr) (f : OrderEngine → OrderEngine) :
    RunningAt holder (f s.oe) s (enterUnit .running (followLink holder (s.onOrder f))) := by
  let v : State := followLink holder (s.onOrder f)
  have same : SameRegisters s v := ⟨rfl, rfl, rfl, rfl, rfl, rfl, rfl⟩
  obtain ⟨unit, engine, _, bus, registers⟩ := enterUnit_spec v .running
  exact ⟨unit, engine, bus, requestPage_ports _, requestPage_sb _, requestPage_rw _, requestPage_tracker _,
    same.trans registers⟩

theorem exec_unitRunning : exec .unitRunning s = .next (settleUnit s) := rfl

/-! ## The entry to STOPPED complete (R177) -/

theorem stopComplete_iff : s.stopComplete = true ↔ s.uc.stopping = true ∧ s.uc.unit = .stopped
    ∧ s.rw.doing = .none ∧ s.xe.pageBusy = false ∧ s.xe.pageQueued = false := by
  simp [State.stopComplete, and_assoc]

theorem exec_stoppedEntryComplete : exec .stoppedEntryComplete s = .next
    (if s.stopComplete then { s with uc := { s.uc with stopping := false } } else s) := rfl

theorem settleStopped_not (incomplete : ¬s.stopComplete = true) : settleStopped s = s := if_neg incomplete

/-! ## A Status Page written (R182) -/

/-- The state at the end of a Status Page's writes. -/
def State.pageEnded : State :=
  logBus (.ended .statusPage) { s with xe := { s.xe with pageBusy := false } }

theorem exec_statusPageWritten (own : s.isStray .statusPage = false) (busy : s.xe.pageBusy = true) :
    exec .statusPageWritten s
      = .next (settleStopped (if s.xe.pageQueued then beginPage s.pageEnded else s.pageEnded)) := by
  change execStatusPageWritten s = _
  rw [execStatusPageWritten, own, if_neg Bool.false_ne_true, if_pos busy]
  rfl

/-- A page begun at the end of another, the fields as they stand. -/
theorem beginPage_pageEnded (busy : s.xe.pageBusy = true) : beginPage s.pageEnded = { s with
    xe := { s.xe with
      pageQueued := false
      bus := s.xe.bus ++ [.ended .statusPage] ++ [.write .statusPage s.pageWrites] } } := by
  have begun : beginPage s.pageEnded = { s with
      xe := { s.xe with
        pageBusy := true
        pageQueued := false
        bus := s.xe.bus ++ [.ended .statusPage] ++ [.write .statusPage s.pageWrites] } } := rfl
  rw [begun, ← busy]

end

end Sys2Proof.Machine
end

section
/-! The unit commands of UCMD by the states that accept them (10.2: R171), and an ABORT of the order (R144, R55). -/

namespace Sys2Proof.Machine

/-! ## Accepted or refused (R171) -/

section
variable {s : State}

theorem command_accepted {code : Nat} {accepted : Bool} (effect : State → State) (accepts : accepted = true) :
    command code accepted effect s = effect (readBack code .accepted s) := if_pos accepts

theorem command_refused {code : Nat} {accepted : Bool} (effect : State → State) (refuses : accepted = false) :
    command code accepted effect s = readBack code .refusedState s := if_neg (ne_true_of_eq_false refuses)

theorem acceptsStart_iff : s.acceptsStart = true ↔ s.uc.unit = .stopped ∧ s.uc.stopping = false := by
  simp [State.acceptsStart]

theorem exec_start_refused (shut : ¬(s.uc.unit = .stopped ∧ s.uc.stopping = false)) :
    exec .start s = .next (readBack 1 .refusedState s) :=
  congrArg Host.Outcome.next (command_refused _ (Bool.eq_false_iff.mpr (mt acceptsStart_iff.mp shut)))

theorem exec_halt_refused (other : s.uc.unit = .stopped ∨ s.uc.unit = .starting ∨ s.uc.unit = .faulted) :
    exec .halt s = .next (readBack 2 .refusedState s) := by
  refine congrArg Host.Outcome.next (command_refused _ ?_)
  rcases other with e | e | e <;> rw [State.acceptsHalt, e]

theorem exec_halt_running (running : s.uc.unit = .running) :
    exec .halt s = .next (enterUnit .halting (readBack 2 .accepted s)) := by
  refine congrArg Host.Outcome.next ((command_accepted _ (by rw [State.acceptsHalt, running])).trans ?_)
  rw [haltUnit, show (readBack 2 .accepted s).uc.unit = .running from running]

theorem exec_halt_halting (halting : s.uc.unit = .halting) : exec .halt s = .next (readBack 2 .accepted s) := by
  refine congrArg Host.Outcome.next ((command_accepted _ (by rw [State.acceptsHalt, halting])).trans ?_)
  rw [haltUnit, show (readBack 2 .accepted s).uc.unit = .halting from halting]

theorem exec_halt_stops (waits : s.uc.unit = .parked ∨ s.uc.unit = .held) :
    exec .halt s = .next (enterStopped (readBack 2 .accepted s)) := by
  rcases waits with e | e
  all_goals
    refine congrArg Host.Outcome.next ((command_accepted _ (by rw [State.acceptsHalt, e])).trans ?_)
    rw [haltUnit, show (readBack 2 .accepted s).uc.unit = _ from e]

theorem exec_abort_refused
    (other : s.uc.unit = .stopped ∨ s.uc.unit = .parked ∨ s.uc.unit = .held ∨ s.uc.unit = .faulted) :
    exec .abort s = .next (readBack 3 .refusedState s) := by
  refine congrArg Host.Outcome.next (command_refused _ ?_)
  rcases other with e | e | e | e <;> rw [State.acceptsAbort, e]

theorem exec_abort_stops (starting : s.uc.unit = .starting) :
    exec .abort s = .next (enterStopped (readBack 3 .accepted s)) := by
  refine congrArg Host.Outcome.next ((command_accepted _ (by rw [State.acceptsAbort, starting])).trans ?_)
  rw [abortUnit, show (readBack 3 .accepted s).uc.unit = .starting from starting]

theorem exec_abort_order (runs : s.uc.unit = .running ∨ s.uc.unit = .halting) :
    exec .abort s = .next (settle (abortOrder (readBack 3 .accepted s))) := by
  rcases runs with e | e
  all_goals
    refine congrArg Host.Outcome.next ((command_accepted _ (by rw [State.acceptsAbort, e])).trans ?_)
    rw [abortUnit, show (readBack 3 .accepted s).uc.unit = _ from e]

theorem acceptsResume_iff : s.acceptsResume = true ↔ s.uc.unit = .held := by
  simp [State.acceptsResume]

theorem exec_resume_refused (other : s.uc.unit ≠ .held) : exec .resume s = .next (readBack 4 .refusedState s) :=
  congrArg Host.Outcome.next (command_refused _ (Bool.eq_false_iff.mpr (mt acceptsResume_iff.mp other)))

theorem exec_resume_held {p : Addr} (held : s.uc.unit = .held) (point : s.oe.heldPoint = some p) :
    exec .resume s = .next (enterUnit .running (followLink p ((readBack 4 .accepted s).onOrder fun o =>
      { o with heldReason := none, heldPoint := none }))) := by
  refine congrArg Host.Outcome.next ((command_accepted _ (acceptsResume_iff.mpr held)).trans ?_)
  rw [resumeUnit, show (readBack 4 .accepted s).oe.heldPoint = some p from point]

theorem exec_stop_refused (other : s.uc.unit = .starting ∨ s.uc.unit = .running ∨ s.uc.unit = .halting) :
    exec .stop s = .next (readBack 5 .refusedState s) := by
  refine congrArg Host.Outcome.next (command_refused _ ?_)
  rcases other with e | e | e <;> rw [State.acceptsStop, e]

theorem exec_stop_stopped (stopped : s.uc.unit = .stopped) : exec .stop s = .next (readBack 5 .accepted s) := by
  refine congrArg Host.Outcome.next ((command_accepted _ (by rw [State.acceptsStop, stopped])).trans ?_)
  rw [stopUnit, show (readBack 5 .accepted s).uc.unit = .stopped from stopped]

theorem exec_stop_stops (waits : s.uc.unit = .parked ∨ s.uc.unit = .held ∨ s.uc.unit = .faulted) :
    exec .stop s = .next (enterStopped (readBack 5 .accepted s)) := by
  rcases waits with e | e | e
  all_goals
    refine congrArg Host.Outcome.next ((command_accepted _ (by rw [State.acceptsStop, e])).trans ?_)
    rw [stopUnit, show (readBack 5 .accepted s).uc.unit = _ from e]

end

/-! ## The ports at an ABORT (R55) -/

section
variable {b s : State}

theorem countAbandoned_steady (n : Nat) (hb : Steady b s) : Steady b (countAbandoned n s) :=
  ite_steady (onCounts_steady _ hb) hb

theorem abandonScan_steady (h : Head) (hb : Steady b s) : Steady b (abandonScan h s) :=
  countAbandoned_steady _ (onPort_steady h _ (fun p => marked_link p _) hb)

theorem abortPorts_steady (hb : Steady b s) : Steady b (abortPorts s) :=
  offerGaps_steady (forHeads_steady (fun h _ => abandonScan_steady h) hb)

theorem abandonScan_atRest (h : Head) (s : State) : AtRest s (abandonScan h s) := by
  unfold abandonScan countAbandoned
  split <;> constructor <;> rfl

theorem abortPorts_atRest (s : State) : AtRest s (abortPorts s) :=
  (forHeads_atRest abandonScan abandonScan_atRest s).trans (offerGaps_atRest _)

end

/-! ## The Order Engine at an ABORT (R144, R133) -/

section
variable {s : State}

theorem abortOrder_running (running : s.oe.engine.running = true) :
    abortOrder s = abortPorts (endCondition ⟨.abortCommand, 0⟩ s) := by
  unfold abortOrder
  cases engine : s.oe.engine
  case idle | fetching | validating | closing => exact absurd (engine ▸ running) nofun
  all_goals rfl

/-- With the Order Engine IDLE, or before LOADING with the order's end open, an ABORT is kept for the read in progress
(log 60). -/
theorem abortOrder_reading (reading : s.oe.engine = .idle ∨ (s.oe.engine = .fetching ∧ s.oe.early = false)
    ∨ (s.oe.engine = .validating ∧ s.oe.early = false)) :
    abortOrder s = s.onOrder fun o => { o with abortPending := true } := by
  unfold abortOrder
  rcases reading with e | ⟨e, open_⟩ | ⟨e, open_⟩
  · rw [e]
  all_goals
    rw [e, open_]
    exact if_neg Bool.false_ne_true

theorem abortOrder_closing (closing : s.oe.engine = .closing) :
    abortOrder s = abortPorts (s.onOrder fun o => { o with abortMark := true }) := by
  unfold abortOrder
  rw [closing]

/-- The ports' part of an ABORT and the steps at the end of the event leave an engine that runs no order. -/
theorem settle_abortPorts {v : State} (rest : v.oe.engine.running = false) (unit : v.uc.unit ≠ .starting) :
    AtRest v (settle (abortPorts v)) := by
  have ports := abortPorts_atRest v
  exact ports.trans (settle_atRest _ (by rw [ports.engine, rest]) (by rw [ports.uc]; exact unit))

theorem aborted_running (running : s.oe.engine.running = true) (open_ : s.oe.endSlot = none)
    (unit : s.uc.unit ≠ .starting) :
    (settle (abortOrder s)).oe.engine = .closing
    ∧ (settle (abortOrder s)).oe.endSlot = some ⟨.abortCommand, 0⟩ ∧ Steady s (settle (abortOrder s)) := by
  rw [abortOrder_running running]
  have steady := settle_steady (abortPorts_steady (endCondition_steady ⟨.abortCommand, 0⟩ (Steady.refl s)))
  rw [endCondition_taken _ s running open_] at steady ⊢
  obtain ⟨engine, slot, _, _, _, _, _, uc, _⟩ := enterClosing_spec ⟨.abortCommand, 0⟩ (emptyLists .idle s)
  have rest := settle_abortPorts (by rw [engine]; rfl) (by rw [uc]; exact unit)
  exact ⟨rest.engine.trans engine, rest.endSlot.trans slot, steady⟩

theorem aborted_reading (reading : s.oe.engine = .idle ∨ (s.oe.engine = .fetching ∧ s.oe.early = false)
    ∨ (s.oe.engine = .validating ∧ s.oe.early = false)) (unit : s.uc.unit ≠ .starting) :
    (settle (abortOrder s)).oe.abortPending = true ∧ (settle (abortOrder s)).oe.engine = s.oe.engine
    ∧ (settle (abortOrder s)).oe.doing = s.oe.doing ∧ Steady s (settle (abortOrder s)) := by
  rw [abortOrder_reading reading]
  have steady := settle_steady (onOrder_steady (fun o => { o with abortPending := true }) rfl (Steady.refl s))
  have still : s.oe.engine.running = false := by
    rcases reading with e | ⟨e, _⟩ | ⟨e, _⟩ <;> exact congrArg EngineState.running e
  have rest := settle_atRest (s.onOrder fun o => { o with abortPending := true }) still unit
  exact ⟨rest.abortPending, rest.engine, rest.doing, steady⟩

theorem aborted_closing (closing : s.oe.engine = .closing) (unit : s.uc.unit ≠ .starting) :
    (settle (abortOrder s)).oe.abortMark = true ∧ (settle (abortOrder s)).oe.engine = .closing
    ∧ (settle (abortOrder s)).oe.endSlot = s.oe.endSlot ∧ Steady s (settle (abortOrder s)) := by
  rw [abortOrder_closing closing]
  have steady := settle_steady (abortPorts_steady
    (onOrder_steady (fun o => { o with abortMark := true }) rfl (Steady.refl s)))
  have rest := settle_abortPorts (v := s.onOrder fun o => { o with abortMark := true })
    (congrArg EngineState.running closing) unit
  exact ⟨rest.abortMark, rest.engine.trans closing, rest.endSlot, steady⟩

end

end Sys2Proof.Machine
end

section
/-! SOFT_RESET and the entry to STOPPED (10.2: R177, R179): the accesses let go of, and what each block keeps. -/

namespace Sys2Proof.Machine

/-! ## The accesses let go of at a reset (R179; log 5, log 19) -/

section
variable (s : State)

/-- The state in which every access in progress has been let go of. -/
def State.released : State := letGoPage (letGoWriter (letGoOrder (letGoCell s)))

/-- Accesses let go of change the marks of their issuers, the bus and its traces and the free choices alone. -/
theorem released_only : ∃ w bus stray free, s.released = { s with
    uc := { s.uc with cellReading := false }
    oe := { s.oe with doing := .none }
    rw := w
    xe := { s.xe with pageBusy := false, pageQueued := false, bus := bus, stray := stray }
    free := free } := by
  obtain ⟨_, _, cell, _⟩ := letGoCell_only s
  obtain ⟨_, _, order, _⟩ := letGoOrder_only (letGoCell s)
  obtain ⟨_, _, _, _, writer, _⟩ := letGoWriter_only (letGoOrder (letGoCell s))
  obtain ⟨_, _, page, _⟩ := letGoPage_only (letGoWriter (letGoOrder (letGoCell s)))
  rw [State.released, page, writer, order, cell]
  exact ⟨_, _, _, _, rfl⟩

/-- Only a group of the Result Writer already begun goes on to write. -/
theorem released_bus : ∃ mid : List BusEvent,
    (∀ k xs, BusEvent.write k xs ∈ mid → BusEvent.write k xs ∈ s.rw.rest)
    ∧ s.released.xe.bus = s.xe.bus ++ mid := by
  obtain ⟨cellMid, cellWrites, cell⟩ : ∃ mid, (∀ k xs, BusEvent.write k xs ∉ mid)
      ∧ (letGoCell s).xe.bus = s.xe.bus ++ mid := letGo_bus _ _
  obtain ⟨orderMid, orderWrites, order⟩ : ∃ mid, (∀ k xs, BusEvent.write k xs ∉ mid)
      ∧ (letGoOrder (letGoCell s)).xe.bus = (letGoCell s).xe.bus ++ mid := letGo_bus _ _
  obtain ⟨writerMid, writerWrites, writer⟩ := letGoWriter_bus (letGoOrder (letGoCell s))
  obtain ⟨pageMid, pageWrites, page⟩ : ∃ mid, (∀ k xs, BusEvent.write k xs ∉ mid)
      ∧ s.released.xe.bus = (letGoWriter (letGoOrder (letGoCell s))).xe.bus ++ mid := letGo_bus _ _
  rw [(letGoOrder_stray _).2.2, (letGoCell_stray s).2] at writerWrites
  refine ⟨cellMid ++ (orderMid ++ (writerMid ++ pageMid)), fun k xs written => ?_, ?_⟩
  · simp only [List.mem_append, cellWrites, orderWrites, pageWrites, false_or, or_false] at written
    exact writerWrites k xs written
  · rw [page, writer, order, cell, List.append_assoc, List.append_assoc, List.append_assoc]

end

/-! ## What a soft reset keeps (R179, R62, R112) -/

section
variable (levels : Levels) (s : State)

/-- Every block after a soft reset. -/
theorem softReset_eq : ∃ bus stray free, softReset levels s = { s with
    tracker := s.tracker.softReset
    tg := .reset
    ports := s.ports.map Port.softReset
    light := .reset
    mon0 := .reset
    mon1 := .reset
    qu := .reset
    ru := .reset
    rc := { config := none, mode := .off, heads := s.rc.heads.map HeadRef.softReset }
    sf := .reset levels
    oe := .reset
    sb := .reset
    rw := .reset
    xe := { s.xe with
      noteRaw := s.xe.noteRaw &&& keptNotices, pageBusy := false, pageQueued := false, bus := bus, stray := stray }
    uc := .reset
    free := free }
    ∧ ∃ mid : List BusEvent, (∀ k xs, BusEvent.write k xs ∈ mid → BusEvent.write k xs ∈ s.rw.rest)
      ∧ bus = s.xe.bus ++ mid := by
  obtain ⟨w, bus, stray, free, only⟩ := released_only s
  have writes := released_bus s
  rw [only] at writes
  refine ⟨bus, stray, free, ?_, writes⟩
  unfold softReset
  rw [← State.released, only]

theorem keptNotices_bit (n : Notice) : keptNotices.getLsbD n.bit = (n == .lightLow || n == .powerOn) := by
  cases n <;> decide

/-- A head that is not OFF is sent SLEEP before its port is put to rest (R46, R62). -/
theorem asleep_sent (p : Port) : p.asleep.sent = p.sent ++ if p.state = .off then [] else [.sleep] := by
  unfold Port.asleep
  split
  · rw [List.append_nil]
  · rfl

theorem exec_softReset : exec (.softReset levels) s = .next (softReset levels (readBack 6 .accepted s)) := rfl

end

end Sys2Proof.Machine
end

section
/-! The entry to STOPPED (10.2: R177): every block's part of it, and the Result Writer's by its phase (R168). -/

namespace Sys2Proof.Machine

/-! ## The Result Writer by its phase (R168; log 31) -/

section
variable {s : State}

/-- The writer with what it keeps of an order forgotten. -/
def State.listsForgotten (s : State) : State := { s with
  rw := { s.rw with recheck := false, segments := [], overflow := false, target := none } }

theorem stopWriter_eq (s : State) : stopWriter s = match s.rw.phase with
    | .stoppedByFault => { s.listsForgotten with rw := { s.listsForgotten.rw with phase := .idle, filling := none } }
    | .closingSegment => s.listsForgotten
    | .idle | .taking | .starved | .writing =>
      match (letGoWriter s.listsForgotten).rw.filling with
      | some g => beginClose .stop g (letGoWriter s.listsForgotten)
      | none => { letGoWriter s.listsForgotten with
          rw := { (letGoWriter s.listsForgotten).rw with phase := .idle } } := rfl

theorem listsForgotten_unfilled (unfilled : s.rw.filling = none) :
    (letGoWriter s.listsForgotten).rw.filling = none := by
  obtain ⟨_, _, _, _, gone, _⟩ := letGoWriter_only s.listsForgotten
  rw [gone]
  exact unfilled

/-- A writer without a FILLING segment, neither stopped by a fault nor in a close, is IDLE with no access. -/
theorem stopWriter_unfilled (unfilled : s.rw.filling = none) (sound : s.rw.phase ≠ .stoppedByFault)
    (open_ : s.rw.phase ≠ .closingSegment) :
    (stopWriter s).rw.phase = .idle ∧ (stopWriter s).rw.doing = .none := by
  rw [stopWriter_eq]
  cases phase : s.rw.phase
  case stoppedByFault => exact absurd phase sound
  case closingSegment => exact absurd phase open_
  all_goals
    dsimp only
    rw [listsForgotten_unfilled unfilled]
    exact ⟨rfl, letGoWriter_doing _⟩

theorem stopWriter_closing (closing : s.rw.phase = .closingSegment) : stopWriter s = s.listsForgotten := by
  rw [stopWriter_eq, closing]

theorem stopWriter_faulted (faulted : s.rw.phase = .stoppedByFault) : stopWriter s = { s.listsForgotten with
    rw := { s.listsForgotten.rw with phase := .idle, filling := none } } := by
  rw [stopWriter_eq, faulted]

end

/-! ## Every other block -/

section
variable (s : State)

/-- The state at the entry to STOPPED before the Result Writer's part of it. -/
def State.blocksStopped : State := { letGoCell (letGoOrder s) with
  ports := (letGoCell (letGoOrder s)).ports.map Port.asleep
  tracker := (letGoCell (letGoOrder s)).tracker.stopped
  tg := { zones := none, heads := (letGoCell (letGoOrder s)).tg.heads.map HeadPasses.disarmed }
  sf := (letGoCell (letGoOrder s)).sf.ended
  rc := { (letGoCell (letGoOrder s)).rc with
    mode := .off, heads := (letGoCell (letGoOrder s)).rc.heads.map HeadRef.stopped }
  sb := (letGoCell (letGoOrder s)).sb.stopped
  ru := .reset
  oe := (letGoCell (letGoOrder s)).oe.stopped
  uc := { (letGoCell (letGoOrder s)).uc with stopping := true, fault := none, startWakes := .all false } }

theorem enterStopped_eq : enterStopped s = enterUnit .stopped (stopWriter s.blocksStopped) := rfl

theorem enterStopped_writer : (enterStopped s).rw = (stopWriter s.blocksStopped).rw := requestPage_rw _

/-- The blocks stopped leave the writer and the base, and begin no write. -/
theorem blocksStopped_stands : s.blocksStopped.rw = s.rw ∧ s.blocksStopped.xbase = s.xbase
    ∧ s.blocksStopped.uc.cellReading = false ∧ s.blocksStopped.oe = { s.oe with doing := .none }.stopped
    ∧ ∃ mid : List BusEvent, (∀ k xs, BusEvent.write k xs ∉ mid) ∧ s.blocksStopped.xe.bus = s.xe.bus ++ mid := by
  obtain ⟨_, _, order, _⟩ := letGoOrder_only s
  obtain ⟨_, _, cell, _⟩ := letGoCell_only (letGoOrder s)
  obtain ⟨orderMid, orderWrites, orderBus⟩ : ∃ mid, (∀ k xs, BusEvent.write k xs ∉ mid)
      ∧ (letGoOrder s).xe.bus = s.xe.bus ++ mid := letGo_bus _ _
  obtain ⟨cellMid, cellWrites, cellBus⟩ : ∃ mid, (∀ k xs, BusEvent.write k xs ∉ mid)
      ∧ (letGoCell (letGoOrder s)).xe.bus = (letGoOrder s).xe.bus ++ mid := letGo_bus _ _
  refine ⟨?_, ?_, ?_, ?_, orderMid ++ cellMid, fun k xs written => ?_, ?_⟩
  · rw [State.blocksStopped, cell, order]
  · rw [State.blocksStopped, cell, order]
    rfl
  · rw [State.blocksStopped, cell]
  · rw [State.blocksStopped, cell, order]
  · exact (List.mem_append.mp written).elim (orderWrites k xs) (cellWrites k xs)
  · rw [← List.append_assoc, ← orderBus, ← cellBus]
    rfl

/-- The Result Writer's part leaves unit control, the Order Engine and the lists, and a page asked for does too. -/
theorem enterStopped_control : (enterStopped s).uc.cellReading = false
    ∧ (enterStopped s).oe = { s.oe with doing := .none }.stopped ∧ (enterStopped s).ru = .reset := by
  obtain ⟨_, _, cell, order, _⟩ := blocksStopped_stands s
  obtain ⟨_, _, _, _, writer, _⟩ := stopWriter_only s.blocksStopped
  rw [enterStopped_eq, enterUnit, requestPage_uc, requestPage_oe, requestPage_ru, writer]
  exact ⟨cell, order, rfl⟩

/-- With a segment FILLING its close with STOP begins, after what the accesses let go of leave on the bus, and before
the Status Page (log 43). -/
theorem enterStopped_closes {g : Segment} (filling : s.rw.filling = some g) (sound : s.rw.phase ≠ .stoppedByFault)
    (open_ : s.rw.phase ≠ .closingSegment) :
    (enterStopped s).rw.doing = .full .stop ∧ (enterStopped s).rw.filling = some g
    ∧ ∃ w ws mid, closeWrites s.xbase g .stop = w :: ws
      ∧ (∀ k xs, BusEvent.write k xs ∈ mid → BusEvent.write k xs ∈ s.rw.rest)
      ∧ s.xe.bus ++ mid ++ [.write .full [w]] <+: (enterStopped s).xe.bus
      ∧ (enterStopped s).rw.rest = ws.map fun x => .write .full [x] := by
  obtain ⟨writer, base, _, _, mid, none, bus⟩ := blocksStopped_stands s
  rw [← writer] at filling sound open_
  obtain ⟨doing, fills, w, ws, after, writes, own, closes, rest⟩ := stopWriter_close _ g filling sound open_
  obtain ⟨_, _, _, page, _⟩ := enterUnit_spec (stopWriter s.blocksStopped) .stopped
  rw [enterStopped_writer]
  rw [base] at writes
  rw [writer] at own
  refine ⟨doing, fills, w, ws, mid ++ after, writes, fun k xs written => ?_, ?_, rest⟩
  · exact (List.mem_append.mp written).elim (fun early => absurd early (none k xs)) (own k xs)
  · rw [closes, bus, List.append_assoc s.xe.bus] at page
    exact page

/-- A writer stopped by a fault, or in a close, lets go of no access. -/
theorem enterStopped_stray_kept (kept : s.rw.phase = .stoppedByFault ∨ s.rw.phase = .closingSegment) :
    (enterStopped s).xe.stray
      = s.xe.stray ++ s.oe.doing.kind ++ if s.uc.cellReading then [.cellRecord] else [] := by
  rw [enterStopped_stray]
  rcases kept with e | e <;> rw [e, List.append_nil]

theorem enterStopped_stray_writer (sound : s.rw.phase ≠ .stoppedByFault) (open_ : s.rw.phase ≠ .closingSegment) :
    (enterStopped s).xe.stray = s.xe.stray ++ s.oe.doing.kind ++ (if s.uc.cellReading then [.cellRecord] else [])
      ++ s.rw.doing.kind.toList := by
  rw [enterStopped_stray]
  cases phase : s.rw.phase
  case stoppedByFault => exact absurd phase sound
  case closingSegment => exact absurd phase open_
  all_goals rfl

end

/-- The kind of the Result Writer's access in progress, as the strays show it. -/
theorem kind_toList (access : WriterAccess) : access.kind.toList = match access with
    | .none => []
    | .entry => [.segmentEntry]
    | .take => [.take]
    | .record => [.record]
    | .fillUpdate => [.fillUpdate]
    | .full _ => [.full] := by
  cases access <;> rfl

/-! ## The commands that enter STOPPED (R171, R175, R176, R177) -/

/-- STOP, HALT and ABORT, in the states in which they enter STOPPED. -/
theorem exec_stops {s : State} {e : Instr} {code : Nat}
    (stops : ((s.uc.unit = .parked ∨ s.uc.unit = .held ∨ s.uc.unit = .faulted) ∧ e = .stop ∧ code = 5)
      ∨ ((s.uc.unit = .parked ∨ s.uc.unit = .held) ∧ e = .halt ∧ code = 2)
      ∨ (s.uc.unit = .starting ∧ e = .abort ∧ code = 3)) :
    exec e s = .next (enterStopped (readBack code .accepted s)) := by
  rcases stops with ⟨unit, rfl, rfl⟩ | ⟨unit, rfl, rfl⟩ | ⟨unit, rfl, rfl⟩
  · exact exec_stop_stops unit
  · exact exec_halt_stops unit
  · exact exec_abort_stops unit

end Sys2Proof.Machine
end

section
/-! What the part's own steps leave of unit control: all of it, but for the entry to RUNNING (log 1, R174). -/

namespace Sys2Proof.Machine

section
variable {s : State}

theorem forHeads_uc {f : Head → State → State} (each : ∀ h s, (f h s).uc = s.uc) (s : State) :
    (forHeads f s).uc = s.uc := by
  unfold forHeads
  rw [each, each, each, each]

theorem disarmScans_uc : (disarmScans s).uc = s.uc := by
  obtain ⟨_, _, _, _, _, _, only, _⟩ := disarmScans_only s
  rw [only]

theorem enterClosing_uc (slot : EndSlot) (s : State) : (enterClosing slot s).uc = s.uc := by
  obtain ⟨_, _, _, _, _, _, _, uc, _⟩ := enterClosing_spec slot s
  exact uc

theorem endCondition_uc (slot : EndSlot) (s : State) : (endCondition slot s).uc = s.uc := by
  unfold endCondition
  split
  · exact enterClosing_uc slot _
  · rfl

/-! ## The step loop (R137 to R141) -/

theorem enterLightWait_uc (interrupting : Bool) (s : State) : (enterLightWait interrupting s).uc = s.uc :=
  disarmScans_uc

theorem enterAcquiring_uc (s : State) : (enterAcquiring s).uc = s.uc := by
  unfold enterAcquiring
  split
  · exact enterLightWait_uc false s
  · split
    · exact forHeads_uc (fun h s => by split <;> rfl) (enterEngine .acquiring s)
    · rfl

theorem clearCounters_uc (s : State) : (clearCounters s).uc = s.uc :=
  forHeads_uc (fun h s => by split <;> rfl) s

theorem restartTaken_uc (time : Time) (s : State) : (restartTaken time s).uc = s.uc :=
  (enterAcquiring_uc _).trans ((clearCounters_uc _).trans disarmScans_uc)

theorem departLightWait_uc (s : State) : (departLightWait s).uc = s.uc := by
  unfold departLightWait
  split
  · exact enterAcquiring_uc s
  · split
    · split
      · rfl
      · dsimp only
        split
        · exact (restartTaken_uc _ _).trans (takeRecord_uc _ _)
        · rfl
    · exact endCondition_uc _ s

theorem stepEndTaken_uc (s : State) : (stepEndTaken s).uc = s.uc := by
  have done : (requestPage ((s.onCounts fun c => { c with stepsCompleted := c.stepsCompleted + 1 }).onOrder fun o =>
      { o with marker := none })).uc = s.uc := requestPage_uc _
  unfold stepEndTaken
  dsimp only
  split
  · exact done
  · split
    · exact done
    · exact (enterClosing_uc _ _).trans done

theorem offerStepEnd_uc (s : State) : (offerStepEnd s).uc = s.uc := by
  unfold offerStepEnd
  split
  · exact (stepEndTaken_uc _).trans (takeRecord_uc _ _)
  · rfl

/-! ## The end of the passes (R90 to R96) -/

theorem listsClosed_uc (s : State) : (listsClosed s).uc = s.uc := by
  refine (offerStepEnd_uc _).trans ?_
  split <;> rfl

theorem stageUnresolved_uc (entries : List Entry) (s : State) : (stageUnresolved entries s).uc = s.uc := by
  induction entries generalizing s with
  | nil => exact listsClosed_uc s
  | cons e es ih =>
    unfold stageUnresolved
    split
    · exact (ih _).trans (takeRecord_uc _ _)
    · rfl

theorem endPasses_uc (s : State) : (endPasses s).uc = s.uc := by
  unfold endPasses roundDecision
  split
  · exact forHeads_uc (fun h s => by split <;> rfl) _
  · exact stageUnresolved_uc _ _

/-! ## LOADING and ARMING (R134, R136, R148) -/

theorem endArming_uc (s : State) : (endArming s).uc = s.uc := by
  unfold endArming
  dsimp only
  split
  · rfl
  · exact (enterAcquiring_uc _).trans (forHeads_uc (fun h s => by split <;> rfl) _)

theorem enterArming_uc (s : State) : (enterArming s).uc = s.uc := by
  unfold enterArming matchRequest
  dsimp only
  split
  · split
    · exact endArming_uc _
    · split
      · exact endCondition_uc _ _
      · rfl
  · exact endArming_uc _

theorem installReplacement_uc (hd : OrderHeader) (h : Head) (s : State) : (installReplacement hd h s).uc = s.uc := by
  unfold installReplacement
  split
  · dsimp only
    split
    · exact wakeHead_installing.unit
    · rfl
  · rfl

theorem orderBeginTaken_uc (s : State) : (orderBeginTaken s).uc = s.uc := by
  unfold orderBeginTaken
  dsimp only
  split
  · rfl
  · split
    · exact enterClosing_uc _ _
    · exact forHeads_uc (installReplacement_uc _) _
    · exact enterArming_uc _

theorem endLoading_uc (s : State) : (endLoading s).uc = s.uc := by
  unfold endLoading offerOrderBegin
  split
  · exact enterClosing_uc _ s
  · split
    · exact endCondition_uc _ s
    · split
      · rfl
      · split
        · exact (orderBeginTaken_uc _).trans (takeRecord_uc _ _)
        · rfl

theorem settleEngine_uc (s : State) : (settleEngine s).uc = s.uc := by
  unfold settleEngine
  split
  · exact endLoading_uc s
  · split
    · exact endPasses_uc s
    · split
      · exact departLightWait_uc s
      · rfl

/-! ## Verdicts (R106, R107, R110) -/

theorem applyVerdict_uc (x : ReferenceRecord) (s : State) : (applyVerdict x s).uc = s.uc := by
  unfold applyVerdict overLimitTaken
  dsimp only
  split
  · split
    · exact endCondition_uc _ _
    · rfl
  · rfl

theorem offerReference_uc (x : ReferenceRecord) (s : State) : (offerReference x s).uc = s.uc := by
  unfold offerReference
  split
  · exact (applyVerdict_uc x _).trans (takeRecord_uc _ _)
  · rfl

theorem completePassage_uc (h : Head) (s : State) : (completePassage h s).uc = s.uc := by
  unfold completePassage
  split
  · exact offerReference_uc _ s
  · rfl
  · rfl

theorem settlePassages_uc (s : State) : (settlePassages s).uc = s.uc := by
  refine inFreeOrder_kept (fun t => t.uc = s.uc) completePassage (fun h u k => (completePassage_uc h u).trans k)
    (fun n u k => ?_) _ _ s rfl
  obtain ⟨_, e⟩ := chosen_eq u n
  rw [e]
  exact k

theorem judgeCalibration_uc (s : State) : (judgeCalibration s).uc = s.uc := by
  have offered : ∀ (records : List ReferenceRecord) (u : State),
      (records.foldl (fun s x => offerReference x s) u).uc = u.uc := by
    intro records
    induction records with
    | nil => exact fun _ => rfl
    | cons x xs ih => exact fun u => (ih _).trans (offerReference_uc x u)
  unfold judgeCalibration
  dsimp only
  split
  · exact (enterClosing_uc _ _).trans (offered _ s)
  · exact (endCondition_uc _ _).trans (offered _ s)

theorem settleOrder_uc (s : State) : (settleOrder s).uc = s.uc := by
  refine Eq.trans ?_ (settleEngine_uc s)
  unfold settleOrder settleMeasured
  split
  · exact judgeCalibration_uc _
  · rfl

/-! ## All of them (R174) -/

/-- The unit enters RUNNING at the end of an event only with the tracker TRACKING (R174). -/
theorem settle_uc (homing : s.tracker.state ≠ .tracking) : (settle s).uc = s.uc := by
  let v : State := settleDrain (forHeads settleRequest (settleOrder (settlePassages (forHeads settleSeries s))))
  have uc : v.uc = s.uc := by
    have series := (forHeads_atRest settleSeries settleSeries_atRest s).uc
    have requests := (forHeads_atRest settleRequest settleRequest_atRest
      (settleOrder (settlePassages (forHeads settleSeries s)))).uc
    exact (settleDrain_atRest _).uc.trans (requests.trans
      ((settleOrder_uc _).trans ((settlePassages_uc _).trans series)))
  have tracker : v.tracker = s.tracker := by
    have series := forHeads_steady (fun h _ => settleSeries_steady h) (Steady.refl s)
    exact (settleDrain_steady (forHeads_steady (fun h _ => settleRequest_steady h)
      (settleOrder_steady (settlePassages_steady series)))).tracker
  have waits : v.startEnded ≠ true := fun ended => by
    obtain ⟨_, _, tracking, _⟩ := (startEnded_iff v).mp ended
    exact homing (tracker ▸ tracking)
  have same : settle s = v := if_neg waits
  rw [same, uc]

end

end Sys2Proof.Machine
end

section
/-! START and the Cell Record's read (10.2: R173): the values zeroed, a record that fails, and one that is taken. -/

namespace Sys2Proof.Machine

/-! ## What the entry to FAULTED leaves of the values of START (R178) -/

section
variable {s : State}

theorem offerGap_notice (h : Head) (s : State) {n : Notice} (other : n ≠ .stageHalf) :
    (offerGap h s).notice n = s.notice n := by
  unfold offerGap takeGap
  split
  · rfl
  · split
    · rfl
    · split
      · exact takeRecord_notice _ _ other
      · rfl

theorem offerGaps_notice (s : State) {n : Notice} (other : n ≠ .stageHalf) :
    (offerGaps s).notice n = s.notice n := by
  refine inFreeOrder_kept (fun t => t.notice n = s.notice n) offerGap
    (fun h u k => (offerGap_notice h u other).trans k) (fun n u k => ?_) _ _ s rfl
  obtain ⟨_, e⟩ := chosen_eq u n
  rw [e]
  exact k

/-- With no gap pending none is offered (R155). -/
theorem offerGaps_none (none : ∀ h, (s.ports.get h).gap = none) : offerGaps s = s := by
  have heads : s.gapHeads = [] := List.filter_eq_nil_iff.mpr fun h _ => by
    rw [State.gapPending, none h]
    exact Bool.false_ne_true
  rw [offerGaps, heads]
  rfl

theorem endPassage_buffer (h : Head) (s : State) : (endPassage h s).sb = s.sb ∧ (endPassage h s).xe = s.xe := by
  unfold endPassage
  split <;> exact ⟨rfl, rfl⟩

theorem forHeads_endPassage_buffer (s : State) :
    (forHeads endPassage s).sb = s.sb ∧ (forHeads endPassage s).xe = s.xe := by
  unfold forHeads
  simp only [endPassage_buffer, and_self]

theorem readsReleased_only (s : State) : ∃ bus stray, letGoCell (letGoOrder s) = { s with
    oe := { s.oe with doing := .none }
    uc := { s.uc with cellReading := false }
    xe := { s.xe with bus := bus, stray := stray } } := by
  obtain ⟨_, _, order, _⟩ := letGoOrder_only s
  obtain ⟨_, _, cell, _⟩ := letGoCell_only (letGoOrder s)
  rw [cell, order]
  exact ⟨_, _, rfl⟩

theorem faultBegun_notice (s : State) {n : Notice} (other : n ≠ .stageHalf) :
    s.faultBegun.notice n = s.notice n := by
  obtain ⟨_, _, reads⟩ := readsReleased_only s
  have disarmed : (disarmScans (letGoCell (letGoOrder s))).notice n = s.notice n := by
    rw [disarmScans, offerGaps_notice _ other, reads]
    rfl
  rw [← disarmed, State.notice, State.faultBegun, (forHeads_endPassage_buffer _).2]
  rfl

theorem faultBegun_buffer (none : ∀ h, (s.ports.get h).gap = none) : s.faultBegun.sb = s.sb := by
  obtain ⟨_, _, reads⟩ := readsReleased_only s
  have start : (forHeads disarmScanOnly (letGoCell (letGoOrder s))).ports = s.ports := by
    rw [reads]
    rfl
  rw [State.faultBegun, (forHeads_endPassage_buffer _).1, disarmScans,
    offerGaps_none (by rw [start]; exact none), reads]
  rfl

/-- At the entry to FAULTED the tag, the cursor and POWER_ON stand, and with no gap pending the buffer does. -/
theorem enterFaulted_keepsStart (c : FaultCause) (other : s.uc.unit ≠ .faulted) :
    (enterFaulted c s).oe.activeTag = s.oe.activeTag ∧ (enterFaulted c s).rw.cursor = s.rw.cursor
    ∧ (enterFaulted c s).notice .powerOn = s.notice .powerOn
    ∧ ((∀ h, (s.ports.get h).gap = none) → (enterFaulted c s).sb = s.sb) := by
  obtain ⟨_, _, reads⟩ := readsReleased_only s
  obtain ⟨steady, order, _, _⟩ := disarmedAll_spec (letGoCell (letGoOrder s))
  have begun : forHeads endPassage (disarmScans (letGoCell (letGoOrder s))) = s.faultBegun := rfl
  have tag : s.faultBegun.oe.activeTag = s.oe.activeTag := by rw [← begun, order, reads]
  have cursor : s.faultBegun.rw.cursor = s.rw.cursor := by rw [← begun, steady.cursor, reads]
  have power := faultBegun_notice s (n := .powerOn) nofun
  have buffer := faultBegun_buffer (s := s)
  have apart : (Notice.mask .unitFault).getLsbD Notice.powerOn.bit = false := by decide
  unfold enterFaulted
  rw [if_neg other]
  dsimp only
  rw [begun]
  generalize s.faultBegun = v at tag cursor power buffer
  rw [enterUnit, requestPage_oe, requestPage_rw, requestPage_notice, requestPage_sb]
  refine ⟨tag, cursor, ?_, buffer⟩
  rw [← power]
  unfold State.notice setNotice
  rw [BitVec.getLsbD_or, apart, Bool.or_false]

end

/-! ## START at its acceptance (R173, R14, R154) -/

section
variable (s : State)

/-- The state after START's acceptance, before the read of the Cell Record. -/
def State.started : State := requestPage (startUnit (readBack 1 .accepted s))

/-- From `s` to `u` START has been accepted: the unit STARTING, its values zeroed, the ports and the records standing. -/
structure Started (s u : State) : Prop where
  unit : u.uc = { s.uc with unit := .starting, cause := none }
  revolution : u.tracker.revolution = 0
  highWater : u.sb.highWater = 0
  cursor : u.rw.cursor = 0
  tag : u.oe.activeTag = 0
  powerOn : u.notice .powerOn = false
  ports : u.ports = s.ports
  staged : u.sb.staged = s.sb.staged
  base : u.xbase = s.xbase
  registers : SameRegisters (readBack 1 .accepted s) u
  page : ∃ page : List BusEvent, (∀ e ∈ page, ∃ w, e = .write .statusPage w) ∧ u.xe.bus = s.xe.bus ++ page

theorem started_spec : Started s s.started := by
  let v : State := startUnit (readBack 1 .accepted s)
  have accepted : SameRegisters (readBack 1 .accepted s) v := ⟨rfl, rfl, rfl, rfl, rfl, rfl, rfl⟩
  have registers := accepted.trans (requestPage_registers v)
  have cleared : v.notice .powerOn = false := by
    have apart : (~~~Notice.mask .powerOn).getLsbD Notice.powerOn.bit = false := by decide
    change (s.xe.noteRaw &&& ~~~Notice.mask .powerOn).getLsbD _ = false
    rw [BitVec.getLsbD_and, apart, Bool.and_false]
  have base : (requestPage v).xbase = s.xbase := by
    rw [State.xbase, registers.xbaseL, registers.xbaseH]
    rfl
  exact ⟨requestPage_uc v, congrArg Tracker.revolution (requestPage_tracker v),
    congrArg Staging.highWater (requestPage_sb v), congrArg Writer.cursor (requestPage_rw v),
    congrArg OrderEngine.activeTag (requestPage_oe v), (requestPage_notice v _).trans cleared, requestPage_ports v,
    (congrArg Staging.staged (requestPage_sb v) :), base, registers, requestPage_bus v⟩

theorem exec_start (opened : s.uc.unit = .stopped ∧ s.uc.stopping = false) :
    exec .start s = .next (readCell s.started) :=
  congrArg Host.Outcome.next (command_accepted _ (acceptsStart_iff.mpr opened))

theorem readCell_begins {u : State} (based : u.xbase ≠ 0) :
    readCell u = beginRead .cellRecord u.xbase 1024 { u with uc := { u.uc with cellReading := true } } :=
  if_neg based

theorem readCell_faults {u : State} (unbased : u.xbase = 0) : readCell u = enterFaulted .cellInvalid u :=
  if_pos unbased

end

end Sys2Proof.Machine
end

section
/-! The checks of the Cell Record, of a zone table and of a correction table, by the fields they read (R3, R20, R21,
R47, R71, R100, R157, R173). -/

namespace Sys2Proof.Machine

/-! ## The Cell Record (R173) -/

theorem forall_head_iff (p : Head → Bool) : Head.all.all p = true ↔ ∀ h, p h = true :=
  List.all_eq_true.trans ⟨fun all h => all h (mem_all h), fun all h _ => all h⟩

theorem exists_head_iff (p : Head → Bool) : Head.all.any p = true ↔ ∃ h, p h = true :=
  List.any_eq_true.trans ⟨fun ⟨h, _, is⟩ => ⟨h, is⟩, fun ⟨h, is⟩ => ⟨h, mem_all h, is⟩⟩

/-- A head's record is not checked where the head is absent (R47, R184). -/
theorem headChecked_iff (c : HeadConfig) (cpr : Nat) :
    (!c.present || (c.inRange && decide (c.mount < cpr))) = true
      ↔ (c.present = true → c.mount < cpr ∧ c.timeout ≠ 0 ∧ c.blank ≤ 15 ∧ c.action ≠ none) := by
  cases present : c.present with
  | false => simp
  | true =>
    simp only [HeadConfig.inRange, Bool.not_true, Bool.false_or, Bool.and_eq_true, bne_iff_ne, decide_eq_true_eq,
      Option.isSome_iff_ne_none, forall_const]
    tauto

theorem cellRecord_valid_iff (c : CellRecord) : c.valid = true ↔
    1024 ≤ c.cpr ∧ c.cpr ≤ 16777216 ∧ c.origin < c.cpr ∧ c.sense ≠ none ∧ 1 ≤ c.maxPeriod
    ∧ (∀ h, (c.heads.get h).present = true → (c.heads.get h).mount < c.cpr ∧ (c.heads.get h).timeout ≠ 0
        ∧ (c.heads.get h).blank ≤ 15 ∧ (c.heads.get h).action ≠ none)
    ∧ (∃ h, (c.heads.get h).present = true)
    ∧ c.refStart < c.cpr ∧ 1 ≤ c.refLength ∧ c.refLength < c.cpr ∧ 1 ≤ c.refPitch ∧ c.refPitch ≤ c.refLength
    ∧ 1 ≤ c.interval ∧ c.driftAction ≠ none ∧ 1 ≤ c.stallLimit ∧ 1 ≤ c.lightGrace ∧ c.lightGrace ≤ 15
    ∧ c.recovery ≠ none ∧ c.mon0 ≠ none ∧ c.mon1 ≠ none := by
  simp only [CellRecord.valid, Bool.and_eq_true, decide_eq_true_eq, forall_head_iff, exists_head_iff,
    headChecked_iff, Option.isSome_iff_ne_none, and_assoc]

/-- A code of two names stands for one where it is 0 or 1. -/
theorem twoCodes_iff {α : Type} (a b : α) (n : Nat) :
    (match n with
      | 0 => some a
      | 1 => some b
      | _ => none) ≠ none ↔ n ≤ 1 := by
  match n with
  | 0 | 1 => simp
  | n + 2 => simp

theorem faultActionOf_iff (n : Nat) : faultActionOf n ≠ none ↔ n ≤ 2 := by
  match n with
  | 0 | 1 | 2 => simp [faultActionOf]
  | n + 3 => simp [faultActionOf]

theorem monSelectionOf_iff (b : Byte) : monSelectionOf b ≠ none ↔ b.toNat % 8 ≤ 4 := by
  unfold monSelectionOf
  generalize b.toNat % 8 = n
  match n with
  | 0 | 1 | 2 | 3 | 4 => simp
  | n + 5 => simp

/-! ## A zone table (R20, R21, R133) -/

theorem zonesLength_eq_sum (zones : List Zone) : zonesLength zones = (zones.map (·.length)).sum := by
  induction zones with
  | nil => rfl
  | cons z zs ih => rw [zonesLength, ih, List.map_cons, List.sum_cons]

section
variable {cpr : Nat}

/-- A sum of two angles below CPR wraps once. -/
theorem add_mod_once {a b : Nat} (ha : a < cpr) (hb : b < cpr) :
    (a + b) % cpr = if a + b < cpr then a + b else a + b - cpr := by
  split
  · exact Nat.mod_eq_of_lt ‹_›
  · rw [Nat.mod_eq_sub_mod (by omega), Nat.mod_eq_of_lt (by omega)]

theorem windowOffset_below {start a : Nat} (hs : start < cpr) (ha : a < cpr) :
    windowOffset cpr start a = if start ≤ a then a - start else a + cpr - start := by
  unfold windowOffset
  rw [Nat.mod_eq_of_lt hs]
  by_cases zero : start = 0
  · subst zero
    rw [Nat.sub_zero, Nat.add_mod_right, Nat.mod_eq_of_lt ha, if_pos (Nat.zero_le a)]
    rfl
  · rw [add_mod_once ha (by omega)]
    repeat' split
    all_goals omega

/-- The offset of an angle from a window's start leads from the start to that angle. -/
theorem start_add_windowOffset {start a : Nat} (hs : start < cpr) (ha : a < cpr) :
    (start + windowOffset cpr start a) % cpr = a := by
  rw [windowOffset_below hs ha]
  split
  · rw [Nat.add_sub_cancel' ‹_›, Nat.mod_eq_of_lt ha]
  · rw [Nat.add_sub_cancel' (by omega), Nat.add_mod_right, Nat.mod_eq_of_lt ha]

/-- Two windows below CPR share an angle where one begins within the other (R21). -/
theorem windowsOverlap_iff {t : ZoneTable} {c : RefConfig} (start : t.start < cpr) (fits : t.length ≤ cpr)
    (some : 1 ≤ t.length) (refStart : c.start < cpr) (refSome : 1 ≤ c.length) (refFits : c.length < cpr) :
    windowsOverlap cpr t c = true ↔
      ∃ o p : Nat, o < t.length ∧ p < c.length ∧ (t.start + o) % cpr = (c.start + p) % cpr := by
  rw [windowsOverlap, Bool.or_eq_true, decide_eq_true_eq, decide_eq_true_eq]
  constructor
  · rintro (within | within)
    · refine ⟨_, 0, within, refSome, ?_⟩
      rw [start_add_windowOffset start refStart, Nat.add_zero, Nat.mod_eq_of_lt refStart]
    · refine ⟨0, _, some, within, ?_⟩
      rw [start_add_windowOffset refStart start, Nat.add_zero, Nat.mod_eq_of_lt start]
  · rintro ⟨o, p, ho, hp, same⟩
    rw [add_mod_once start (by omega), add_mod_once refStart (by omega)] at same
    rw [windowOffset_below start refStart, windowOffset_below refStart start]
    by_cases order : t.start ≤ c.start
    all_goals
      by_cases back : c.start ≤ t.start
      all_goals
        simp only [order, back, if_true, if_false]
        repeat' split at same
        all_goals omega

end

theorem geometryOk_iff (cpr : Nat) (t : ZoneTable) : t.geometryOk cpr = true ↔
    t.start < cpr ∧ (∀ z ∈ t.zones, 1 ≤ z.length ∧ z.length ≤ cpr) ∧ t.length ≤ cpr
    ∧ (t.full = true ↔ t.length = cpr) := by
  have full : (t.full == decide (t.length = cpr)) = true ↔ (t.full = true ↔ t.length = cpr) := by
    by_cases whole : t.length = cpr <;> cases t.full <;> simp [whole]
  simp only [ZoneTable.geometryOk, Bool.and_eq_true, decide_eq_true_eq, List.all_eq_true, full, and_assoc]

/-- What is out of range in a table that fails ZONE_GEOMETRY (R20). -/
theorem geometryFails_iff (cpr : Nat) (t : ZoneTable) : (!t.geometryOk cpr) = true ↔
    cpr ≤ t.start ∨ (∃ z ∈ t.zones, z.length = 0 ∨ cpr < z.length) ∨ cpr < t.length
    ∨ (t.full = true ∧ t.length ≠ cpr) ∨ (t.full = false ∧ t.length = cpr) := by
  rw [Bool.not_eq_true', ← Bool.not_eq_true, geometryOk_iff, not_and_or, not_and_or, not_and_or]
  refine or_congr Nat.not_lt (or_congr ?_ (or_congr Nat.not_le ?_))
  · push Not
    refine exists_congr fun z => and_congr_right fun _ => ?_
    omega
  · cases t.full <;> simp

/-- A zone table with a count in range has a zone, and with lengths in range angles (R18, R20). -/
theorem one_le_length {bs : List Byte} {cpr : Nat} (count : ¬(zoneCount bs = 0 ∨ 32 < zoneCount bs))
    (geometry : (readZoneTable bs).geometryOk cpr = true) : 1 ≤ (readZoneTable bs).length := by
  have zones : (readZoneTable bs).zones = (List.range (zoneCount bs)).map (readZone bs) := if_pos (by omega)
  have first : readZone bs 0 ∈ (readZoneTable bs).zones := by
    rw [zones]
    exact List.mem_map_of_mem (List.mem_range.mpr (by omega))
  obtain ⟨_, lengths, _⟩ := (geometryOk_iff cpr _).mp geometry
  rw [ZoneTable.length, zonesLength_eq_sum]
  exact (lengths _ first).1.trans (List.single_le_sum (fun _ _ => Nat.zero_le _) _ (List.mem_map_of_mem first))

section
variable {cpr count : Nat} {t : ZoneTable} {mask : HeadSet} {checks : Bool} {ref : Option RefConfig}
  {c8 c9 c10 c11 c12 c13 : Prop}

/-- The first check that fails gives its number (R133). -/
theorem zoneTableCheck_first (h8 : count = 0 ∨ 32 < count ↔ c8) (h9 : (!t.geometryOk cpr) = true ↔ c9)
    (h10 : (t.zones.any fun z => z.pitch == 0 || decide (z.length < z.pitch)) = true ↔ c10)
    (h11 : (t.zones.any fun z => z.burst == 0 || decide (8 < z.burst)) = true ↔ c11)
    (h12 : (t.zones.any fun z => Head.all.any fun h => z.mask.get h && !mask.get h) = true ↔ c12)
    (h13 : ¬c8 → ¬c9 → ((checks && match ref with
      | some c => windowsOverlap cpr t c
      | none => false) = true ↔ c13)) :
    let check := zoneTableCheck cpr count t mask checks ref
    (c8 → check = some 8) ∧ (¬c8 → c9 → check = some 9) ∧ (¬c8 → ¬c9 → c10 → check = some 10)
    ∧ (¬c8 → ¬c9 → ¬c10 → c11 → check = some 11) ∧ (¬c8 → ¬c9 → ¬c10 → ¬c11 → c12 → check = some 12)
    ∧ (¬c8 → ¬c9 → ¬c10 → ¬c11 → ¬c12 → c13 → check = some 13)
    ∧ (¬c8 → ¬c9 → ¬c10 → ¬c11 → ¬c12 → ¬c13 → check = none) := by
  intro check
  simp only [check, zoneTableCheck]
  refine ⟨fun f8 => ?_, fun p8 f9 => ?_, fun p8 p9 f10 => ?_, fun p8 p9 p10 f11 => ?_,
    fun p8 p9 p10 p11 f12 => ?_, fun p8 p9 p10 p11 p12 f13 => ?_, fun p8 p9 p10 p11 p12 p13 => ?_⟩
  · rw [if_pos (h8.mpr f8)]
  all_goals rw [if_neg (mt h8.mp p8)]
  · rw [if_pos (h9.mpr f9)]
  all_goals rw [if_neg (mt h9.mp p9)]
  · rw [if_pos (h10.mpr f10)]
  all_goals rw [if_neg (mt h10.mp p10)]
  · rw [if_pos (h11.mpr f11)]
  all_goals rw [if_neg (mt h11.mp p11)]
  · rw [if_pos (h12.mpr f12)]
  all_goals rw [if_neg (mt h12.mp p12)]
  · exact if_pos ((h13 p8 p9).mpr f13)
  · exact if_neg (mt (h13 p8 p9).mp p13)

end

/-! ## A correction table (R71, R73) -/

theorem byteAt_drop (bs : List Byte) (n i : Nat) : byteAt (bs.drop n) i = byteAt bs (n + i) := by
  simp [byteAt, List.getD_eq_getElem?_getD]

theorem leNat_drop (bs : List Byte) (n i k : Nat) : leNat (bs.drop n) i k = leNat bs (n + i) k := by
  induction k generalizing i with
  | zero => rfl
  | succ k ih => rw [leNat, leNat, byteAt_drop, ih, Nat.add_assoc]

theorem leInt32_drop (bs : List Byte) (n i : Nat) : leInt32 (bs.drop n) i = leInt32 bs (n + i) :=
  congrArg signed32 (leNat_drop bs n i 4)

theorem length_readPoints (n : Nat) (bs : List Byte) : (readPoints n bs).length = n := by
  induction n generalizing bs with
  | zero => rfl
  | succ n ih => rw [readPoints, List.length_cons, ih]

/-- The points follow one another four bytes apart (11.2). -/
theorem getElem?_readPoints (n i : Nat) (bs : List Byte) (within : i < n) :
    (readPoints n bs)[i]? = some (leInt32 bs (4 * i)) := by
  induction n generalizing bs i with
  | zero => exact absurd within (Nat.not_lt_zero i)
  | succ n ih =>
    cases i with
    | zero => rfl
    | succ i =>
      rw [readPoints, List.getElem?_cons_succ, ih i _ (Nat.lt_of_succ_lt_succ within), leInt32_drop]
      congr 2
      omega

theorem correctionTableValid_iff (bs : List Byte) (h : Head) : correctionTableValid bs h = true ↔
    (byteAt bs 0).toNat = h.num ∧ (correctionPoints bs).sum % 4294967296 = (leNat bs 4 4 : Int)
    ∧ ∀ p ∈ correctionPoints bs, -536870912 ≤ p ∧ p ≤ 536870911 := by
  simp only [correctionTableValid, Bool.and_eq_true, beq_iff_eq, List.all_eq_true, decide_eq_true_eq, and_assoc]

end Sys2Proof.Machine
end

section
/-! A Cell Record that passes (10.2: R173): every block takes its values, and the present heads are woken. -/

namespace Sys2Proof.Machine

/-! ## What the wakes of START leave (R43, R174) -/

section
variable {s t u : State}

/-- From `s` to `t` the tracker, the light, the lines' configuration, unit control and the registers stand. -/
structure WakesStand (s t : State) : Prop where
  tracker : t.tracker = s.tracker
  light : t.light = s.light
  lines : t.sf.config = s.sf.config
  unit : t.uc = s.uc
  registers : SameRegisters s t

theorem WakesStand.refl (s : State) : WakesStand s s := ⟨rfl, rfl, rfl, rfl, .refl s⟩

theorem WakesStand.trans (first : WakesStand s t) (next : WakesStand t u) : WakesStand s u :=
  ⟨next.tracker.trans first.tracker, next.light.trans first.light, next.lines.trans first.lines,
    next.unit.trans first.unit, first.registers.trans next.registers⟩

theorem onPort_wakesStand (h : Head) (f : Port → Port) (s : State) : WakesStand s (s.onPort h f) :=
  ⟨rfl, rfl, rfl, rfl, rfl, rfl, rfl, rfl, rfl, rfl, rfl⟩

theorem leaveReady_wakesStand (h : Head) (s : State) : WakesStand s (leaveReady h false s) := by
  have steady : Steady (s.onPort h fun p => { p with inFlight := [] }) (leaveReady h false s) :=
    leaveReady_steady h false (Steady.refl _)
  have emptied := onPort_wakesStand h (fun p => { p with inFlight := [] }) s
  exact ⟨steady.tracker, steady.light, steady.lineConfig, leaveReady_unit,
    emptied.registers.trans steady.registers⟩

theorem wakePresent_wakesStand (h : Head) (s : State) : WakesStand s (wakePresent h s) := by
  unfold wakePresent
  split
  · rcases wakeHead_cases h s with e | ⟨f, _, e | e⟩ <;> rw [e]
    · exact .refl s
    · exact onPort_wakesStand h f s
    · exact (leaveReady_wakesStand h s).trans (onPort_wakesStand h f _)
  · exact .refl s

theorem wakePresent_other {h k : Head} (other : k ≠ h) (s : State) :
    (wakePresent h s).ports.get k = s.ports.get k := by
  unfold wakePresent
  split
  · exact wakeHead_other other
  · rfl

/-- What START makes of the port `p` of a head with record `c`: an absent head's state stands, and a present one that is
OFF, with the light condition clear, is WAKING with its codes and timeout (R43, R173). -/
structure StartWoken (c : HeadConfig) (lit : Bool) (p q : Port) : Prop where
  config : q.config = some c
  absent : c.present = false → q.state = p.state
  woken : c.present = true → lit = false → p.state = .off →
    q.state = .waking ∧ q.timeoutInForce = c.timeout ∧ q.sent = p.sent ++ [.wake c.codes c.timeout]

theorem wakePresent_absent {h : Head} {c : HeadConfig} (held : (s.ports.get h).config = some c)
    (absent : c.present = false) : wakePresent h s = s :=
  if_neg (by rw [held]; exact ne_true_of_eq_false absent)

theorem wakePresent_present {h : Head} {c : HeadConfig} (held : (s.ports.get h).config = some c)
    (present : c.present = true) : wakePresent h s = wakeHead h s :=
  if_pos (by rw [held]; exact present)

theorem wakePresent_own {h : Head} {c : HeadConfig} (held : (s.ports.get h).config = some c) :
    StartWoken c s.light.present (s.ports.get h) ((wakePresent h s).ports.get h) := by
  cases present : c.present with
  | false =>
    rw [wakePresent_absent held present]
    exact ⟨held, fun _ => rfl, fun is => absurd (present.symm.trans is) nofun⟩
  | true =>
    rw [wakePresent_present held present]
    refine ⟨wakeHead_config.trans held, fun is => absurd (present.symm.trans is) nofun, fun _ clear off => ?_⟩
    rw [wakeHead_awake clear (.inl off), onPort_ports, get_set_same, sendWake_held held]
    exact ⟨rfl, rfl, rfl⟩

/-- The present heads woken, head by head. -/
theorem forHeads_wakePresent {c : PerHead HeadConfig} (held : ∀ h, (s.ports.get h).config = some (c.get h))
    (h : Head) :
    StartWoken (c.get h) s.light.present (s.ports.get h) ((forHeads wakePresent s).ports.get h) := by
  refine forHeads_own (fun u h => u.ports.get h) (WakesStand s)
    (fun h q => StartWoken (c.get h) s.light.present (s.ports.get h) q) wakePresent (.refl s)
    (fun k u kept => kept.trans (wakePresent_wakesStand k u)) (fun h k u other => wakePresent_other other u)
    (fun h u kept same => ?_) h
  rw [← kept.light, ← same]
  exact wakePresent_own (by rw [same, held h])

theorem forHeads_wakesStand (s : State) : WakesStand s (forHeads wakePresent s) :=
  (wakePresent_wakesStand .h0 s).trans ((wakePresent_wakesStand .h1 _).trans
    ((wakePresent_wakesStand .h2 _).trans (wakePresent_wakesStand .h3 _)))

/-! ## The record taken (R3, R7, R173) -/

/-- From `s` to `u` a Cell Record has been taken and the present heads woken: the tracker SEEKING, the unit waiting for
the present heads that are then WAKING (R7, R173, R174). -/
structure CellTaken (c : CellRecord) (sense : Sense) (s u : State) : Prop where
  tracker : u.tracker = { s.tracker with
    state := .seeking, rawCount := 0, travel := none, indexWatch := .stopped
    homingTimer := .running s.xe.time (1000 * c.maxPeriod)
    config := some { cpr := c.cpr, origin := c.origin, sense := sense, maxPeriod := c.maxPeriod } }
  lines : u.sf.config = some c.span
  unit : u.uc = { s.uc with startWakes := u.uc.startWakes }
  waits : ∀ h, u.uc.startWakes.get h = true ↔ (c.heads.get h).present = true ∧ (u.ports.get h).state = .waking
  ports : ∀ h, StartWoken (c.heads.get h) s.light.present (s.ports.get h) (u.ports.get h)
  registers : SameRegisters s u

theorem startWakes_cellTaken {c : CellRecord} {sense : Sense} (known : c.sense = some sense) (s : State) :
    CellTaken c sense s (startWakes (takeCell c s)) := by
  have taken : SameRegisters s (takeCell c s) := ⟨rfl, rfl, rfl, rfl, rfl, rfl, rfl⟩
  have held : ∀ h, ((takeCell c s).ports.get h).config = some (c.heads.get h) := fun h => by
    rw [takeCell, get_of]
  have stands := forHeads_wakesStand (takeCell c s)
  have ports : ∀ h, StartWoken (c.heads.get h) s.light.present (s.ports.get h)
      ((forHeads wakePresent (takeCell c s)).ports.get h) := fun h => by
    obtain ⟨config, absent, woken⟩ := forHeads_wakePresent held h
    rw [takeCell, get_of] at absent woken
    exact ⟨config, absent, woken⟩
  unfold startWakes
  dsimp only
  generalize forHeads wakePresent (takeCell c s) = t at stands ports
  refine ⟨?_, stands.lines, ?_, fun h => ?_, ports, taken.trans ?_⟩
  · dsimp only
    rw [stands.tracker, takeCell, known]
    rfl
  · dsimp only
    rw [stands.unit]
    rfl
  · dsimp only
    rw [get_of, (ports h).config]
    simp
  · exact stands.registers.trans ⟨rfl, rfl, rfl, rfl, rfl, rfl, rfl⟩

/-- The steps at the end of the event leave a record taken as it is: homing goes on, so the unit stays STARTING. -/
theorem CellTaken.settled {c : CellRecord} {sense : Sense} (k : CellTaken c sense s u) :
    CellTaken c sense s (settle u) := by
  have steady := settle_steady (Steady.refl u)
  have unit : (settle u).uc = u.uc := settle_uc (by rw [k.tracker]; exact nofun)
  refine ⟨steady.tracker.trans k.tracker, steady.lineConfig.trans k.lines, ?_, fun h => ?_, fun h => ?_,
    k.registers.trans steady.registers⟩
  · rw [unit]
    exact k.unit
  · rw [unit, (steady.ports h).state]
    exact k.waits h
  · have link := steady.ports h
    obtain ⟨config, absent, woken⟩ := k.ports h
    exact ⟨link.config.trans config, fun is => link.state.trans (absent is), fun is clear off => by
      rw [link.state, link.timeoutInForce, link.sent]
      exact woken is clear off⟩

/-! ## The end of the Cell Record's read (R173) -/

/-- The state at the end of the Cell Record's read. -/
def State.cellDone (s : State) (r : ReadResult) : State :=
  endRead .cellRecord r { s with uc := { s.uc with cellReading := false } }

theorem cellDone_stands (s : State) (r : ReadResult) : (s.cellDone r).uc = { s.uc with cellReading := false }
    ∧ (s.cellDone r).tracker = s.tracker ∧ (s.cellDone r).ports = s.ports ∧ (s.cellDone r).light = s.light
    ∧ SameRegisters s (s.cellDone r) := by
  cases r <;> exact ⟨rfl, rfl, rfl, rfl, rfl, rfl, rfl, rfl, rfl, rfl, rfl⟩

theorem exec_cellRecordRead (r : ReadResult) (own : s.isStray .cellRecord = false)
    (reading : s.uc.cellReading = true) :
    exec (.cellRecordRead r) s = .next (settle (cellFound r (s.cellDone r))) := by
  change execCellRecordRead r s = _
  rw [execCellRecordRead, own, if_neg Bool.false_ne_true, if_pos reading]
  rfl

/-- A read error, and a record that fails a check, fault the unit (R173). -/
theorem cellFound_fails {bytes : List Byte} {r : ReadResult} (u : State)
    (fails : r = .error ∨ (r = .data bytes ∧ (readCellRecord bytes).valid = false)) :
    cellFound r u = enterFaulted .cellInvalid u := by
  rcases fails with rfl | ⟨rfl, invalid⟩
  · rfl
  · exact if_neg (ne_true_of_eq_false invalid)

theorem cellFound_passes {bytes : List Byte} {c : CellRecord} (u : State) (record : readCellRecord bytes = c)
    (valid : c.valid = true) : cellFound (.data bytes) u = startWakes (takeCell c u) := by
  subst record
  exact if_pos valid

end

end Sys2Proof.Machine
end

section
/-! The statements of 10 (registers, unit control and notices), settled. -/

open Sys2Proof Sys2Proof.Machine

/-- Settles O3, by what every command keeps. -/
theorem commandsLeaveQueueAndIdleStepsCount : Obligations.CommandsLeaveQueueAndIdleStepsCount := by
  refine ⟨fun c s => ?_, fun s empty => step_idle empty⟩
  obtain ⟨t, answer⟩ := exec_answers c s
  exact ⟨t, answer, exec_keepsPending c answer⟩

/-- Settles O55, by the three things a write of the row can do. -/
theorem baseWrittenInStoppedOnly : Obligations.BaseWrittenInStoppedOnly := by
  intro s offset enables v open_
  rw [exec_registerWrite]
  refine ⟨fun opened low => ?_, fun opened high => ?_, fun ignored => ?_⟩
  · rw [if_pos opened, if_pos low]
  · rw [if_pos opened, high]
    rfl
  · rcases ignored with shut | ⟨low, high⟩
    · rw [if_neg shut]
    · rw [if_neg low, if_neg high, ite_self]

/-- Settles O52, block by block. -/
theorem coldResetGivesResetState : Obligations.ColdResetGivesResetState := by
  refine ⟨fun _ _ => rfl, rfl, rfl, rfl, ?_, rfl, rfl, rfl, rfl, rfl, rfl, rfl, rfl, rfl, rfl, rfl, rfl, rfl, rfl,
    rfl, rfl, rfl, rfl, fun h => ?_⟩
  · decide
  · cases h <;> exact ⟨rfl, rfl, rfl, rfl, rfl, rfl⟩

/-- Settles O53: each receiver by the cases of its own state, one after the other. -/
theorem nudgeReachesItsReceivers : Obligations.NudgeReachesItsReceivers := by
  intro s v atPark atTable
  refine ⟨?_, fun o link w entry park table => ?_, fun w => rfl⟩
  · obtain ⟨o, link, park⟩ := exists_parkTakes s
    obtain ⟨w, entry, table⟩ := exists_tableTakes s
    exact ⟨o, link, w, entry, park, table⟩
  · change Host.Outcome.next (starvedRecheck (parkRecheck s)) = _
    rw [parkRecheck_takes (s := s) park]
    exact congrArg Host.Outcome.next (starvedRecheck_takes
      (s := { s with oe := o, xe := { s.xe with bus := s.xe.bus ++ link } }) table)

/-- Settles O54: the bits cleared one notice at a time, the light condition of LATCHED, and the level as the bits that
are set in both registers. -/
theorem noticesAndInterrupt : Obligations.NoticesAndInterrupt := by
  refine ⟨fun s v => ⟨noticesCleared_notice s v, fun stands => ?_, fun clears => ?_, exec_noteEnWrite s v⟩,
    fun s => ⟨interrupt_iff s, interrupt_disabled s, fun n v raw enabled => ⟨_, exec_noteEnWrite s v, ?_⟩⟩⟩
  · rw [exec_noteRawWrite, if_neg (mt (writeClearsLight_iff s v).mp stands)]
    rfl
  · rw [exec_noteRawWrite, if_pos ((writeClearsLight_iff s v).mpr clears), lightClears_eq]
    refine ⟨_, rfl, ?_⟩
    simp only [wokenAt_eq]
    exact settle_steady (Steady.refl _)
  · refine interrupt_raised _ (n := n) raw ?_
    rw [BitVec.getLsbD_setWidth, decide_eq_true (bit_lt n), Bool.true_and, enabled]

/-- Settles O48, by the conditions of the two entries and by the page that was or was not asked for meanwhile. -/
theorem unitEntriesComplete : Obligations.UnitEntriesComplete := by
  intro s ready complete
  refine ⟨fun is => ?_, fun not => ?_, fun is => ?_, fun not => ?_, fun own busy => ⟨fun queued => ?_, fun alone => ?_⟩⟩
  · have run := followLink_runningAt s s.anchor fun o => { o with chain := some s.anchor }
    refine ⟨_, ?_, run.unit, run.engine, run.bus, run.ports, run.staged, run.writer, run.tracker, run.registers⟩
    rw [exec_unitRunning, settleUnit, if_pos ((startEnded_iff s).mpr is)]
    rfl
  · rw [exec_unitRunning, settleUnit, if_neg (mt (startEnded_iff s).mp not)]
  · rw [exec_stoppedEntryComplete, if_pos ((stopComplete_iff s).mpr is)]
  · rw [exec_stoppedEntryComplete, if_neg (mt (stopComplete_iff s).mp not)]
  · rw [exec_statusPageWritten s own busy, if_pos queued, beginPage_pageEnded s busy, settleStopped_not]
    intro ended
    obtain ⟨_, _, _, free, _⟩ := (stopComplete_iff _).mp ended
    exact absurd (busy.symm.trans free) nofun
  · rw [exec_statusPageWritten s own busy, if_neg (ne_true_of_eq_false alone)]
    obtain ⟨uc, only⟩ := settleStopped_only s.pageEnded
    refine ⟨_, rfl, ?_, fun stopping unit still => ?_, ?_, ?_, ?_, ?_⟩
    · rw [only]
      rfl
    · rw [settleStopped, if_pos ((stopComplete_iff s.pageEnded).mpr ⟨stopping, unit, still, rfl, alone⟩)]
    all_goals
      rw [only]
      rfl

/-- Settles O49, command by command and state by state. -/
theorem commandsJudgedByUnitState : Obligations.CommandsJudgedByUnitState := by
  intro s answered
  refine ⟨exec_start_refused, exec_halt_refused, exec_abort_refused, exec_resume_refused, exec_stop_refused,
    exec_stop_stopped, exec_halt_halting, fun running => ?_, fun runs => ?_, fun p held point => ?_⟩
  · obtain ⟨unit, engine, _, _, registers⟩ := enterUnit_spec (readBack 2 .accepted s) .halting
    exact ⟨_, exec_halt_running running, unit, engine, requestPage_rw _, requestPage_sb _, requestPage_ports _,
      registers⟩
  · have unit : (readBack 3 .accepted s).uc.unit ≠ .starting := by
      rcases runs with e | e <;> exact fun same => absurd (e.symm.trans same) nofun
    exact ⟨fun running open_ => ⟨_, exec_abort_order runs, aborted_running running open_ unit⟩,
      fun reading => ⟨_, exec_abort_order runs, aborted_reading reading unit⟩,
      fun closing => ⟨_, exec_abort_order runs, aborted_closing closing unit⟩⟩
  · have run := followLink_runningAt (readBack 4 .accepted s) p fun o =>
      { o with heldReason := none, heldPoint := none }
    exact ⟨_, exec_resume_held held point, run.unit, run.engine, run.bus, run.registers⟩

/-- Settles O51, by the state of every block after the reset and the writes that follow in a group begun. -/
theorem softResetKeepsNamedValues : Obligations.SoftResetKeepsNamedValues := by
  intro s levels
  obtain ⟨bus, stray, free, reset, mid, follow, grown⟩ := softReset_eq levels (readBack 6 .accepted s)
  refine ⟨_, exec_softReset levels s, ?_⟩
  rw [reset]
  refine ⟨rfl, rfl, rfl, rfl, rfl, rfl, rfl, rfl, fun n => ?_, rfl, rfl, fun h => get_map _ _ h, fun h => ?_, rfl, rfl,
    rfl, rfl, rfl, rfl, rfl, rfl, rfl, rfl, rfl, rfl, rfl, rfl, rfl, ⟨mid, grown.symm⟩, fun kind writes written => ?_⟩
  · rw [State.notice, BitVec.getLsbD_and, keptNotices_bit]
    rfl
  · dsimp only
    rw [get_map]
    exact ⟨rfl, rfl, rfl, rfl, rfl, asleep_sent _⟩
  · change _ ∈ bus at written
    rw [grown] at written
    exact (List.mem_append.mp written).imp id (follow kind writes)

/-- Settles O50, block by block, the Result Writer by its phase. -/
theorem stoppedEntryDisarmsEveryBlock : Obligations.StoppedEntryDisarmsEveryBlock := by
  intro s e code stops
  generalize accepted : readBack code .accepted s = u
  obtain ⟨unit, stopping, cause, ports, tracker, tg, sf, mode, heads, sb, engine, chain, active, doing, cursor,
    segments, registers, _⟩ := enterStopped_spec u
  obtain ⟨cell, order, ru⟩ := enterStopped_control u
  have kept := enterStopped_stray_kept u
  have all := enterStopped_stray_writer u
  have writer := enterStopped_writer u
  obtain ⟨same, _⟩ := blocksStopped_stands u
  have closes := fun g => enterStopped_closes u (g := g)
  refine ⟨enterStopped u, by rw [exec_stops stops, accepted], ?_⟩
  generalize enterStopped u = t at *
  subst accepted
  refine ⟨unit, stopping, cause, fun h => ?_, ?_, ?_, active, tracker, ?_, fun h => ?_, ?_, ?_, ?_, mode, fun h => ?_,
    ?_, ?_, ?_, engine, chain, ?_, ?_, doing, cursor, segments, closes, fun unfilled sound open_ => ?_,
    fun closing => ?_, ⟨cell, fun still => ?_, fun sound open_ => ?_⟩, fun faulted => ?_, registers⟩
  · rw [ports, get_map]
    exact ⟨rfl, rfl, rfl, rfl, rfl, rfl, rfl, rfl, by unfold Port.asleep; split <;> rfl, asleep_sent _⟩
  · rw [ru]
    rfl
  · rw [order]
    rfl
  · rw [tg]
  · rw [State.scan, State.ref, tg, get_map]
    exact ⟨rfl, rfl⟩
  iterate 3
    rw [sf]
    rfl
  · rw [heads, get_map]
    exact ⟨rfl, rfl, rfl⟩
  iterate 3
    rw [sb]
    rfl
  iterate 2
    rw [order]
    rfl
  · rw [writer]
    exact stopWriter_unfilled (same ▸ unfilled) (same ▸ sound) (same ▸ open_)
  · rw [writer, stopWriter_closing (same ▸ closing), State.listsForgotten, same]
    exact ⟨closing, rfl, rfl, rfl⟩
  · exact kept still
  · exact (all sound open_).trans (congrArg _ (kind_toList s.rw.doing))
  · rw [writer, stopWriter_faulted (same ▸ faulted)]
    exact ⟨rfl, rfl⟩

/-- Settles O15: each check by the fields it reads, the shared angle of two windows by where they begin. -/
theorem checksFailOnFieldsOutOfRange : Obligations.ChecksFailOnFieldsOutOfRange := by
  refine ⟨fun bytes => ?_, fun cpr bytes mask checks ref fits => ?_, fun bytes h => ?_⟩
  · intro c
    refine ⟨cellRecord_valid_iff c, twoCodes_iff _ _ _, twoCodes_iff _ _ _, twoCodes_iff _ _ _, monSelectionOf_iff _,
      monSelectionOf_iff _, fun h => ?_⟩
    change ((PerHead.of fun h => readHeadConfig bytes (0x100 + 64 * h.num)).get h).action ≠ none ↔ _
    rw [get_of]
    have next : 0x100 + 64 * h.num + 1 = 0x101 + 64 * h.num := by omega
    rw [← next]
    exact faultActionOf_iff _
  · intro t check total c8 c9 c10 c11 c12 c13
    have sum : t.length = total := zonesLength_eq_sum t.zones
    refine zoneTableCheck_first Iff.rfl ?_ ?_ ?_ ?_ fun p8 p9 => ?_
    · rw [geometryFails_iff, sum]
    · simp only [c10, List.any_eq_true, Bool.or_eq_true, beq_iff_eq, decide_eq_true_eq]
    · simp only [c11, List.any_eq_true, Bool.or_eq_true, beq_iff_eq, decide_eq_true_eq]
    · rw [List.any_eq_true]
      refine exists_congr fun z => and_congr_right fun _ => ?_
      simp only [exists_head_iff, Bool.and_eq_true, Bool.not_eq_true']
    · have geometry : t.geometryOk cpr = true := by
        rw [← Bool.not_eq_false, ← Bool.not_eq_true', geometryFails_iff, sum]
        exact p9
      obtain ⟨start, _, length, _⟩ := (geometryOk_iff cpr t).mp geometry
      have some := one_le_length p8 geometry
      cases ref with
      | none => simp [c13]
      | some r =>
        obtain ⟨refStart, refSome, refFits⟩ := fits r rfl
        rw [Bool.and_eq_true, windowsOverlap_iff start length some refStart refSome refFits, sum]
        simp [c13]
  · intro points
    refine ⟨correctionTableValid_iff bytes h, length_readPoints 257 _, fun i within => ?_⟩
    rw [show points = readPoints 257 (bytes.drop 8) from rfl, getElem?_readPoints 257 i _ within, leInt32_drop]

/-- Settles O47: START by whether XBASE is 0, and the read's end by whether the record passes. -/
theorem startTakesCellRecord : Obligations.StartTakesCellRecord := by
  intro s bytes c
  refine ⟨fun opened => ?_, fun own reading starting => ⟨fun r fails => ?_, fun valid => ?_⟩⟩
  · have started := started_spec s
    have answer := exec_start s opened
    by_cases base : s.xbase = 0
    · have unit : s.started.uc.unit ≠ .faulted := by rw [started.unit]; exact nofun
      obtain ⟨faulted, cause, tracker, notice, _, _, _, registers, _⟩ := enterFaulted_spec .cellInvalid _ unit
      obtain ⟨tag, cursor, power, buffer⟩ := enterFaulted_keepsStart .cellInvalid unit
      have all := started.registers.trans registers
      rw [readCell_faults (started.base.trans base)] at answer
      refine ⟨_, answer, all.ucmdCode, all.ucmdResult, ?_, fun none => ?_, cursor.trans started.cursor,
        tag.trans started.tag, power.trans started.powerOn, all.xbaseL, all.xbaseH, all.noteEn, all.time, all.pending,
        fun based => absurd base based, fun _ => ⟨faulted, cause, notice⟩⟩
      · rw [tracker, Tracker.lost]
        split <;> exact started.revolution
      · rw [buffer (by rw [started.ports]; exact none)]
        exact started.highWater
    · have based : s.started.xbase ≠ 0 := by rw [started.base]; exact base
      rw [readCell_begins based] at answer
      have all := started.registers
      obtain ⟨page, writes, bus⟩ := started.page
      refine ⟨_, answer, all.ucmdCode, all.ucmdResult, started.revolution, fun _ => started.highWater, started.cursor,
        started.tag, started.powerOn, all.xbaseL, all.xbaseH, all.noteEn, all.time, all.pending,
        fun _ => ⟨?_, ?_, rfl, started.ports, started.staged, page, writes, ?_⟩, fun zero => absurd zero base⟩
      · exact congrArg UnitControl.unit started.unit
      · exact congrArg UnitControl.cause started.unit
      · rw [← started.base, ← bus]
        rfl
  · obtain ⟨uc, _, _, _, done⟩ := cellDone_stands s r
    have unit : (s.cellDone r).uc.unit ≠ .faulted := by rw [uc, starting]; exact nofun
    obtain ⟨faulted, cause, _, notice, _⟩ := enterFaulted_spec .cellInvalid _ unit
    obtain ⟨routed, rest, _⟩ := (enterFaulted_routed .cellInvalid unit).settled
    have steady := settle_steady (Steady.refl (enterFaulted .cellInvalid (s.cellDone r)))
    refine ⟨_, exec_cellRecordRead r own reading, ?_⟩
    rw [cellFound_fails _ fails, rest.uc]
    exact ⟨faulted, cause, steady.notices _ notice, done.trans routed.registers⟩
  · obtain ⟨_, _, _, sensed, _⟩ := (cellRecord_valid_iff c).mp valid
    obtain ⟨sense, known⟩ := Option.ne_none_iff_exists'.mp sensed
    obtain ⟨uc, tracker, ports, light, done⟩ := cellDone_stands s (.data bytes)
    have taken := (startWakes_cellTaken known (s.cellDone (.data bytes))).settled
    refine ⟨_, sense, exec_cellRecordRead _ own reading, known, ?_⟩
    rw [cellFound_passes (c := c) _ rfl valid]
    refine ⟨?_, ?_, done.trans taken.registers, ?_, taken.lines, taken.waits, fun h => ?_⟩
    · rw [taken.unit, uc]
      exact starting
    · rw [taken.unit, uc]
    · rw [taken.tracker, tracker, done.time]
    · obtain ⟨config, absent, woken⟩ := taken.ports h
      rw [ports, light] at woken
      rw [ports] at absent
      exact ⟨config, absent, woken⟩

end

section
/-! The bytes of a record (11.5): how many each layout writes, and the type code that they begin with (R186). -/

namespace Sys2Proof.Machine

/-! ## Numbers as bytes (11) -/

@[simp] theorem length_leBytes (n v : Nat) : (leBytes n v).length = n := by
  induction n generalizing v with
  | zero => rfl
  | succ n ih => rw [leBytes, List.length_cons, ih]

/-- A first byte keeps the bits 3 to 0 of the number that it is cut from. -/
theorem ofNat_byte_mod_sixteen (v : Nat) : (BitVec.ofNat 8 v).toNat % 16 = v % 16 := by
  rw [BitVec.toNat_ofNat]
  exact Nat.mod_mod_of_dvd v (by decide : 16 ∣ 2 ^ 8)

/-! ## The layouts (11.5) -/

@[simp] theorem StandardItems.length_bytes (i : StandardItems) : i.bytes.length = 8 := by simp [StandardItems.bytes]

/-- Every record is as many bytes as its type says. -/
theorem Record.length_bytes (r : Record) : r.bytes.length = r.length := by
  cases r with
  | sample x => cases h : x.body <;> simp [Record.bytes, Record.length, SampleBody.bytes, h]
  | orderBegin _ | orderEnd _ | stepBegin _ | stepEnd _ | gap _ | reference _ => simp [Record.bytes, Record.length]

/-- The fields that a body puts into a sample's first word stand from bit 43 on. -/
theorem SampleBody.bits_dvd (b : SampleBody) : 2 ^ 43 ∣ b.bits := by
  cases b <;> simp only [SampleBody.bits, StandardItems.bits] <;> omega

theorem Record.typeCode_lt_sixteen (r : Record) : r.typeCode < 16 := by
  cases r with
  | sample x => cases h : x.body <;> simp [Record.typeCode, h]
  | orderBegin _ | orderEnd _ | stepBegin _ | stepEnd _ | gap _ | reference _ => simp [Record.typeCode]

/-- Below the head's number, at bit 4, a sample's first word holds the type code alone. -/
theorem SampleRecord.word_mod_sixteen (x : SampleRecord) : x.word % 16 = (Record.sample x).typeCode := by
  have code := Record.typeCode_lt_sixteen (.sample x)
  have body := x.body.bits_dvd
  rw [SampleRecord.word]
  omega

/-- Every record begins with its type code, in bits 3 to 0 of the number that its first byte is cut from. -/
theorem Record.bytes_begin (r : Record) :
    ∃ v, r.bytes[0]? = some (BitVec.ofNat 8 v) ∧ v % 16 = r.typeCode := by
  cases r with
  | sample x => exact ⟨x.word, rfl, x.word_mod_sixteen⟩
  | gap x => exact ⟨12 + 16 * x.head.num, rfl, Nat.add_mul_mod_self_left 12 16 _⟩
  | reference x => exact ⟨13 + 16 * x.head.num, rfl, Nat.add_mul_mod_self_left 13 16 _⟩
  | orderBegin x => exact ⟨8 + 16 * maskBits x.mask, rfl, Nat.add_mul_mod_self_left 8 16 _⟩
  | orderEnd _ => exact ⟨9, rfl, rfl⟩
  | stepBegin _ => exact ⟨10, rfl, rfl⟩
  | stepEnd _ => exact ⟨11, rfl, rfl⟩

end Sys2Proof.Machine
end

section
/-! The statements of 11 (the Exchange Area and record formats), settled. -/

open Sys2Proof Sys2Proof.Machine

/-- Settles O56, by the bytes that each layout writes, the type read off, and the number that the first byte is cut
from. -/
theorem recordLengthsMatchTheirBytes : Obligations.RecordLengthsMatchTheirBytes := by
  intro r
  refine ⟨r.length_bytes, ?_, ?_⟩
  · cases r with
    | sample x => cases h : x.body <;> simp only [Record.length, Record.typeCode, h]
    | orderBegin _ | orderEnd _ | stepBegin _ | stepEnd _ | gap _ | reference _ => rfl
  · obtain ⟨v, first, code⟩ := r.bytes_begin
    exact ⟨BitVec.ofNat 8 v, first, (ofNat_byte_mod_sixteen v).trans code⟩

end

section
/-! A step on a queue that is not empty (log 2): with `step_idle`, the two things that a step can be. -/

namespace Sys2Proof.Machine

theorem step_front {c : Instr} {rest : List Instr} {s : State} (front : s.pending = c :: rest) :
    step s = exec c { s with pending := rest } := by
  unfold step
  rw [front]

end Sys2Proof.Machine
end

section
/-! The statement of the step itself, settled. -/

open Sys2Proof Sys2Proof.Machine

/-- Settles O1, by the arm of the step for a queue with a command at its front. -/
theorem stepRunsFrontCommand : Obligations.StepRunsFrontCommand :=
  fun _ _ _ front => step_front front

end
